-- ==== Sys2Proof/Word.lean ====
section
/-! DEFINITION. Sys2Proof/Word.lean: the words of the machine and the names of their widths (R3, R100, R206). -/

namespace Sys2Proof

/-- A byte of memory (R3). -/
abbrev Byte := BitVec 8

/-- A general register, an extension register, a virtual address or the program counter (R100, R266). -/
abbrev Word := BitVec 64

/-- A predicate register: bit i governs the 32-bit lane slot i (R100, R102). -/
abbrev Pred := BitVec 16

/-- A vector register (R100). -/
abbrev Vec := BitVec 512

/-- The six sticky flags of FFLAGS: SAT, NX, UF, OF, DZ, NV from bit 5 down to bit 0 (R106). -/
abbrev Flags := BitVec 6

end Sys2Proof
end

