-- ==== Sys2Proof/Config.lean ====
section
/-! DEFINITION. Sys2Proof/Config.lean: what the spec leaves to a stepping or leaves open, as constants without a
body, so that no proof can see a value (notes/assumptions/4.md, 8.md, 10.md). -/

namespace Sys2Proof.Config

/-- A free number: the n-th choice that the spec leaves open (log 4: DESIGN CHOICE, safe). -/
opaque freeNat : Nat → Nat

/-- A free 512-bit value: the n-th value that the spec leaves open (log 4: DESIGN CHOICE, safe). -/
opaque freeVec : Nat → BitVec 512

/-- A free truth value: the n-th yes-or-no choice that the spec leaves open (log 4: DESIGN CHOICE, safe). -/
opaque freeBool : Nat → Bool

/-- Whether two signatures meet although no line is common to them: a false positive of the stepping's hash
functions (R347, R479; log 8: DESIGN CHOICE, safe). The arguments number the lines of the two signatures. -/
opaque sigFalseHit : List (Nat × Nat × Nat) → List (Nat × Nat × Nat) → Bool

/-- Whether a signature of more than 192 lines has passed 768 set bits (R165, R479; log 8: DESIGN CHOICE, safe). -/
opaque sigOver : List (Nat × Nat × Nat) → Bool

/-- The candidate of an approximated reciprocal, operation number and operand bits given (R225; log 10: DESIGN CHOICE,
safe). -/
opaque approx : Nat → Nat → Nat → Nat

/-- The candidate of an approximated transcendental on f32 or f64 operands (R225, R262; log 10: DESIGN CHOICE, safe). -/
opaque approxFn : Nat → Nat → Nat → Nat

/-- The stepping number of this device (R398, R406; log 11: DESIGN CHOICE, unsafe). -/
opaque stepping : BitVec 16

/-- The stepping-bound section of a saved image, which only its own stepping reads (R401; log 11: DESIGN CHOICE, unsafe). -/
opaque scanBytes : Nat → List (BitVec 8)

/-- What the INFO command reports beside the present-cluster map (R441; log 12: DESIGN CHOICE, unsafe). -/
opaque infoWord : Nat → BitVec 64

/-- Whether the system enables the CXL 3.1 Type 2 option (R430; log 14: DESIGN CHOICE, unsafe). -/
opaque cxl : Bool

/-- The hash that chooses the port of a source thread and a destination device (R432; log 14: DESIGN CHOICE, unsafe). -/
opaque portHash : Nat → Nat → Nat

/-- What bring-up writes for ASID 0: its tables, the frame of its root, and where each die's supervisor begins (R442
step 4; log 2: DESIGN CHOICE, unsafe). -/
opaque bootCells : List (Nat × BitVec 8)
opaque bootRoot : Nat
opaque bootPc : Nat → BitVec 64

end Sys2Proof.Config
end

