-- ==== Sys2Proof/Syntax.lean ====
section
/-! DEFINITION. Sys2Proof/Syntax.lean: the instructions of the Yarlyn module, one constructor for each row of
spec/opcode_table.json: the 176 opcodes of R137-R144 with the fields of their formats (R129-R134), the fifteen
16-bit forms of R146, and the device steps that the table lists without an instruction word. A field keeps the
letter that the table gives it; a type, width or operation code is a number below its bound, which WellFormed
limits to the codes the spec accepts. In a 16-bit form a register field holds the register number minus 8 (R145).
In AMOW and AMOWCAS the fields d, b and c hold half the even register number (R143). A device step names the unit
it acts on: l a launch, c a cluster, tid a thread, tile a tile, f a function (0 the physical function, n + 1 the
virtual function n), u a mailbox caller (0-16 the functions, 17 + d the supervisor of die d, R441), k a place in a
queue of the state. -/

namespace Sys2Proof

inductive Instr where
  /-- ADD, R190: Adds ga and gb at 64 or 32 bits (W) into gd, wrapping. -/
  | add (w : Bool) (d a b : Fin 32) (s : Fin 8)
  /-- SUB, R190: Subtracts gb from ga into gd, wrapping. -/
  | sub (w : Bool) (d a b : Fin 32) (s : Fin 8)
  /-- MUL, R190: Writes the low N bits of ga times gb. -/
  | mul (w : Bool) (d a b : Fin 32) (s : Fin 8)
  /-- MULH, R190: Writes the high N bits of the signed 2N-bit product. -/
  | mulh (w : Bool) (d a b : Fin 32) (s : Fin 8)
  /-- MULHZ, R190: Writes the high N bits of the unsigned 2N-bit product. -/
  | mulhz (w : Bool) (d a b : Fin 32) (s : Fin 8)
  /-- DIV, R190: Signed quotient truncated towards zero; division by zero gives -1. -/
  | div (w : Bool) (d a b : Fin 32) (s : Fin 8)
  /-- DIVZ, R190: Unsigned quotient; division by zero gives all ones. -/
  | divz (w : Bool) (d a b : Fin 32) (s : Fin 8)
  /-- REM, R190: Signed remainder with the dividend's sign; by zero gives the dividend. -/
  | rem (w : Bool) (d a b : Fin 32) (s : Fin 8)
  /-- REMZ, R190: Unsigned remainder; by zero gives the dividend. -/
  | remz (w : Bool) (d a b : Fin 32) (s : Fin 8)
  /-- AND, R190: Bitwise AND of ga and gb. -/
  | and (w : Bool) (d a b : Fin 32) (s : Fin 8)
  /-- OR, R190: Bitwise OR of ga and gb. -/
  | or (w : Bool) (d a b : Fin 32) (s : Fin 8)
  /-- XOR, R190: Bitwise XOR of ga and gb. -/
  | xor (w : Bool) (d a b : Fin 32) (s : Fin 8)
  /-- ANDN, R190: ga AND NOT gb. -/
  | andn (w : Bool) (d a b : Fin 32) (s : Fin 8)
  /-- SHL, R190: Shifts ga left by gb mod N. -/
  | shl (w : Bool) (d a b : Fin 32) (s : Fin 8)
  /-- SHR, R190: Shifts ga right by gb mod N with zeros in. -/
  | shr (w : Bool) (d a b : Fin 32) (s : Fin 8)
  /-- SHA, R190: Shifts ga right by gb mod N with sign copies in. -/
  | sha (w : Bool) (d a b : Fin 32) (s : Fin 8)
  /-- MIN, R190: Signed minimum of ga and gb. -/
  | min (w : Bool) (d a b : Fin 32) (s : Fin 8)
  /-- MAX, R190: Signed maximum of ga and gb. -/
  | max (w : Bool) (d a b : Fin 32) (s : Fin 8)
  /-- MINZ, R190: Unsigned minimum of ga and gb. -/
  | minz (w : Bool) (d a b : Fin 32) (s : Fin 8)
  /-- MAXZ, R190: Unsigned maximum of ga and gb. -/
  | maxz (w : Bool) (d a b : Fin 32) (s : Fin 8)
  /-- CLZ, R190: Counts leading zeros of ga. -/
  | clz (w : Bool) (d a : Fin 32) (s : Fin 8)
  /-- CTZ, R190: Counts trailing zeros of ga. -/
  | ctz (w : Bool) (d a : Fin 32) (s : Fin 8)
  /-- POPC, R190: Counts set bits of ga. -/
  | popc (w : Bool) (d a : Fin 32) (s : Fin 8)
  /-- ABS, R190: Magnitude of signed ga, wrapping at the most negative value. -/
  | abs (w : Bool) (d a : Fin 32) (s : Fin 8)
  /-- EXTB, R191: Extracts a bit field of ga described by gb, optionally sign-extended. -/
  | extb (w : Bool) (d a b : Fin 32) (s : Fin 8)
  /-- INSB, R191: Inserts a field of ga into gd at the position and length in gb. -/
  | insb (w : Bool) (d a b : Fin 32) (s : Fin 8)
  /-- SEL, R193: Selects ga or gb by bit 0 of a predicate. -/
  | sel (p : Fin 8) (d a b : Fin 32) (s : Fin 8)
  /-- LEA, R193: Writes ga plus gb shifted left by 0 to 7. -/
  | lea (h : Fin 8) (d a b : Fin 32) (s : Fin 8)
  /-- ADDI, R194: Adds a sign-extended 12-bit immediate to ga. -/
  | addi (d a : Fin 32) (i : BitVec 12) (s : Fin 8)
  /-- ANDI, R194: ANDs ga with a sign-extended 12-bit immediate. -/
  | andi (d a : Fin 32) (i : BitVec 12) (s : Fin 8)
  /-- ORI, R194: ORs ga with a sign-extended 12-bit immediate. -/
  | ori (d a : Fin 32) (i : BitVec 12) (s : Fin 8)
  /-- XORI, R194: XORs ga with a sign-extended 12-bit immediate. -/
  | xori (d a : Fin 32) (i : BitVec 12) (s : Fin 8)
  /-- SHLI, R194: Shifts ga left by an immediate 0 to 63. -/
  | shli (n : BitVec 6) (d a : Fin 32) (s : Fin 8)
  /-- SHRI, R194: Shifts ga right logically by an immediate 0 to 63. -/
  | shri (n : BitVec 6) (d a : Fin 32) (s : Fin 8)
  /-- SHAI, R194: Shifts ga right arithmetically by an immediate 0 to 63. -/
  | shai (n : BitVec 6) (d a : Fin 32) (s : Fin 8)
  /-- LI, R195: Loads a sign-extended 17-bit immediate into gd. -/
  | li (d : Fin 32) (i : BitVec 17) (s : Fin 8)
  /-- LIH, R195: Shifts gd left by 17 and ORs in a 17-bit immediate. -/
  | lih (d : Fin 32) (i : BitVec 17) (s : Fin 8)
  /-- CMP, R196: Compares ga with gb under a condition and fills a predicate with the outcome. -/
  | cmp (w : Bool) (c p : Fin 8) (a b : Fin 32) (s : Fin 8)
  /-- CMPI, R196: Compares ga with a sign-extended 9-bit immediate and fills a predicate. -/
  | cmpi (c p : Fin 8) (a : Fin 32) (i : BitVec 9) (s : Fin 8)
  /-- PAND, R197: ANDs two predicates. -/
  | pand (d a b s : Fin 8)
  /-- POR, R197: ORs two predicates. -/
  | por (d a b s : Fin 8)
  /-- PXOR, R197: XORs two predicates. -/
  | pxor (d a b s : Fin 8)
  /-- PNOT, R197: Inverts a predicate. -/
  | pnot (d a s : Fin 8)
  /-- PGET, R197: Copies a predicate zero-extended into gd. -/
  | pget (d : Fin 32) (a s : Fin 8)
  /-- PPUT, R197: Copies the low 16 bits of ga into a predicate. -/
  | pput (d : Fin 8) (a : Fin 32) (s : Fin 8)
  /-- PCNT, R197: Counts the set bits of a predicate into gd. -/
  | pcnt (d : Fin 32) (a s : Fin 8)
  /-- BEQ, R198: Branches when ga equals gb. -/
  | beq (o : BitVec 12) (a b : Fin 32) (s : Fin 8)
  /-- BNE, R198: Branches when ga differs from gb. -/
  | bne (o : BitVec 12) (a b : Fin 32) (s : Fin 8)
  /-- BLT, R198: Branches when ga is less than gb, signed. -/
  | blt (o : BitVec 12) (a b : Fin 32) (s : Fin 8)
  /-- BGE, R198: Branches when ga is at least gb, signed. -/
  | bge (o : BitVec 12) (a b : Fin 32) (s : Fin 8)
  /-- BLO, R198: Branches when ga is less than gb, unsigned. -/
  | blo (o : BitVec 12) (a b : Fin 32) (s : Fin 8)
  /-- BHS, R198: Branches when ga is at least gb, unsigned. -/
  | bhs (o : BitVec 12) (a b : Fin 32) (s : Fin 8)
  /-- BP, R199: Branches when a chosen bit of a predicate is 1. -/
  | bp (o : BitVec 12) (p : Fin 8) (i : Fin 16) (s : Fin 8)
  /-- BNP, R199: Branches when a chosen bit of a predicate is 0. -/
  | bnp (o : BitVec 12) (p : Fin 8) (i : Fin 16) (s : Fin 8)
  /-- JMP, R200: Jumps to a PC-relative target within 4 MiB. -/
  | jmp (o : BitVec 22) (s : Fin 8)
  /-- CALL, R200: Writes the link into g31 and jumps to a PC-relative target. -/
  | call (o : BitVec 22) (s : Fin 8)
  /-- JR, R201: Jumps to ga plus an immediate, trapping ALIGN on an odd target. -/
  | jr (a : Fin 32) (i : BitVec 12) (s : Fin 8)
  /-- CALLR, R201: Links g31 and jumps to ga plus an immediate, trapping ALIGN on an odd target. -/
  | callr (a : Fin 32) (i : BitVec 12) (s : Fin 8)
  /-- LOOP, R202: Decrements ga and branches while the result is nonzero. -/
  | loop (o : BitVec 12) (a : Fin 32) (s : Fin 8)
  /-- EXT, R203: Copies ga into an extension register. -/
  | ext (d : Fin 8) (a : Fin 32) (s : Fin 8)
  /-- EXTGET, R203: Copies an extension register into gd. -/
  | extget (d : Fin 32) (a s : Fin 8)
  /-- EXTI, R203: Shifts an extension register left by 17 and ORs in an immediate. -/
  | exti (d : Fin 8) (i : BitVec 17) (s : Fin 8)
  /-- EXTLD, R204: Loads 8 bytes from memory into an extension register as LD.d does. -/
  | extld (d : Fin 8) (a : Fin 32) (i : BitVec 10) (s : Fin 8)
  /-- FADD, R233: Adds two f32, f16 or bf16 values with one rounding. -/
  | fadd (t : Fin 8) (d a b : Fin 32) (s : Fin 8)
  /-- FSUB, R233: Subtracts two scalar floats with one rounding. -/
  | fsub (t : Fin 8) (d a b : Fin 32) (s : Fin 8)
  /-- FMUL, R233: Multiplies two scalar floats with one rounding. -/
  | fmul (t : Fin 8) (d a b : Fin 32) (s : Fin 8)
  /-- FMIN, R235: Takes the minimum of two scalar floats. -/
  | fmin (t : Fin 8) (d a b : Fin 32) (s : Fin 8)
  /-- FMAX, R235: Takes the maximum of two scalar floats. -/
  | fmax (t : Fin 8) (d a b : Fin 32) (s : Fin 8)
  /-- FSGN, R236: Replaces the sign of ga with that of gb. -/
  | fsgn (t : Fin 8) (d a b : Fin 32) (s : Fin 8)
  /-- FCMP, R237: Compares two scalar floats into a 1, 2, 4 or 8 result. -/
  | fcmp (t : Fin 8) (d a b : Fin 32) (s : Fin 8)
  /-- FCVT, R239: Converts between a half or single float type and another non-f64 type. -/
  | fcvt (x y : Fin 8) (d a : Fin 32) (s : Fin 8)
  /-- FRCP, R240: Returns a reciprocal estimate. -/
  | frcp (t : Fin 8) (d a : Fin 32) (s : Fin 8)
  /-- FRSQ, R240: Returns a reciprocal square-root estimate. -/
  | frsq (t : Fin 8) (d a : Fin 32) (s : Fin 8)
  /-- FRFN, R240: Refines a reciprocal estimate by x(2 - ax) with one rounding. -/
  | frfn (t : Fin 8) (d a b : Fin 32) (s : Fin 8)
  /-- FCLASS, R238: Writes a one-hot class of a scalar float. -/
  | fclass (t : Fin 8) (d a : Fin 32) (s : Fin 8)
  /-- FFMA, R233: Fused multiply-add of three scalar floats with one rounding. -/
  | ffma (t : Fin 4) (c d a b : Fin 32) (s : Fin 8)
  /-- DADD, R233: Heavy f64 add. -/
  | dadd (d a b : Fin 32) (s : Fin 8)
  /-- DSUB, R233: Heavy f64 subtract. -/
  | dsub (d a b : Fin 32) (s : Fin 8)
  /-- DMUL, R233: Heavy f64 multiply. -/
  | dmul (d a b : Fin 32) (s : Fin 8)
  /-- DDIV, R241: Heavy correctly rounded f64 division. -/
  | ddiv (d a b : Fin 32) (s : Fin 8)
  /-- DSQRT, R241: Heavy correctly rounded f64 square root. -/
  | dsqrt (d a : Fin 32) (s : Fin 8)
  /-- DMIN, R235: Heavy f64 minimum. -/
  | dmin (d a b : Fin 32) (s : Fin 8)
  /-- DMAX, R235: Heavy f64 maximum. -/
  | dmax (d a b : Fin 32) (s : Fin 8)
  /-- DCMP, R237: Heavy f64 compare into a 1, 2, 4 or 8 result. -/
  | dcmp (d a b : Fin 32) (s : Fin 8)
  /-- DCVT, R239: Heavy conversion to or from f64. -/
  | dcvt (x y : Fin 8) (d a : Fin 32) (s : Fin 8)
  /-- FEXP2, R241: Heavy f32 exp2 within 1 ulp. -/
  | fexp2 (d a : Fin 32) (s : Fin 8)
  /-- FLOG2, R241: Heavy f32 log2 within 1 ulp. -/
  | flog2 (d a : Fin 32) (s : Fin 8)
  /-- FSIN, R241: Heavy f32 sine within 2 ulp. -/
  | fsin (d a : Fin 32) (s : Fin 8)
  /-- FCOS, R241: Heavy f32 cosine within 2 ulp. -/
  | fcos (d a : Fin 32) (s : Fin 8)
  /-- FDIV, R241: Heavy correctly rounded f32 division. -/
  | fdiv (d a b : Fin 32) (s : Fin 8)
  /-- FSQRT, R241: Heavy correctly rounded f32 square root. -/
  | fsqrt (d a : Fin 32) (s : Fin 8)
  /-- DFMA, R233: Heavy fused f64 multiply-add. -/
  | dfma (c d a b : Fin 32) (s : Fin 8)
  /-- VADD, R249: Adds active vector elements. -/
  | vadd (t : Fin 8) (g : Fin 4) (d a b : Fin 32) (s : Fin 8)
  /-- VSUB, R249: Subtracts active vector elements. -/
  | vsub (t : Fin 8) (g : Fin 4) (d a b : Fin 32) (s : Fin 8)
  /-- VMUL, R249: Multiplies active vector elements. -/
  | vmul (t : Fin 8) (g : Fin 4) (d a b : Fin 32) (s : Fin 8)
  /-- VFMA, R249: Fused multiply-add into vd for active elements. -/
  | vfma (t : Fin 8) (g : Fin 4) (d a b : Fin 32) (s : Fin 8)
  /-- VMIN, R249: Element-wise minimum. -/
  | vmin (t : Fin 8) (g : Fin 4) (d a b : Fin 32) (s : Fin 8)
  /-- VMAX, R249: Element-wise maximum. -/
  | vmax (t : Fin 8) (g : Fin 4) (d a b : Fin 32) (s : Fin 8)
  /-- VSGN, R249: Element-wise sign transfer. -/
  | vsgn (t : Fin 8) (g : Fin 4) (d a b : Fin 32) (s : Fin 8)
  /-- VCMP, R250: Compares elements and writes a predicate. -/
  | vcmp (t : Fin 8) (c : Fin 4) (p : Fin 8) (g : Fin 4) (a b : Fin 32) (s : Fin 8)
  /-- VAND, R251: Bitwise AND of active elements. -/
  | vand (t : Fin 8) (g : Fin 4) (d a b : Fin 32) (s : Fin 8)
  /-- VOR, R251: Bitwise OR of active elements. -/
  | vor (t : Fin 8) (g : Fin 4) (d a b : Fin 32) (s : Fin 8)
  /-- VXOR, R251: Bitwise XOR of active elements. -/
  | vxor (t : Fin 8) (g : Fin 4) (d a b : Fin 32) (s : Fin 8)
  /-- VSEL, R251: Selects each element from va or vb by a predicate. -/
  | vsel (t : Fin 8) (g : Fin 4) (d a b : Fin 32) (s : Fin 8)
  /-- VSHL, R251: Shifts elements left by per-lane counts. -/
  | vshl (t : Fin 8) (g : Fin 4) (d a b : Fin 32) (s : Fin 8)
  /-- VSHR, R251: Shifts elements right logically. -/
  | vshr (t : Fin 8) (g : Fin 4) (d a b : Fin 32) (s : Fin 8)
  /-- VSHA, R251: Shifts elements right arithmetically. -/
  | vsha (t : Fin 8) (g : Fin 4) (d a b : Fin 32) (s : Fin 8)
  /-- VIOTA, R251: Writes each active element's index. -/
  | viota (t : Fin 8) (g : Fin 4) (d : Fin 32) (s : Fin 8)
  /-- VCVT, R252: Converts elements between lane types. -/
  | vcvt (t y : Fin 8) (g : Fin 4) (d a : Fin 32) (s : Fin 8)
  /-- VQNT, R255: Quantises 16 f32 elements to a narrow format with a derived scale. -/
  | vqnt (f : Fin 8) (g : Fin 4) (d a b : Fin 32) (s : Fin 8)
  /-- VSCX, R253: Joins the exchange group's scale agreement and returns the agreed maximum. -/
  | vscx (g : Fin 4) (d a : Fin 32) (s : Fin 8)
  /-- VDOT, R256: Accumulates dot products of narrow elements into 32-bit elements. -/
  | vdot (t : Fin 8) (g : Fin 4) (d a b : Fin 32) (s : Fin 8)
  /-- VREDS, R257: Reduces active elements into element 0. -/
  | vreds (t o : Fin 8) (g : Fin 4) (d a : Fin 32) (s : Fin 8)
  /-- VSCAN, R258: Writes inclusive prefix combinations of active elements. -/
  | vscan (t o : Fin 8) (g : Fin 4) (d a : Fin 32) (s : Fin 8)
  /-- VPERM, R259: Permutes elements by lane indices. -/
  | vperm (t : Fin 8) (g : Fin 4) (d a b : Fin 32) (s : Fin 8)
  /-- VBCST, R259: Broadcasts a g register into active elements. -/
  | vbcst (t : Fin 8) (g : Fin 4) (d a : Fin 32) (s : Fin 8)
  /-- VCMPR, R260: Packs elements selected by a mask. -/
  | vcmpr (t : Fin 8) (g : Fin 4) (d a : Fin 32) (s : Fin 8)
  /-- VEXPD, R260: Unpacks elements into mask positions. -/
  | vexpd (t : Fin 8) (g : Fin 4) (d a : Fin 32) (s : Fin 8)
  /-- VGETL, R261: Moves one element into a g register. -/
  | vgetl (t : Fin 8) (g : Fin 4) (d a b : Fin 32) (s : Fin 8)
  /-- VSETL, R261: Writes a g register into one element. -/
  | vsetl (t : Fin 8) (g : Fin 4) (d a b : Fin 32) (s : Fin 8)
  /-- VRCP, R262: Element-wise reciprocal estimate. -/
  | vrcp (t : Fin 8) (g : Fin 4) (d a : Fin 32) (s : Fin 8)
  /-- VRSQ, R262: Element-wise reciprocal square-root estimate. -/
  | vrsq (t : Fin 8) (g : Fin 4) (d a : Fin 32) (s : Fin 8)
  /-- VTRN, R262: Heavy element-wise transcendental or square root. -/
  | vtrn (t n : Fin 8) (g : Fin 4) (d a : Fin 32) (s : Fin 8)
  /-- LD, R296: Loads 1 to 8 bytes sign-extended into gd. -/
  | ld (w : Fin 4) (d a : Fin 32) (i : BitVec 10) (s : Fin 8)
  /-- LDZ, R296: Loads 1 to 8 bytes zero-extended into gd. -/
  | ldz (w : Fin 4) (d a : Fin 32) (i : BitVec 10) (s : Fin 8)
  /-- ST, R296: Buffers a store of the low bytes of gd. -/
  | st (w : Fin 4) (d a : Fin 32) (i : BitVec 10) (s : Fin 8)
  /-- VLD, R297: Loads 64 bytes into active 32-bit lanes. -/
  | vld (h g : Fin 4) (d a : Fin 32) (i : BitVec 8) (s : Fin 8)
  /-- VST, R297: Stores active 32-bit lanes of a 64-byte block. -/
  | vst (h g : Fin 4) (d a : Fin 32) (i : BitVec 8) (s : Fin 8)
  /-- VLDS, R298: Strided load into active lanes. -/
  | vlds (h : Bool) (g : Fin 4) (d a b : Fin 32) (s : Fin 8)
  /-- VSTS, R298: Strided store from active lanes. -/
  | vsts (h : Bool) (g : Fin 4) (d a b : Fin 32) (s : Fin 8)
  /-- VGATH, R298: Gathers active lanes from base plus offsets. -/
  | vgath (h : Bool) (g : Fin 4) (d a b : Fin 32) (s : Fin 8)
  /-- VSCAT, R298: Scatters active lanes to base plus offsets. -/
  | vscat (h : Bool) (g : Fin 4) (d a b : Fin 32) (s : Fin 8)
  /-- VLDF, R301: Loads tagged elements, applies block scales and converts to the lane type. -/
  | vldf (t : Fin 8) (g : Fin 4) (d a : Fin 32) (s : Fin 8)
  /-- VSTF, R302: Converts lanes to the page's format with scales and stores them. -/
  | vstf (t : Fin 8) (g : Fin 4) (d a : Fin 32) (s : Fin 8)
  /-- PREF, R304: Hints a line into its L2 home or the core's L1. -/
  | pref (h : Bool) (a : Fin 32) (s : Fin 8)
  /-- DSCRD, R304: Hints that a line will not be needed again. -/
  | dscrd (a : Fin 32) (s : Fin 8)
  /-- COPY, R306: Checks and buffers a Hoist copy, returning its sequence number. -/
  | copy (d : Fin 32) (s : Fin 8)
  /-- COPYW, R308: Waits until the slot's copies up to a number have finished. -/
  | copyw (a : Fin 32) (s : Fin 8)
  /-- COPYQ, R309: Reads the completed copy number and failure count. -/
  | copyq (d : Fin 32) (s : Fin 8)
  /-- ZFILL, R306: Checks and buffers a Hoist zero fill, returning its sequence number. -/
  | zfill (d : Fin 32) (s : Fin 8)
  /-- MMA, R319: Matrix job accumulating A times B into an acc96 tile C. -/
  | mma (d : Fin 32) (s : Fin 8)
  /-- MMAZ, R319: Matrix job forming A times B from zero and draining into C. -/
  | mmaz (d : Fin 32) (s : Fin 8)
  /-- MDRN, R322: Matrix job draining a stored acc96 tile into an output format. -/
  | mdrn (d : Fin 32) (s : Fin 8)
  /-- MTRN, R323: Matrix job transposing and converting a tile. -/
  | mtrn (d : Fin 32) (s : Fin 8)
  /-- MRSUM, R324: Matrix job writing row or column sums of an integer operand. -/
  | mrsum (d : Fin 32) (s : Fin 8)
  /-- AMO, R354: Atomic read-modify-write of 32 or 64 bits inside the chunk. -/
  | amo (w : Bool) (o : Fin 8) (d a b : Fin 32) (s : Fin 8)
  /-- AMOW, R356: Heavy 128-bit atomic read-modify-write at the home big core. -/
  | amow (o : Fin 8) (d : Fin 16) (a : Fin 32) (b : Fin 16) (s : Fin 8)
  /-- RED, R358: Buffered integer reduction applied at the home at commit. -/
  | red (w : Bool) (o : Fin 8) (a b : Fin 32) (s : Fin 8)
  /-- REDF, R358: Buffered f32 reduction applied at the home at commit. -/
  | redf (o : Fin 8) (a b : Fin 32) (s : Fin 8)
  /-- REDD, R358: Buffered f64 reduction applied at the home at commit. -/
  | redd (o : Fin 8) (a b : Fin 32) (s : Fin 8)
  /-- AMOCAS, R354: Compare-and-swap of 32 or 64 bits inside the chunk. -/
  | amocas (t : Bool) (c d a b : Fin 32) (s : Fin 8)
  /-- AMOWCAS, R356: Heavy 128-bit compare-and-swap. -/
  | amowcas (c d : Fin 16) (a : Fin 32) (b : Fin 16) (s : Fin 8)
  /-- VRED, R360: Buffered per-lane add reductions to base plus offsets. -/
  | vred (t : Fin 8) (g : Fin 4) (d a b : Fin 32) (s : Fin 8)
  /-- VBINA, R362: Buffered append of elements into cell bins at commit. -/
  | vbina (t : Fin 8) (g : Fin 4) (a b : Fin 32) (s : Fin 8)
  /-- CHEND, R363: Ends the chunk with forced boundaries on both sides. -/
  | chend (s : Fin 8)
  /-- CHID, R364: Reads the chunk count since dispatch and position in chunk. -/
  | chid (d : Fin 32) (s : Fin 8)
  /-- BAR, R365: Arrives at the level's barrier and waits for the phase to complete. -/
  | bar (n s : Fin 8)
  /-- BARA, R365: Arrives at the barrier's open phase and continues. -/
  | bara (n s : Fin 8)
  /-- BARW, R365: Waits for the pending barrier phase to complete. -/
  | barw (n s : Fin 8)
  /-- WAITV, R367: Registers a watch on a line and sleeps until a wake. -/
  | waitv (d a : Fin 32) (s : Fin 8)
  /-- FENCE, R368: Closes the chunk and with system scope waits for host and peer acknowledgements. -/
  | fence (e : Bool) (s : Fin 8)
  /-- WAITW, R369: Retires the item keeping registers; in the supervisor slot sleeps until a post. -/
  | waitw (s : Fin 8)
  /-- SPAWN, R371: Buffers creation of a group of N plain items from a template. -/
  | spawn (a b : Fin 32) (s : Fin 8)
  /-- OSPAWN, R371: Buffers creation of N ordered tasks from a template. -/
  | ospawn (a b : Fin 32) (s : Fin 8)
  /-- WEND, R369: Commits and retires the current item; the slot becomes WAITING. -/
  | wend (s : Fin 8)
  /-- YIELD, R370: Commits and writes a continuation record to the Shoe, freeing the slot. -/
  | yield (s : Fin 8)
  /-- CSRR, R392: Reads a CSR into gd. -/
  | csrr (n : BitVec 10) (d : Fin 32) (s : Fin 8)
  /-- CSRW, R392: Writes ga to a CSR, returning the old value. -/
  | csrw (n : BitVec 10) (d a : Fin 32) (s : Fin 8)
  /-- CSRS, R392: Sets CSR bits from ga, returning the old value. -/
  | csrs (n : BitVec 10) (d a : Fin 32) (s : Fin 8)
  /-- CSRC, R392: Clears CSR bits from ga, returning the old value. -/
  | csrc (n : BitVec 10) (d a : Fin 32) (s : Fin 8)
  /-- TRAP, R387: Takes a TRAP trap with a code and g1. -/
  | trap (c : BitVec 15) (s : Fin 8)
  /-- BRK, R387: Takes a BRK trap with a code. -/
  | brk (c : BitVec 15) (s : Fin 8)
  /-- ERET, R388: Supervisor resumes the parked thread selected by PARKSEL at TRPC. -/
  | eret (s : Fin 8)
  /-- PARK, R389: Supervisor retires the selected parked thread's item without resuming it. -/
  | park (s : Fin 8)
  /-- NOP, R390: Does nothing but advance PC and space the next issue. -/
  | nop (s : Fin 8)
  /-- ILL, R391: The halfword 0x0000, which always traps ILL. -/
  | ill
  /-- ADD_C, R146: 16-bit form of ADD on g8 to g15. -/
  | addC (d a b : Fin 8)
  /-- SUB_C, R146: 16-bit form of SUB on g8 to g15. -/
  | subC (d a b : Fin 8)
  /-- AND_C, R146: 16-bit form of AND on g8 to g15. -/
  | andC (d a b : Fin 8)
  /-- OR_C, R146: 16-bit form of OR on g8 to g15. -/
  | orC (d a b : Fin 8)
  /-- ADDI_C, R146: 16-bit ADDI with an immediate of -16 to 15. -/
  | addiC (d a : Fin 8) (i : BitVec 5)
  /-- SHLI_C, R146: 16-bit SHLI by 0 to 31. -/
  | shliC (n : BitVec 5) (d a : Fin 8)
  /-- SHRI_C, R146: 16-bit SHRI by 0 to 31. -/
  | shriC (n : BitVec 5) (d a : Fin 8)
  /-- SHAI_C, R146: 16-bit SHAI by 0 to 31. -/
  | shaiC (n : BitVec 5) (d a : Fin 8)
  /-- LI_C, R146: 16-bit LI with an immediate of -128 to 127. -/
  | liC (d : Fin 8) (i : BitVec 8)
  /-- LD_D_C, R146: 16-bit 8-byte load with an offset of 0 to 248. -/
  | ldDC (d a : Fin 8) (i : BitVec 5)
  /-- ST_D_C, R146: 16-bit 8-byte store with an offset of 0 to 248. -/
  | stDC (d a : Fin 8) (i : BitVec 5)
  /-- BEQ_C, R146: 16-bit branch when ga equals zero. -/
  | beqC (o : BitVec 8) (a : Fin 8)
  /-- BNE_C, R146: 16-bit branch when ga is nonzero. -/
  | bneC (o : BitVec 8) (a : Fin 8)
  /-- JMP_C, R146: 16-bit jump within 2 KiB. -/
  | jmpC (o : BitVec 11)
  /-- JR_C, R146: 16-bit return through g31. -/
  | jrC
  /-- LCBASE_WRITE, R56: Writes the ring base while the chain is disabled; ignored while enabled. -/
  | lcbaseWrite (f : Fin 17) (v : BitVec 64)
  /-- LCCTL_ENABLE, R56: Setting en resets head, tail, seq and ack, or fails with a bad lsize. -/
  | lcctlEnable (f : Fin 17) (v : BitVec 64)
  /-- LCCTL_DISABLE, R56: Clearing en stops the taking of records. -/
  | lcctlDisable (f : Fin 17) (v : BitVec 64)
  /-- LCTAIL_WRITE, R57: A tail write submits records or sets badtail and stopped on an error. -/
  | lctailWrite (f : Fin 17) (v : BitVec 64)
  /-- LCSTAT_STOPPED_CLEAR, R57: Writing 1 to stopped clears it and resumes taking from LCHEAD. -/
  | lcstatStoppedClear (f : Fin 17)
  /-- LCSTAT_FLAG_CLEAR, R55: Writing 1 to badtail or fetch clears that flag. -/
  | lcstatFlagClear (f : Fin 17) (badtail : Bool) (fetch : Bool)
  /-- REGISTER_WRITE, R423: A write to a BAR0 register without behaviour of its own is stored or ignored. -/
  | registerWrite (f : Fin 17) (off : Nat) (v : BitVec 64)
  /-- RECORD_TAKE, R58: The command processor reads the next submitted record, assigns its seq and checks it. -/
  | recordTake (f : Fin 17) (ok : Bool)
  /-- CP_ITEM_DELIVER, R71: The command processor sends an initial item to a Shoe, Sluice or gang agent. -/
  | cpItemDeliver (l : Nat)
  /-- LAUNCH_ACKNOWLEDGE, R60: Once held, mapped and delivered, the launch is acknowledged in seq order and LCACK advances. -/
  | launchAcknowledge (f : Fin 17)
  /-- LAUNCH_COMPLETE, R53: When every completion condition holds, the completion object is written and resources released. -/
  | launchComplete (l : Nat)
  /-- LOCKSTEP_MISMATCH, R419: A command-processor mismatch withdraws admissions, posts LOCK and restarts the firmware. -/
  | lockstepMismatch
  /-- FIRMWARE_RESTART_COMPLETE, R419: After restart, taking resumes after LCACK and unwritten completion objects are written. -/
  | firmwareRestartComplete
  /-- CORE_TAKE, R66: A launch with a waiting item takes the nearest free core or cluster of its partition. -/
  | coreTake (l : Nat)
  /-- NOCLU_CORE_RELEASE, R66: A noclu core with all slots in WAITW and no item in the Shoe is released. -/
  | nocluCoreRelease (core : Nat)
  /-- ZEROING_COMPLETE, R68: Zeroing ends and the tile's owner is set, allowing dispatch. -/
  | zeroingComplete (tile : Nat)
  /-- SHOE_DISPATCH, R76: Each cycle a Shoe chooses an eligible item and slot and starts loading it. -/
  | shoeDispatch (c : Nat)
  /-- SLOT_LOAD_COMPLETE, R73: Six cycles after selection the item's words are written and the slot enters RUN. -/
  | slotLoadComplete (tid : Nat)
  /-- SHOE_ITEM_ARRIVE, R78: An item or continuation joins a Shoe's priority queue, spilling first if the store is full. -/
  | shoeItemArrive (c : Nat)
  /-- SHOE_REFILL, R78: A Shoe below 1,024 items refills from the overflow area, oldest spill first. -/
  | shoeRefill (c : Nat)
  /-- ITEM_AGING, R77: Each aging period an undispatched item rises one priority, up to 3. -/
  | itemAging (c : Nat)
  /-- GANG_SLOT_RESERVE, R79: An eligible WAITING slot is reserved for a gang group; the N-th sends all to LOADING. -/
  | gangSlotReserve (agent : Nat)
  /-- ITEM_WALK_HOP, R81: A hinted item arrives at a cluster, dispatching there or hopping towards its hint. -/
  | itemWalkHop
  /-- BALANCING_STEP, R84: At each balancing interval a Shoe may ship a batch to its least-loaded neighbour. -/
  | balancingStep (c : Nat)
  /-- FANTAIL_BATCH_ARRIVE, R85: A balancing batch joins the receiving Shoe's queues. -/
  | fantailBatchArrive (c : Nat)
  /-- SLUICE_ACCEPT, R87: A Sluice accepts an ordered task and assigns its task id. -/
  | sluiceAccept (d : Nat)
  /-- SLUICE_REFILL, R95: A Sluice below 49,152 tasks refills spilled tasks. -/
  | sluiceRefill (d : Nat)
  /-- SLUICE_GRANT, R89: A Sluice answers a slot's request with a task from its relaxed window or nothing. -/
  | sluiceGrant (tid : Nat)
  /-- SLUICE_MINIMA_EXCHANGE, R91: The four Sluices exchange their launch minima. -/
  | sluiceMinimaExchange (l : Nat)
  /-- LEAVE_TO_COMMIT, R91: A FINISHED task that no unretired task precedes receives leave to commit. -/
  | leaveToCommit (l : Nat)
  /-- ORDERED_TASK_RETIRE, R91: An ordered task retires once its children's acceptance is acknowledged. -/
  | orderedTaskRetire (l : Nat)
  /-- GVT_SAMPLE, R92: At each multiple of 1,024 cycles each Sluice samples its smallest unretired task. -/
  | gvtSample
  /-- CHUNK_BOUNDARY, R166: A boundary falls before an instruction, after the older context commits, and a checkpoint is taken. -/
  | chunkBoundary (tid : Nat) (kind : Fin 5)
  /-- RESULT_WRITEBACK, R156: A local result with fixed or scoreboarded latency becomes available. -/
  | resultWriteback (tid : Nat)
  /-- MEMORY_REPLY, R279: A load or access reply returns from its home and writes or faults. -/
  | memoryReply (tid : Nat)
  /-- PENSTOCK_ADMIT, R177: A shipped request is admitted to a reserved or pool Penstock entry. -/
  | penstockAdmit (k : Nat)
  /-- SHIP_RETRY, R177: Sixteen cycles after a refusal the sender resends the request or cancel notice. -/
  | shipRetry (k : Nat)
  /-- GUEST_EXECUTE, R178: A big core issues a guest entry with the request's state and sends the reply. -/
  | guestExecute (c : Nat)
  /-- MATRIX_JOB_COMPLETE, R328: The matrix engine finishes a job, commits its output and replies. -/
  | matrixJobComplete (tid : Nat)
  /-- SHIP_REPLY, R180: A reply reaches the sender and writes results, is discarded, or forces rollback. -/
  | shipReply (k : Nat)
  /-- CANCEL_NOTICE, R181: A cancel notice drops an unissued Penstock entry with status 4. -/
  | cancelNotice (k : Nat)
  /-- VSCX_TIMEOUT, R253: 4,096 running cycles after opening, an incomplete exchange closes by timeout. -/
  | vscxTimeout (tid : Nat)
  /-- CHUNK_COMMIT_REQUEST, R343: An ended chunk sends its written lines, reductions and appends to their homes. -/
  | chunkCommitRequest (tid : Nat)
  /-- WEIR_NODE_GRANT, R343: A Weir node grants a waiting commit; with all nodes held it draws its number and applies. -/
  | weirNodeGrant (tid : Nat)
  /-- WRITE_SIGNATURE_RECEIVE, R343: A tile invalidates matching lines, squashes intersecting chunks and acknowledges. -/
  | writeSignatureReceive (tid : Nat) (tile : Nat)
  /-- COMMIT_RELEASE, R343: With every acknowledgement in, the commit releases its nodes and sets CHSEQ. -/
  | commitRelease (tid : Nat)
  /-- PIN_ACQUIRE, R348: After pin squashes in a row, the rerun acquires its nodes exclusively as pins. -/
  | pinAcquire (tid : Nat)
  /-- SERIAL_TOKEN_GRANT, R349: The module serial token is granted and the chunk reruns serial and irrevocable. -/
  | serialTokenGrant
  /-- APPEND_ELEMENT_ACK, R336: A forwarded element write lands and, once all land, the counts line is released. -/
  | appendElementAck (line : Nat)
  /-- HOIST_COPY_START, R287: A free Hoist channel starts the next queued copy and enters its ranges. -/
  | hoistCopyStart (c : Nat)
  /-- HOIST_PIECE, R287: A Hoist piece of up to 4 KiB reads and writes its lines as one chunk. -/
  | hoistPiece (c : Nat) (ch : Fin 4)
  /-- BARRIER_RELEASE, R366: A completed barrier phase releases its waiting members. -/
  | barrierRelease (k : Nat)
  /-- WAITV_WAKE, R367: A possible write to the watched line wakes the sleeper with result 0. -/
  | waitvWake (tid : Nat)
  /-- WAITV_TIMEOUT, R367: After WAITTO running cycles the sleeper wakes with result 1. -/
  | waitvTimeout (tid : Nat)
  /-- TAILRACE_POST, R381: A record is posted into a free lane slot and the tail advanced, or waits. -/
  | tailracePost (d : Nat)
  /-- HOST_ATOMIC_COMPLETION, R428: A requester AtomicOp completes, or fails (none) and raises HAOP; val is the
  value that the completion carries. -/
  | hostAtomicCompletion (tid : Nat) (val : Option (BitVec 128))
  /-- PEER_RESPONSE, R434: A peer access answer arrives, possibly with an error status. -/
  | peerResponse (tid : Nat) (status : Fin 8) (data : List (BitVec 8))
  /-- PEER_TIMEOUT, R434: A peer access unanswered for 2^20 cycles fails with status 6. -/
  | peerTimeout (tid : Nat)
  /-- WATCHDOG_EXPIRY, R375: A reply or commit outstanding 2^20 cycles posts WDOG. -/
  | watchdogExpiry (tid : Nat) (commit : Bool)
  /-- ECC_UNCORRECTABLE, R414: A consumed uncorrectable error squashes, scrubs and fatally parks the thread. -/
  | eccUncorrectable (tid : Nat) (va : BitVec 64) (origin : Fin 8)
  /-- SCRUB, R413: The background scrubber reads memory, correcting or poisoning errors. -/
  | scrub (key : Nat) (bad : Bool)
  /-- POND_ABSORB, R404: A packet for a frozen core is absorbed, acknowledged, refused or held. -/
  | pondAbsorb (tile : Nat)
  /-- PACKET_FORWARD, R412: A vacated shell redirects a packet to the restored tile. -/
  | packetForward (tile : Nat)
  /-- FORWARD_ENTRY_FREE, R412: A forwarding entry is freed once its work is answered and 65,536 quiet cycles pass. -/
  | forwardEntryFree (tile : Nat)
  /-- SAVE_COMPLETE, R403: Image streaming ends with the header and the tile becomes SAVED. -/
  | saveComplete (tile : Nat)
  /-- RESTORE_LOADED, R408: Sections loaded, doomed chunks roll back, the Pond is delivered and the clock starts. -/
  | restoreLoaded (tile : Nat)
  /-- HOST_WRITE, R426: A host posted write is checked and each line written at its own point. -/
  | hostWrite (f : Fin 17) (off : Nat) (data : List (BitVec 8))
  /-- HOST_READ, R426: A host read is answered, each line read at one point. -/
  | hostRead (f : Fin 17) (off : Nat) (len : Nat)
  /-- HOST_ATOMICOP, R427: A completer AtomicOp is performed at the L2 home at one point. -/
  | hostAtomicop (f : Fin 17) (off : Nat) (op : Fin 3) (size : Fin 3) (x : BitVec 128) (y : BitVec 128)
  /-- HOST_WRITE_ACK, R340: The host controller accepts a device write, or its failure is logged. -/
  | hostWriteAck (ok : Bool)
  /-- CXL_SNOOP, R430: A host snoop invalidates a cached SYS line at a point. -/
  | cxlSnoop (line : Nat)
  /-- CXL_BI_RESPONSE, R430: A back-invalidate response lets a waiting commit continue. -/
  | cxlBiResponse (tid : Nat)
  /-- PEER_ACCESS_ARRIVE, R433: An arriving peer access is resolved through an import window and performed. -/
  | peerAccessArrive (src : BitVec 8) (off : Nat) (kind : Fin 3) (op : Nat) (data : List (BitVec 8))
  /-- PEER_PORT_DOWN, R435: A Tilene port goes down and outstanding accesses fail with status 7. -/
  | peerPortDown (port : Fin 16)
  /-- FUNCTION_LEVEL_RESET, R431: Disables the chain, aborts launches, retires ASIDs and returns the partition. -/
  | functionLevelReset (f : Fin 17)
  /-- MODULE_RESET, R442: PERST# stops every clock and the command processors boot. -/
  | moduleReset
  /-- THERMAL_TRIP, R445: A sensor at 105 °C forces 0.8 GHz and 550 mV and raises vector 2. -/
  | thermalTrip (die : Fin 4) (sensor : Nat) (temp : Nat)
  /-- THERMAL_CRITICAL, R445: A sensor at 115 °C stops every clock and reports FATAL. -/
  | thermalCritical
  /-- POWER_VOLTAGE_SETTLED, R444: After the 50 µs settle the clock switches and POWER replies. -/
  | powerVoltageSettled
  /-- MAILBOX_COMPLETION, R440: A command completes, clearing busy and raising vector 0. -/
  | mailboxCompletion (u : Fin 21)
  /-- MAP_FILL_COMPLETE, R281: The Hoist zero fill ends, the owner is set and the leaf becomes valid. -/
  | mapFillComplete
  /-- MAILBOX_UNKNOWN_COMMAND, R440: An unassigned command code completes with status UNKNOWN. -/
  | mailboxUnknownCommand (u : Fin 21) (code : BitVec 16)
  /-- INFO, R441: Returns stepping, grade and the present-cluster map. -/
  | info (u : Fin 21)
  /-- FWLOAD, R442: Reads and CRC-checks the firmware into protected memory. -/
  | fwload (u : Fin 21) (addr : BitVec 64) (len : Nat) (crcOk : Bool)
  /-- START, R442: Runs self test, repair, training, zeroing and starts the core clocks. -/
  | start (u : Fin 21) (failed : Option Nat)
  /-- PART, R63: Defines partitions and assigns them to functions. -/
  | part (u : Fin 21) (f : Fin 17) (clusters : List Nat) (tiles : List Nat)
  /-- ASCREATE, R64: Creates an ASID from a descriptor within quota. -/
  | ascreate (u : Fin 21) (asid : Fin 1024) (root : BitVec 64) (place : Bool) (owner : Fin 17)
  /-- ASRETIRE, R65: Retires an ASID, writing back and invalidating its state. -/
  | asretire (u : Fin 21) (asid : Fin 1024)
  /-- QUOTA, R64: Sets a function's ASID quota. -/
  | quota (u : Fin 21) (f : Fin 17) (n : Nat)
  /-- MAP, R280: Zero-fills as needed and writes a leaf entry. -/
  | map (u : Fin 21) (asid : Fin 1024) (va : BitVec 64) (leaf : BitVec 64) (big : Bool)
  /-- UNMAP, R280: Clears a leaf, invalidates its lines and commits a covering signature. -/
  | unmap (u : Fin 21) (asid : Fin 1024) (va : BitVec 64)
  /-- PROTECT, R280: Replaces a leaf's attributes on the same frame in one commit. -/
  | protect (u : Fin 21) (asid : Fin 1024) (va : BitVec 64) (leaf : BitVec 64)
  /-- AREG, R280: Registers an alias page against its canonical page. -/
  | areg (u : Fin 21) (asid : Fin 1024) (va : BitVec 64) (casid : Fin 1024) (cva : BitVec 64) (big : Bool)
  /-- ADEL, R280: Removes an alias registration. -/
  | adel (u : Fin 21) (asid : Fin 1024) (va : BitVec 64)
  /-- FREEZE, R397: Stops the listed tiles' clocks and parks their open chunks. -/
  | freeze (u : Fin 21) (tiles : List Nat)
  /-- SAVE, R403: Starts streaming a frozen tile's image to memory. -/
  | save (u : Fin 21) (tile : Nat) (image : BitVec 64) (pond : BitVec 64)
  /-- THAW, R408: Restarts a frozen tile in place as a same-stepping restore. -/
  | thaw (u : Fin 21) (tile : Nat)
  /-- VACATE, R395: Zeroes a saved tile and releases it from its launch. -/
  | vacate (u : Fin 21) (tile : Nat)
  /-- RESTORE, R409: Checks an image and begins loading it into a target tile. -/
  | restore (u : Fin 21) (image : BitVec 64) (target : Nat) (arch : Bool)
  /-- DISCARD, R395: Removes an image's parked chunks and aborts its launch. -/
  | discard (u : Fin 21) (image : BitVec 64)
  /-- PLACE, R86: Sets the placement parameters. -/
  | place (u : Fin 21) (interval : Nat) (threshold : Nat) (aging : Nat)
  /-- GRIDMAP, R70: Reads a launch's grid map. -/
  | gridmap (u : Fin 21) (f : Fin 17) (seq : Nat)
  /-- ABORT, R436: Ends a launch early, discarding items and squashing open chunks. -/
  | abort (u : Fin 21) (f : Fin 17) (seq : Nat)
  /-- SHARE, R97: Reads or sets the guest share of a named big core. -/
  | share (u : Fin 21) (cluster : Fin 64) (value : Option (BitVec 4))
  /-- APERTURE, R425: Sets BAR2 sizes and aperture bases. -/
  | aperture (u : Fin 21) (f : Fin 17) (size : Nat) (apva : BitVec 64)
  /-- TRCB, R380: Gives the Tailrace control-block address. -/
  | trcb (u : Fin 21) (die : Fin 4) (va : BitVec 64) (rbase : BitVec 64) (hbase : BitVec 64)
  /-- PEERCFG, R433: Sets device number, routing and import windows. -/
  | peercfg (u : Fin 21) (dev : BitVec 8) (routes : List (Nat × List Nat)) (windows : List (Nat × Nat × Nat × Nat))
  /-- POWER, R443: Requests a clock state and supply voltage within limits. -/
  | power (u : Fin 21) (clock : Nat) (mv : Nat)
  /-- THERM, R445: Reads thermal sensors and the trip log. -/
  | therm (u : Fin 21) (die : Fin 4)
  /-- TELEM, R438: Reads the die telemetry counters. -/
  | telem (u : Fin 21) (die : Fin 4)
  /-- ERRLOG, R441: Reads the log of failed host-directed and host writes. -/
  | errlog (u : Fin 21) (f : Fin 17)
  /-- DOORBELL_WHILE_BUSY, R440: A doorbell written while busy is 1 is discarded and marks lost in the reply to the outstanding command. -/
  | doorbellWhileBusy (u : Fin 21)
  /-- HOST_OWNERSHIP_GRANT, R430: Under CXL.cache the host grants ownership of a SYS host line, letting a commit that waits in step 1 acquire its nodes. -/
  | hostOwnershipGrant (tid : Nat)
  /-- SUPERVISOR_RESTART, R379: The host restarts a die's fatally parked supervisor slot through the mailbox, ending the driver's stand-in. -/
  | supervisorRestart (die : Fin 4) (pc : BitVec 64)
  /-- LINK_TRAINING_COMPLETE, R422: The PCI Express link finishes training after reset, at a width and rate agreed with the host. -/
  | linkTrainingComplete (width : Fin 5) (gen : Fin 3)
  deriving DecidableEq, Repr

end Sys2Proof
end

