-- ==== Sys2Proof/Machine/State.lean ====
section
/-! DEFINITION. Sys2Proof/Machine/State.lean: everything the spec gives the module, as plain data. Threads stand in
cur (the thread whose turn it is to issue) and others; committed memory is one list of cells; the other units of the
module are grouped by the chapter that describes them. -/

namespace Sys2Proof.Machine

/-- A table: numbers with the entry of each. A number without an entry has the unit's value after reset. -/
abbrev Tbl (α : Type) := List (Nat × α)

/-- Committed memory (R42, R273, R429): cells of device memory at their physical address, of local arrays from
2^40, of host memory from 2^56; strictly rising addresses, and no cell whose byte is 0 (log 3: DESIGN CHOICE, unsafe). -/
abbrev Memory := List Host.Cell

/-- A register of a thread (R100). -/
inductive Reg where
  | g (n : Fin 32) | p (n : Fin 8) | v (n : Fin 32) | e (n : Fin 8)
deriving DecidableEq, Repr

/-- The thread registers and CSRs that a checkpoint holds (R112, R167). -/
structure Regs where
  pc : Word
  g : Vector Word 32
  p : Vector Pred 8
  v : Vector Vec 32
  e : Vector Word 8
  fflags : Flags
  fmode : BitVec 12
  srseed : Word
  scxg : BitVec 2
  waitto : BitVec 32
  chmin : BitVec 16
  pin : BitVec 2
  sbchk : Bool
  level : BitVec 3
  item : Word
  /-- the number of COPY and ZFILL instructions issued since launch start (R288) -/
  copySeq : Nat
deriving DecidableEq, Repr

/-- A fixed-latency result not yet available: the register keeps its old value for readers until cycle due
(R156, R160). Entries stand newest first; gen is the chunk that issued it. -/
structure Stale where
  reg : Reg
  old : Vec
  due : Nat
  gen : Nat
deriving DecidableEq, Repr

/-- Why a register is busy (R158): a load, a long local operation, a division, a vector load's slot of the queue (R293), a
matrix job, or a shipped instruction by number. -/
inductive BusyBy where
  | load | unit | div | slot | job | ship (id : Nat)
deriving DecidableEq, Repr

/-- A register with a pending scoreboarded write: its reason, the chunk that issued it, and the cycle of issue (R157,
R158). -/
structure Busy where
  reg : Reg
  why : BusyBy
  gen : Nat
  since : Nat
deriving DecidableEq, Repr

/-- A command in a vector queue: its thread, and the register whose scoreboarded write waits for it (R161). -/
structure VecCmd where
  tid : Nat
  reg : Option Reg
deriving DecidableEq, Repr

/-- A 128-byte line by its canonical name (R269, R271, R284): a global line of an ASID, a line of a core's own
window, or a line of a cluster's window. -/
inductive Line where
  | glob (asid n : Nat) | own (core n : Nat) | clu (cluster n : Nat)
deriving DecidableEq, Repr

/-- A reduction or one lane of an append, buffered in a chunk (R334, R358, R360, R362). Keys are memory keys of
the target bytes. -/
inductive Effect where
  /-- integer reduction: operation code of R142, size in bytes, operand -/
  | int (op size key : Nat) (x : Word)
  /-- float reduction: operation code of R142, f64 or f32, operand -/
  | flt (op : Nat) (dbl : Bool) (key : Nat) (x : Word)
  /-- append: counts word if the cell exists, slot cap, address of the cell's bins, element size and bits, overflow
  counter with its line and address -/
  | append (cnt : Option (Nat × Line)) (cap : Nat) (bins : Word) (es : Nat) (x : Word) (ovf : Nat) (oline : Line) (ova : Word)
deriving DecidableEq, Repr

/-- The operands of COPY or ZFILL with its number (R287, R288, R305). -/
structure CopyCmd where
  tid : Nat
  asid : Nat
  seq : Nat
  fill : Bool
  src : Word
  dst : Word
  len : Nat
  rows : Nat
  sstride : Word
  dstride : Word
  pc : Word
  launch : Option Nat
  /-- v of the issuing commit, and of the issuing commit or the copy's previous piece (R341, R384) -/
  cv : Nat
  v : Nat
deriving DecidableEq, Repr

/-- What an access asks of a peer device (R338, R433). -/
inductive PeerAct where
  /-- a read of n bytes with the byte enables of those wanted, a write of bytes at offsets from the place, a reduction with its
  operation and size -/
  | read (n en : Nat)
  | write (cells : List Host.Cell)
  | reduce (op size : Nat) (x : Word)
  /-- a read of n bytes for a piece of the copy in a channel of a cluster's Hoist -/
  | fetch (cluster chan n : Nat)
deriving DecidableEq, Repr

/-- An access on its way to a peer device, in the order of its source thread (R338, R432). -/
structure PeerMsg where
  tid : Nat
  asid : Nat
  dev : Nat
  off : Nat
  va : Word
  pc : Word
  act : PeerAct
  since : Nat
  /-- v of the commit that issued it, the issuing thread's launch (R53, R384), and the port that it has left by (R432) -/
  v : Nat := 0
  launch : Option Nat := none
  port : Option Nat := none
  /-- a piece of a Hoist copy makes it (R368) -/
  copy : Bool := false
deriving DecidableEq, Repr

/-- A FetchAdd on its way to the host for a RED (R353). -/
structure HostAdd where
  tid : Nat
  asid : Nat
  key : Nat
  size : Nat
  x : Word
  va : Word
  pc : Word
  v : Nat := 0
  launch : Option Nat := none
deriving DecidableEq, Repr

/-- A hand-off buffered in a chunk (R169, R338, R353, R372). -/
inductive Hand where
  | spawn (ordered : Bool) (words : List Word) (n : Nat)
  | copy (c : CopyCmd)
  | peer (m : PeerMsg)
  | hostAdd (h : HostAdd)
  /-- an arrival at the barrier of the item's level, and whether the thread then waits for the phase (R365) -/
  | arrive (waits : Bool)
deriving DecidableEq, Repr

/-- A lane of a vector store to an IRREV page, which is performed after its chunk's number is drawn: bytes of a line at a home,
or a store to a peer (R299). -/
inductive Lane where
  | mem (asid node : Nat) (line : Line) (cells : Memory) (host : Bool)
  | peer (m : PeerMsg)
deriving DecidableEq, Repr

/-- The registers that a safe-point checkpoint restores (R35). -/
structure LiveMask where
  g : BitVec 32
  p : BitVec 8
  v : BitVec 32
  e : BitVec 8
deriving DecidableEq, Repr

/-- How far a chunk context has come (R164, R343). -/
inductive Phase where
  | open | ended | requested | numbered
deriving DecidableEq, Repr

/-- A chunk context (R164-R171, R335, R342). -/
structure Chunk where
  /-- the checkpoint taken at the boundary where the chunk began, and what it restores -/
  ckpt : Regs
  mask : Option LiveMask
  /-- instructions issued (R165) -/
  count : Nat
  /-- buffered stores by memory key, strictly rising (R294) -/
  writes : Memory
  /-- bytes that a chunk of one has received from a peer device, by memory key, and the answer that an instruction has
  waited for: status and address of an access outside the module (R338, R428, R434), result of a wake (R367), or count
  and maximum of an exchange (R253) -/
  outside : Memory
  answer : Option (Nat × Word)
  /-- the lanes on IRREV pages that the instruction in progress has performed, with the values read (R299), or the value that an
  AtomicOp's completion has carried (R354) -/
  lanes : List Nat
  /-- IRREV lanes of a store, which follow the chunk's number in their order (R299) -/
  later : List Lane
  /-- lines of host pages without coherence that it stores to, and SYS host lines written under CXL (R340, R430) -/
  hostOut : List Nat
  sysLines : List Nat
  rlines : List Line
  wlines : List Line
  dlines : List Line
  shared : List Nat
  excl : List Nat
  effects : List Effect
  hands : List Hand
  foreign : List Nat
  /-- generation of the attempt (R174 chk) -/
  gen : Nat
  serialShip : Bool
  pinned : Bool
  serial : Bool
  phase : Phase
  /-- nodes acquired so far, tiles whose acknowledgement is awaited, the number drawn (R343) -/
  held : List Nat
  acks : List Nat
  num : Nat
  /-- cycle at which the number was drawn (R375) -/
  since : Nat
  /-- parked in a freeze and met by a commit (R352) -/
  doomed : Bool
  /-- the ordered task whose body the chunk is: launch and task id (R88, R171) -/
  task : Option (Nat × Nat)
deriving DecidableEq, Repr

/-- A work item as an agent holds it (R47, R74, R77, R85). -/
structure Item where
  launch : Nat
  group : Nat
  /-- the eight words -/
  words : List Word
  cont : Bool
  /-- order of arrival at this Shoe; the cycle at which its present aging period began, or in the overflow area the cycles
  that it had waited of it; moves by the Fantail -/
  arrival : Nat
  since : Nat
  moves : Nat
  /-- whole aging periods counted in this Shoe (R77) -/
  aged : Nat
  /-- number of the commit that forked it (R341) -/
  v : Nat
  /-- order of its last spill among all (R78) -/
  spill : Nat := 0
deriving DecidableEq, Repr

/-- Placement states of a slot (R72). FROZEN is the state of the slot's tile. -/
inductive Place where
  | notHeld | run | waiting | parked
  | loading (item : Item) (due : Nat)
  | reserved (group : Nat)
deriving DecidableEq, Repr

/-- What a thread that does not issue waits for (R168, R253, R308, R365-R369, R388). -/
inductive Wait where
  | none
  /-- a boundary or a chunk-closing instruction waits for an older commit or a free node -/
  | commit
  /-- a gang member waits for a phase of a barrier -/
  | barrier (bar phase : Nat)
  | copyw (n : Nat)
  | waitv (line : Line) (node seen deadline : Nat)
  /-- a member of an exchange: group size, cycle of its opening, the member's own maximum and flags -/
  | vscx (g since own : Nat) (flags : Flags)
  /-- the completion of an AtomicOp at the host; the instruction is tried again after it -/
  | host
  /-- the reply of a shipped instruction that holds the thread (R170, R184); the instruction ends after it -/
  | ship (id : Nat)
  /-- the answers of a peer device; the instruction is tried again after them -/
  | peer
  /-- FENCE.SYS waits for acknowledgements -/
  | fence
  /-- the supervisor slot sleeps in WAITW -/
  | sleep
deriving DecidableEq, Repr

/-- The content of a trap record (R384). -/
structure Rec where
  cause : Nat
  pc : Word
  val : Word
  val2 : Word
  laneH : Bool
  paired : Bool
  fatal : Bool
  nopark : Bool
  copy : Bool
  shipped : Bool
  late : Bool
  tid : Nat
  cseq : Word
  asid : Nat
  /-- cluster of the executing big core of a shipped fault -/
  xclu : Option Nat
  stamp : Nat
  /-- vector 1 has been raised for a lane H record (R424) -/
  alerted : Bool := false
  /-- the launch whose completion object counts the record (R53) -/
  launch : Option Nat := none
deriving DecidableEq, Repr

/-- A request shipped over the Leat with its way and reply (R174-R181). -/
structure Ship where
  id : Nat
  tid : Nat
  asid : Nat
  fmode : BitVec 12
  seed : Word
  gen : Nat
  seq : Nat
  /-- reply slot and cycle of issue -/
  sid : Nat
  since : Nat
  instr : Instr
  guard : Pred
  a : Word
  b : Word
  c : Word
  x : Vec
  y : Vec
  z : Vec
  cluster : Nat
  /-- admitted to the Penstock, whether in an entry of its pool; refused and sent again, or held back and tried again, from
  this cycle -/
  admitted : Bool
  pool : Bool
  retryAt : Nat
  issued : Bool
  /-- its sender has rolled back, and a frozen big tile has refused the notice of that, which goes again at this cycle (R475) -/
  cancelled : Bool
  noticeAt : Nat := 0
  /-- an AtomicOp that a 128-bit atomic needs: asked at the host, and whether it has succeeded there (R353) -/
  asked : Bool
  hostOk : Option Bool
  /-- a matrix job or 128-bit atomic that has been performed: the lists of lines and the writes that its executing core
  holds until the sender's commit (R328) -/
  chunk : Option Chunk
  /-- the value that the AtomicOp's completion carries (R354) -/
  hostVal : BitVec 128 := 0
  /-- the reply: status, flags, trap code, result (R175) -/
  replied : Bool
  status : Nat
  cause : Nat
  flags : Flags
  /-- the result, a scalar, predicate or pair in its low bits, and whether it is written at all -/
  result : Vec
  writes : Bool
  val : Word
  val2 : Word
deriving DecidableEq, Repr

/-- What the leader of a pair has executed and its trailer has not: the chunk, the registers after it, and how many values
the trailer takes from the queue for it (R416, R417). -/
structure Ahead where
  gen : Nat
  r : Regs
  takes : Nat
deriving DecidableEq, Repr

/-- The trailing thread of a pair (R416, R417): its registers, what it has still to execute, and the load-value queue of up
to 64 entries of 64 bytes, each with the chunk that it belongs to. -/
structure Trailer where
  r : Regs
  todo : List Ahead
  queue : List (Nat × Vec)
deriving DecidableEq, Repr

/-- A thread slot with all its state (R100-R113, R164, R185). -/
structure Thread where
  tid : Nat
  asid : Nat
  super : Bool
  launch : Option Nat
  place : Place
  r : Regs
  stale : List Stale
  busy : List Busy
  /-- registers whose scoreboarded write landed, with the cycle: readers are ready in the next one (R156) -/
  landed : List (Reg × Nat)
  /-- earliest cycle of the next issue (R154, R162, R167, R169) -/
  ready : Nat
  /-- reply slots taken (R173) -/
  slots : Nat
  /-- executing and committing contexts (R164) -/
  ex : Chunk
  com : Option Chunk
  /-- chunks of FINISHED ordered tasks that wait for leave (R88, R90) -/
  fins : List Chunk
  wait : Wait
  chseq : Word
  chrun : BitVec 8
  chcause : BitVec 8
  instret : Word
  commits : Word
  squashes : Word
  /-- v of the thread's previous commit, and of the commits joined since (R341) -/
  lastV : Nat
  /-- the place in the order of commits of the thread's last commit (R367) -/
  lastOrder : Nat
  /-- chunks committed since the dispatch of the current item (R364) -/
  sinceDispatch : Nat
  /-- completed number and failed numbers of copies not yet reported (R288, R308) -/
  copyFinished : List Nat
  copyDone : Nat
  copyFailed : List Nat
  /-- home vector of the last squashed attempt (R348) -/
  lastHomes : List Nat
  /-- a rerun must be pinned, or serial (R348, R349) -/
  mustPin : Bool
  mustSerial : Bool
  /-- STEP and whether the thread runs under single step (R105, R385) -/
  stepFlag : Bool
  stepping : Bool
  /-- the instruction that has ended under single step, whose STEP trap is next (R385) -/
  stepOwed : Option Word
  /-- a truncated rerun stops before this instruction of the chunk (R169) -/
  stopAt : Option Nat
  /-- a precise trap that is found and waits for the commit of everything before it (R159, R184, R377) -/
  owed : Option Rec
  /-- the trailing thread under paired execution (R417) -/
  trail : Option Trailer
  /-- the trap record of a parked thread, whether it has been posted, and TRPC (R113, R377, R382) -/
  trap : Option Rec
  posted : Bool
  trpc : Word
  parksel : BitVec 17
  wakePending : Bool
  /-- the current item: group, class, timestamp, gang membership, pending barrier phase (R46, R49, R365) -/
  item0 : Item
  ordered : Bool
  irrev : Bool
  ts : Word
  gang : Option Nat
  pending : Option (Nat × Nat)
  /-- the slot in which the item was dispatched, whose domain instances stay its own when it migrates (R411) -/
  admitted : Nat
  /-- WAITW kept the registers for the next item (R369) -/
  keeps : Bool
deriving DecidableEq, Repr

/-- A level descriptor (R40). -/
structure Level where
  dom : Nat
  bscope : Nat
  own : Nat
  clu : Nat
  place : Nat
deriving DecidableEq, Repr

/-- A launch in the module: its record's fields, its grid map, holdings and counts (R39, R46, R53, R66, R70). -/
structure Launch where
  fn : Nat
  /-- its number on the chain, and in which enabling of the chain it was taken (R56, R59) -/
  seq : Nat
  epoch : Nat
  tag : Nat
  asid : Nat
  ord : Bool
  noclu : Bool
  sbchk : Bool
  paired : Bool
  nlev : Nat
  codebase : Word
  spbase : Word
  lmbase : Word
  fmode : BitVec 12
  lmcount : Nat
  spcount : Nat
  itembase : Word
  relax : Nat
  gh : Nat
  gw : Nat
  nitems : Nat
  compl : Word
  ovbase : Word
  chmin : BitVec 16
  ovsize : Nat
  seed : Word
  scxg : BitVec 2
  waitto : BitVec 32
  levels : List Level
  map : List Nat
  delivered : Nat
  acked : Bool
  /-- status given before completion: ABORTED 2, KILLED 3, SPILL 4 (R53); none: still DONE -/
  status : Option Nat
  detail : Nat
  table : Bool
  retired : Nat
  commits : Nat
  squashes : Nat
  traps : Nat
  nextGroup : Nat
  /-- spilled items and tasks of the overflow area, oldest first, with the Shoe or Sluice they belong to -/
  spilled : List (Nat × Item)
  spilledTasks : Nat
  lastOrderedV : Nat
  /-- v of the host write before the LCTAIL write that launched it, and the largest v of its points (R339, R341) -/
  v : Nat := 0
  lastV : Nat := 0
  complete : Bool
deriving DecidableEq, Repr

/-- An ASID descriptor (R64). -/
structure Asid where
  root : Nat
  directed : Bool
  owner : Nat
deriving DecidableEq, Repr

/-- A gang group that waits for admission: level, members, agent, the instance chosen when it has reached the head, reserved
slots (R43, R79). -/
structure Gang where
  launch : Nat
  group : Nat
  level : Nat
  items : List Item
  agent : Nat
  inst : Option Nat
  reserved : List Nat
deriving DecidableEq, Repr

/-- A barrier of a group or of a domain instance: open phase, participants of the open phase of a domain instance once one
has arrived, arrivals, arrivals that join the next phase, and the largest v of the arriving chunks of each (R339, R366). -/
structure Barrier where
  launch : Nat
  key : Nat
  phase : Nat
  parts : Option (List Nat)
  arrived : List Nat
  late : List Nat
  v : Nat
  lateV : Nat
deriving DecidableEq, Repr

/-- A Shoe: its store in order of arrival; whether it has received a batch and made its step in this balancing interval,
its occupancy sampled at the interval's start, the cycle after its last dispatch, and the item that went then (R74, R76,
R84, R85). -/
structure Shoe where
  items : List Item
  gotBatch : Bool
  stepped : Bool
  occ : Nat
  dispatched : Nat
  taken : Option Item := none
deriving DecidableEq, Repr

/-- An item on a walk: the cluster of its hint, the cluster that it reaches, and the cycle at which it does (R81). -/
structure Walk where
  goal : Nat
  here : Nat
  item : Item
  due : Nat
deriving DecidableEq, Repr

/-- A Fantail batch on its way: the sending and the receiving cluster, the cycle in which it left, its items, and for a batch
that crosses a die boundary the latest cycle of its arrival (R85). -/
structure Batch where
  from' : Nat
  left : Nat
  goal : Nat
  items : List Item
  due : Option Nat
deriving DecidableEq, Repr

/-- States of an ordered task (R88). -/
inductive TaskState where
  | queued | running | finished | overflow | irrevocable
deriving DecidableEq, Repr

/-- An ordered task at a Sluice (R87, R88). -/
structure Task where
  id : Nat
  launch : Nat
  die : Nat
  item : Item
  ts : Word
  state : TaskState
  /-- the slot that holds it -/
  tid : Option Nat
  spilled : Bool
  leave : Bool
  /-- a shipped fault met the body: it reruns in serial-ship mode (R184) -/
  serialShip : Bool
  /-- its body runs IRREVOCABLE, or has, and it has not retired (R94) -/
  irrev : Bool := false
  /-- squashes in a row of its chunk (R106) -/
  run : BitVec 8 := 0
deriving DecidableEq, Repr

/-- One GVT sample of a launch at a Sluice: task id, whether it was idle, whether a slot waited since (R92, R93). -/
structure Gvt where
  launch : Nat
  task : Nat
  idle : Bool
  slotSeen : Bool
deriving DecidableEq, Repr

/-- An empty Shoe. -/
def Shoe.fresh : Shoe := { items := [], gotBatch := false, stepped := false, occ := 0, dispatched := 0 }

/-- Placing work (chapters 3 and 4). -/
structure Work where
  launches : List Launch
  asids : Tbl Asid
  retiredAsids : List Nat
  /-- ASIDs of a function that has been reset, which retire once their launches are complete (R65, R431) -/
  retiring : List Nat
  shoes : Tbl Shoe
  /-- items on their way to the Shoe of a cluster, and tasks on their way to the Sluice of a die -/
  arriving : List (Nat × Item)
  offered : List (Nat × Item)
  /-- items on a walk (R81) and batches on the way (R85) -/
  walking : List Walk
  batches : List Batch
  gangs : List Gang
  barriers : List Barrier
  tasks : List Task
  /-- tasks accepted by each Sluice of each launch: 4 * launch + die (R87) -/
  accepted : Tbl Nat
  /-- the minima that the Sluices have exchanged, 4 * launch + die, and the cycle of each launch's exchange (R91) -/
  minima : Tbl (Option (Nat × Nat))
  exchanged : Tbl Nat
  gvt : List Gvt
  lastGvt : Nat
  /-- held little cores and big cores: core number and launch (R66) -/
  holds : Tbl Nat
  /-- tile and cluster owners (R68), tiles being zeroed -/
  tileOwner : Tbl Nat
  clusterOwner : Tbl Nat
  /-- the cycle at which the zeroing of a tile ends (R68) -/
  zeroing : Tbl Nat
  interval : Nat
  threshold : Nat
  aging : Nat
  /-- parameters that apply from the next balancing interval (R86) -/
  nextParams : Option (Nat × Nat × Nat)
  lastBalance : Nat
  arrivals : Nat
deriving DecidableEq, Repr

/-- A Weir node: last recorded value, holders, queue, pin (R341, R343, R348). -/
structure Node where
  v : Nat
  excl : Option Nat
  shared : List Nat
  pin : Option Nat
  pinQueue : List Nat
  queue : List Nat
deriving DecidableEq, Repr

/-- The Weir (chapter 15). -/
structure Weir where
  nodes : Tbl Node
  serial : Option Nat
  serialQueue : List Nat
  /-- the table of parked chunks: threads entered (R352) -/
  parked : List Nat
  /-- counts lines held for appended elements (R336) -/
  heldCounts : List Line
  /-- commits seen by each line, for WAITV: line and order (R367) -/
  touched : List (Line × Nat)
  order : Nat
  /-- base of the numbers of host and peer writes by source (R341) -/
  sources : Tbl Nat
  /-- the sharer vectors: the clusters that a global line may be cached in (R343) -/
  sharers : List (Line × List Nat)
deriving DecidableEq, Repr

/-- A Hoist channel's copy with the row and offset reached (R287); the bytes of a piece that a peer device is asked for,
and what it has answered. -/
structure Channel where
  cmd : CopyCmd
  row : Nat
  off : Nat
  asked : Bool
  got : Option (Nat × List Byte)
deriving DecidableEq, Repr

/-- A range of a range scoreboard: copy, base key region, destination or source (R289). -/
structure Range where
  tid : Nat
  seq : Nat
  base : Word
  stop : Word
  dest : Bool
deriving DecidableEq, Repr

/-- A cluster's Hoist (R287-R290). -/
structure Hoist where
  queue : List CopyCmd
  channels : Tbl Channel
  ranges : List Range
  /-- failure records held by channels until posted (R383) -/
  records : Tbl Rec
deriving DecidableEq, Repr

/-- A die's Tailrace (R380-R382). -/
structure Tailrace where
  block : Option Word
  rbase : Word
  hbase : Word
  waitR : List Rec
  waitH : List Rec
  postedR : Nat
  postedH : Nat
deriving DecidableEq, Repr

/-- States of a tile (R395). -/
inductive TileState where
  | running | frozen | saved | vacant
deriving DecidableEq, Repr

/-- A packet for a core whose tile is frozen (R404): a shipped reply, a memory reply, the notice of the copies of a slot
that have finished, each by number with whether it failed, the release of a phase of a barrier. -/
inductive Packet where
  | reply (ship : Nat)
  | load (tid : Nat)
  | copy (tid : Nat) (ends : List (Nat × Bool)) (v : Nat)
  | release (tid bar phase v : Nat)
deriving DecidableEq, Repr

/-- A record of the Pond with its arrival (R402, R404). -/
structure PondEntry where
  packet : Packet
  stamp : Nat
deriving DecidableEq, Repr

/-- A forwarding entry: the tile that the work has moved to, the image's generation, the cycle of the restore or of the last
packet forwarded, and what the image left to be answered: shipped instructions, loads by slot, copies by slot and number
(R412). -/
structure Forward where
  target : Nat
  gen : Nat
  since : Nat
  ships : List Nat
  loads : List (Nat × Busy)
  copies : List (Nat × Nat)
deriving DecidableEq, Repr

/-- A tile's shell (R17, R395-R412). -/
structure Tile where
  state : TileState
  gen : Nat
  frozenAt : Nat
  /-- packets that the shell holds but has not absorbed, and the Pond -/
  held : List Packet
  pond : List PondEntry
  forwards : List Forward
  /-- image and Pond overflow addresses of a SAVE in progress, and the mailbox that asked for it -/
  saving : Option (Word × Word × Nat)
  /-- image address and mode of a RESTORE in progress, and the mailbox that asked for it -/
  loading : Option (Word × Bool × Nat)
  /-- some chunk entered the table of parked chunks doomed because it was full (R352) -/
  full : Bool
  /-- some chunk's commit had its request complete when SAVE began (R403) -/
  late : Bool
  /-- credits of the six channels at the clock stop: those that the core held, and those that it owed the shell (R402, R405) -/
  ecred : List Nat
  iowed : List Nat
deriving DecidableEq, Repr

/-- A frozen image that SAVE has written: what its bound sections hold stands here as data (R398-R403; log 11: DESIGN CHOICE,
unsafe). The threads are in the tile until VACATE moves them here, its arrays are in its bytes, and poison is the marks that
they carry (R415). -/
structure Image where
  addr : Word
  tile : Nat
  gen : Nat
  stamp : Nat
  asid : Nat
  pondva : Word
  threads : List Thread
  pond : List PondEntry
  poison : List Nat
deriving DecidableEq, Repr

/-- Freezing (chapter 18). -/
structure Freeze where
  tiles : Tbl Tile
  images : List Image
  nextGen : Nat
  /-- generations that have been restored or discarded -/
  retired : List Nat
  /-- the cluster whose big core takes the heavy instructions of a cluster that its big tile has left (R411) -/
  hubs : Tbl Nat
deriving DecidableEq, Repr

/-- The launch-chain registers and the other state of a function (R55, R63, R64, R423-R431, R441). -/
structure Func where
  lcbase : Word
  lcctl : Word
  lchead : Nat
  lctail : Nat
  lcseq : Nat
  lcstat : Nat
  lcack : Nat
  /-- how often the chain has been enabled (R56) -/
  epoch : Nat
  /-- v of the function's last write to device memory before its last LCTAIL write (R339) -/
  tailV : Nat := 0
  /-- words of the MSI-X table, and vectors raised, oldest first -/
  msix : Tbl Word
  raised : List Nat
  /-- MSI-X vectors that wait behind a mask (R423) -/
  pending : List Nat := []
  barSize : Nat
  apva : Word
  quota : Nat
  /-- failed host-directed writes, host writes, and completion objects: address and kind -/
  errlog : List (Nat × Nat)
deriving DecidableEq, Repr

/-- A management mailbox (R439, R440): its registers, the outstanding command, and its outcome once the effect is
complete. -/
structure Mailbox where
  op : Word
  stat : Word
  len : Word
  req : Memory
  rep : List Byte
  busy : Bool
  lost : Bool
  code : Nat
  result : Option (Nat × List Byte)
deriving DecidableEq, Repr

/-- A partition (R63). -/
structure Partition where
  fn : Nat
  clusters : List Nat
  tiles : List Nat
deriving DecidableEq, Repr

/-- Mapping state: frame owners, registered synonyms, pending zero fills (R280-R285). -/
structure Maps where
  frameOwner : Tbl Nat
  /-- alias ASID, alias page, canonical ASID, canonical page, page shift -/
  aliases : List (Nat × Nat × Nat × Nat × Nat)
  /-- MAP commands that wait for their zero fill: mailbox, ASID, VA, leaf, big -/
  fills : List (Nat × Nat × Word × Word × Bool)
deriving DecidableEq, Repr

/-- A write that has left for host memory: its source slot and whether a copy made it, the requester ID, which is the function
that owned its ASID then, its line, and the bytes that it has replaced there (R340, R422, R429). -/
structure HostWrite where
  tid : Nat
  copy : Bool
  fn : Nat
  line : Nat
  old : List Host.Cell
deriving DecidableEq, Repr

/-- What has arrived from outside or through a mailbox and waits for a node or a line (R337, R345): accesses of the host, of whose
reads the bytes of the lines read so far, and whether one was poisoned, are kept, and of peer devices, a snoop, a mapping command
with its mailbox. -/
inductive Arrival where
  | write (f : Fin 17) (off : Nat) (data : List Byte)
  | read (f : Fin 17) (off len : Nat) (got : List Byte) (bad : Bool)
  | atomic (f : Fin 17) (off : Nat) (op size : Fin 3) (x y : BitVec 128)
  | snoop (line : Nat)
  /-- got is what the lines of a read have given so far, begun that the checks of a write have passed (R433, R434) -/
  | peer (src : BitVec 8) (off : Nat) (kind : Fin 3) (op : Nat) (data got : List Byte) (begun : Bool)
  | unmap (u : Nat) (asid : Nat) (va : Word)
  | protect (u : Nat) (asid : Nat) (va leaf : Word)
  | areg (u : Nat) (asid : Nat) (va : Word) (casid : Nat) (cva : Word) (big : Bool)
  | adel (u : Nat) (asid : Nat) (va : Word)
  | trcb (u : Nat) (die : Nat) (va rbase hbase : Word)
  | flr (f : Fin 17)
  /-- a write of LCTAIL, which follows the function's earlier writes (R339) -/
  | tail (f : Fin 17) (v : BitVec 64)
deriving DecidableEq, Repr

/-- The links (chapter 19). -/
structure Links where
  trained : Bool
  width : Nat
  gen : Nat
  cxl : Bool
  /-- host writes without an acknowledgement, oldest first -/
  hostWrites : List HostWrite
  /-- lines the device owns under CXL, snoops pending -/
  cxlOwned : List Nat
  device : Nat
  routes : Tbl (List Nat)
  windows : List (Nat × Nat × Nat × Nat)
  down : List Nat
  /-- accesses to peer devices without an answer, oldest first, and FetchAdds of RED without a completion -/
  peerOut : List PeerMsg
  hostAdds : List HostAdd
  /-- device lines that the host may hold under CXL.mem -/
  hostHeld : List Nat
  /-- answers sent to the host, oldest first: function, and bytes with whether they are poisoned, or Unsupported Request
  (R426, R427) -/
  answers : List (Nat × Option (List Byte × Bool))
  /-- answers sent to peer devices: device, status of R434, bytes -/
  peerAnswers : List (Nat × Nat × List Byte)
  /-- arrivals that wait, oldest first -/
  waiting : List Arrival
  /-- records that name no parked thread and that their core or command processor keeps behind one that is not posted: the die
  of each (R383) -/
  lates : List (Nat × Rec)
deriving DecidableEq, Repr

/-- The operating point and thermal state (R24, R443-R446). -/
structure Power where
  clock : Nat
  /-- the supply, and what it was before a change that is settling (R444, R446) -/
  mv : Nat
  was : Nat
  /-- the point that a settling change leads to, and the mailbox that asked for it -/
  target : Option (Nat × Nat × Option Nat)
  hold : Bool
  /-- trips: die, sensor, temperature, CYCLE -/
  log : List (Nat × Nat × Nat × Nat)
  critical : Bool
deriving DecidableEq, Repr

/-- Bring-up and the lockstep pair (R419, R442). -/
structure Boot where
  /-- firmware loaded and checked; cores running -/
  firmware : Bool
  started : Bool
  /-- none at reset: a KY-8192 (log 13: DESIGN CHOICE, safe) -/
  absent : List Nat
  failed : Option Nat
  lockRestart : Bool
  /-- cycles of the mismatches since reset (R419) -/
  lockTimes : List Nat
  halted : Bool
deriving DecidableEq, Repr

/-- The whole module. -/
structure State where
  cur : Thread
  others : List Thread
  /-- CYCLE (R108) -/
  cycle : Nat
  /-- the model's own: number of free values drawn so far (log 4: DESIGN CHOICE, safe) -/
  free : Nat
  /-- the model's own: what the outside world has done that the module has not yet taken (log 5: DESIGN CHOICE, safe) -/
  inputs : List Instr
  mem : Memory
  /-- poisoned 32-byte units by key (R414) -/
  poison : List Nat
  /-- the source core that each Penstock served last (R96) -/
  rot : Tbl Nat
  /-- rotation pointer of each core (R154) -/
  barrel : Tbl Nat
  /-- the model's own: cores that have issued in this cycle (log 18: DESIGN CHOICE, unsafe in timing) -/
  turn : List Nat
  /-- vector queue of each little core, oldest first (R161) -/
  queues : Tbl (List VecCmd)
  /-- SHARE of each big core (R97) -/
  shares : Tbl (BitVec 4)
  work : Work
  ships : List Ship
  nextShip : Nat
  weir : Weir
  hoists : Tbl Hoist
  tails : Tbl Tailrace
  freeze : Freeze
  funcs : Tbl Func
  boxes : Tbl Mailbox
  parts : List Partition
  maps : Maps
  links : Links
  power : Power
  boot : Boot
  /-- telemetry counters by die (R438) -/
  telem : Tbl (List Nat)
deriving DecidableEq, Repr

/-- Why the machine stops. -/
inductive Fault where
  /-- A table entry names a frame in the reserved range of R273, where no memory exists; raised by every access and
  fetch through translation. Safe: the spec gives no behaviour there, and MAP refuses such a frame (log 19: DESIGN CHOICE,
  safe). -/
  | noMemory (pa : Nat)
deriving DecidableEq, Repr

/-- Why an instruction has no meaning. -/
inductive Refusal where
  /-- Raised by exec for an instruction that has no meaning yet. Safe: nothing is claimed of it. -/
  | notModelled (mnemonic : String)
deriving DecidableEq, Repr

/-- The register values of a slot that no launch has held (log 1: DESIGN CHOICE, unsafe). -/
def Regs.reset : Regs :=
  { pc := 0, g := Vector.replicate 32 0, p := Vector.replicate 8 0, v := Vector.replicate 32 0,
    e := Vector.replicate 8 0, fflags := 0, fmode := 0, srseed := 1, scxg := 0, waitto := 65536, chmin := 256,
    pin := 0, sbchk := false, level := 0, item := 0, copySeq := 0 }

/-- A chunk context that holds nothing. -/
def Chunk.empty (r : Regs) : Chunk :=
  { ckpt := r, mask := none, count := 0, writes := [], outside := [], answer := none, lanes := [], later := [],
    hostOut := [],
    sysLines := [], rlines := [], wlines := [], dlines := [],
    shared := [], excl := [], effects := [], hands := [], foreign := [], gen := 0, serialShip := false,
    pinned := false, serial := false, phase := .open, held := [], acks := [], num := 0, since := 0, doomed := false,
    task := none }

/-- No item. -/
def Item.none : Item :=
  { launch := 0, group := 0, words := [0, 0, 0, 0, 0, 0, 0, 0], cont := false, arrival := 0, since := 0, moves := 0,
    aged := 0, v := 0, spill := 0 }

/-- The slot of a TID after reset: not held, user level unless the slot is a supervisor slot (R104, log 1: DESIGN CHOICE,
unsafe). -/
def Thread.fresh (tid : Nat) (super : Bool) : Thread :=
  { tid := tid, asid := 0, super := super, launch := none, place := .notHeld, r := Regs.reset, stale := [],
    busy := [], landed := [], ready := 0, slots := 0, ex := Chunk.empty Regs.reset, com := none, fins := [],
    wait := .none, chseq := 0,
    chrun := 0, chcause := 0, instret := 0, commits := 0, squashes := 0, lastV := 0, lastOrder := 0, sinceDispatch := 0,
    copyFinished := [], copyDone := 0, copyFailed := [], lastHomes := [], mustPin := false, mustSerial := false,
    stepFlag := false, stepping := false, stepOwed := none, stopAt := none, owed := none, trail := none,
    trap := none, posted := false, trpc := 0, parksel := 0,
    wakePending := false, item0 := Item.none, ordered := false, irrev := false, ts := 0, gang := none,
    pending := none, admitted := tid, keeps := false }

/-- The TID of the supervisor slot of a die: native slot 0 of the big core of the die's lowest-numbered F cluster,
which is the die's first cluster (R13, R104, R442). -/
def superTid (die : Nat) : Nat := 65536 + (die / 2 * 32 + die % 2 * 4) * 1024

/-- The module right after reset: core clocks stopped, nothing placed, memory zero (R442 step 1). -/
def State.reset : State :=
  { cur := Thread.fresh (superTid 0) true
    others := [Thread.fresh (superTid 1) true, Thread.fresh (superTid 2) true, Thread.fresh (superTid 3) true]
    cycle := 0, free := 0, inputs := [], mem := [], poison := [], rot := [], barrel := [], turn := [], queues := [], shares := []
    work := { launches := [], asids := [], retiredAsids := [], retiring := [], shoes := [], arriving := [], offered := [],
              walking := [], batches := [],
              gangs := [], barriers := [], tasks := [], accepted := [], minima := [], exchanged := [], gvt := [], lastGvt := 0,
              holds := [], tileOwner := [], clusterOwner := [], zeroing := [], interval := 4096,
              threshold := 32, aging := 16, nextParams := none, lastBalance := 0, arrivals := 0 }
    ships := [], nextShip := 0
    weir := { nodes := [], serial := none, serialQueue := [], parked := [], heldCounts := [], touched := [],
              order := 0, sources := [], sharers := [] }
    hoists := [], tails := [], freeze := { tiles := [], images := [], nextGen := 0, retired := [], hubs := [] }
    funcs := [], boxes := [], parts := [], maps := { frameOwner := [], aliases := [], fills := [] }
    links := { trained := false, width := 0, gen := 0, cxl := false, hostWrites := [], cxlOwned := [], device := 0,
               routes := [], windows := [], down := [], peerOut := [], hostAdds := [], hostHeld := [], answers := [],
               peerAnswers := [], waiting := [], lates := [] }
    power := { clock := 1250, mv := 600, was := 600, target := none, hold := false, log := [], critical := false }
    boot := { firmware := false, started := false, absent := [], failed := none,
              lockRestart := false, lockTimes := [], halted := false }
    telem := [] }

end Sys2Proof.Machine
end

