-- ==== Sys2Proof/Machine/Bits.lean ====
section
/-! DEFINITION. Sys2Proof/Machine/Bits.lean: tables, bit fields, sign extension, little-endian bytes and the cells of
memory (R3, R6, R7, R102). -/

namespace Sys2Proof.Machine

/-- The entry of a number in a table. -/
def Tbl.find {α : Type} (t : Tbl α) (k : Nat) : Option α :=
  match t with
  | [] => none
  | (j, x) :: t => if j = k then some x else Tbl.find t k

/-- The entry of a number, or the unit's value after reset. -/
def Tbl.at {α : Type} (t : Tbl α) (k : Nat) (dflt : α) : α := (Tbl.find t k).getD dflt

/-- The table with one entry replaced or added. -/
def Tbl.put {α : Type} (t : Tbl α) (k : Nat) (x : α) : Tbl α :=
  match t with
  | [] => [(k, x)]
  | (j, y) :: t => if j = k then (k, x) :: t else if k < j then (k, x) :: (j, y) :: t else (j, y) :: Tbl.put t k x

/-- The table without an entry. -/
def Tbl.del {α : Type} (t : Tbl α) (k : Nat) : Tbl α := t.filter (fun e => e.1 != k)

/-- bits(x, lo + n - 1, lo) of R7, as a number. -/
def bitsOf {w : Nat} (x : BitVec w) (lo n : Nat) : Nat := x.toNat / 2 ^ lo % 2 ^ n

/-- The low 32 bits, sign-extended (R7, R188). -/
def sext32 (x : Nat) : Word := (BitVec.ofNat 32 x).signExtend 64

/-- sext of the low 8 * n bits of a number (R7), for n up to 8. -/
def sextBytes (n x : Nat) : Word :=
  match n with
  | 1 => (BitVec.ofNat 8 x).signExtend 64
  | 2 => (BitVec.ofNat 16 x).signExtend 64
  | 4 => (BitVec.ofNat 32 x).signExtend 64
  | _ => BitVec.ofNat 64 x

/-- The offset of a branch, jump or loop: sext(imm) * 2 (R131). -/
def branchOff {w : Nat} (x : BitVec w) : Word := x.signExtend 64 * 2

/-- A condition as the bit a predicate lane takes. -/
def bitOf (b : Bool) : Nat := if b then 1 else 0

/-- Builds a number of n lanes of w bits, lane i being f i (R102). -/
def packLanes (w : Nat) (f : Nat → Nat) : Nat → Nat
  | 0 => 0
  | n + 1 => packLanes w f n + (f n % 2 ^ w) * 2 ^ (w * n)

/-- Lane i of width w of a vector (R102). -/
def lane (w : Nat) (v : Vec) (i : Nat) : Nat := v.toNat / 2 ^ (w * i) % 2 ^ w

/-- The vector of n lanes of w bits. -/
def vecOf (w n : Nat) (f : Nat → Nat) : Vec := BitVec.ofNat 512 (packLanes w f n)

/-- The predicate whose bit i is f i. -/
def predOf (f : Nat → Bool) : Pred := BitVec.ofNat 16 (packLanes 1 (fun i => bitOf (f i)) 16)

/-- The byte of a memory at an address; an unlisted address reads 0 (R442 step 3, log 3: DESIGN CHOICE, unsafe). -/
def Memory.get (m : Memory) (a : Nat) : Byte :=
  match m with
  | [] => 0
  | (k, b) :: m => if k = a then b else Memory.get m a

/-- Writes one byte and keeps the canonical form. -/
def Memory.set (m : Memory) (a : Nat) (x : Byte) : Memory :=
  match m with
  | [] => if x = 0 then [] else [(a, x)]
  | (k, b) :: m =>
    if a < k then (if x = 0 then (k, b) :: m else (a, x) :: (k, b) :: m)
    else if a = k then (if x = 0 then m else (a, x) :: m)
    else (k, b) :: Memory.set m a x

/-- The canonical form from an address on: addresses strictly rising, no byte 0. -/
def Memory.wfFrom (lo : Nat) (m : Memory) : Bool :=
  match m with
  | [] => true
  | (k, b) :: m => decide (lo ≤ k) && b != 0 && Memory.wfFrom (k + 1) m

/-- The canonical form of memory. -/
def Memory.wf (m : Memory) : Bool := Memory.wfFrom 0 m

/-- Adds cells to a memory, in order. -/
def Memory.setAll (m : Memory) (cells : List Host.Cell) : Memory :=
  cells.foldl (fun m c => Memory.set m c.1 c.2) m

/-- The bytes of a number, least significant first (R3). -/
def bytesOf : Nat → Nat → List Byte
  | 0, _ => []
  | n + 1, x => BitVec.ofNat 8 x :: bytesOf n (x / 256)

/-- The number whose bytes are given, least significant first (R3). -/
def ofBytes : List Byte → Nat
  | [] => 0
  | b :: bs => b.toNat + 256 * ofBytes bs

/-- The cells that hold bytes from an address on. -/
def cellsAt (a : Nat) : List Byte → List Host.Cell
  | [] => []
  | b :: bs => (a, b) :: cellsAt (a + 1) bs

/-- n bytes of memory from an address on. -/
def Memory.bytes (m : Memory) (a : Nat) : Nat → List Byte
  | 0 => []
  | n + 1 => Memory.get m a :: Memory.bytes m (a + 1) n

/-- n bytes of memory from an address on as a number (R3). -/
def Memory.num (m : Memory) (a n : Nat) : Nat := ofBytes (Memory.bytes m a n)

/-- Writes the low n bytes of a number at an address (R3). -/
def Memory.setNum (m : Memory) (a n x : Nat) : Memory := Memory.setAll m (cellsAt a (bytesOf n x))

/-- The byte that a chunk's buffer holds for an address. -/
def bufGet (m : Memory) (a : Nat) : Option Byte :=
  match m with
  | [] => none
  | (k, b) :: m => if k = a then some b else bufGet m a

/-- Buffers one byte; a buffer lists zero bytes too (R294). -/
def bufSet (m : Memory) (a : Nat) (x : Byte) : Memory :=
  match m with
  | [] => [(a, x)]
  | (k, b) :: m =>
    if a < k then (a, x) :: (k, b) :: m
    else if a = k then (a, x) :: m
    else (k, b) :: bufSet m a x

/-- Adds an element to a list that holds it once. -/
def addOnce {α : Type} [DecidableEq α] (x : α) (l : List α) : List α := if x ∈ l then l else l ++ [x]

/-- Inserts a number into an ascending list. -/
def insertAsc (x : Nat) : List Nat → List Nat
  | [] => [x]
  | y :: l => if x < y then x :: y :: l else if x = y then y :: l else y :: insertAsc x l

/-- The smallest element by a key, earlier elements first among equals. -/
def minBy {α : Type} (f : α → Nat) : List α → Option α
  | [] => none
  | x :: l => match minBy f l with
    | none => some x
    | some y => if f x ≤ f y then some x else some y


end Sys2Proof.Machine
end

