-- ==== Sys2Proof/Machine/Num.lean ====
section
/-! DEFINITION. Sys2Proof/Machine/Num.lean: number formats and their exact arithmetic (chapter 09). A finite value is
a sign, a magnitude m and an exponent e, standing for m * 2^e exactly; arithmetic is exact and rounds once at the end
(R6, R218). -/

namespace Sys2Proof.Machine

/-- Formats with a rounding grid of their own (R208, R210, R213, R215). -/
inductive Fmt where
  | f64 | f32 | f16 | bf16 | e4m3 | e5m2 | e3m2 | e2m3 | e2m1 | yt8 | acc
deriving DecidableEq, Repr

/-- Fraction bits (R208, R210, R215). -/
def Fmt.frac : Fmt → Nat
  | .f64 => 52 | .f32 => 23 | .f16 => 10 | .bf16 => 7 | .e4m3 => 3 | .e5m2 => 2 | .e3m2 => 2 | .e2m3 => 3
  | .e2m1 => 1 | .yt8 => 0 | .acc => 80

/-- Width in bits (R208, R210, R213, R215). -/
def Fmt.width : Fmt → Nat
  | .f64 => 64 | .f32 => 32 | .f16 => 16 | .bf16 => 16 | .e4m3 => 8 | .e5m2 => 8 | .e3m2 => 6 | .e2m3 => 6
  | .e2m1 => 4 | .yt8 => 8 | .acc => 96

/-- Exponent bias (R208, R210, R215). -/
def Fmt.bias : Fmt → Nat
  | .f64 => 1023 | .f32 => 127 | .f16 => 15 | .bf16 => 127 | .e4m3 => 7 | .e5m2 => 15 | .e3m2 => 3 | .e2m3 => 1
  | .e2m1 => 1 | .yt8 => 0 | .acc => 16383

/-- The four formats that DAZ and FTZ affect (R221). -/
def Fmt.ieee : Fmt → Bool
  | .f64 | .f32 | .f16 | .bf16 => true
  | _ => false

/-- Whether a format has infinities (R208, R211, R213, R215). -/
def Fmt.hasInf (nr : Bool) : Fmt → Bool
  | .f64 | .f32 | .f16 | .bf16 | .acc => true
  | .e4m3 | .e5m2 => nr
  | _ => false

/-- Whether a format encodes negative zero (R211, R213). -/
def Fmt.negZero (nr : Bool) : Fmt → Bool
  | .yt8 => false
  | .e5m2 => nr
  | _ => true

/-- The magnitude code of the largest finite value (R208, R211, R213). -/
def Fmt.maxCode (nr : Bool) : Fmt → Nat
  | .e4m3 => if nr then 0x77 else 0x7E
  | .e5m2 => if nr then 0x7B else 0x7F
  | .e3m2 => 31 | .e2m3 => 31 | .e2m1 => 7 | .yt8 => 127
  | f => 2 ^ (f.width - 1) - 2 ^ f.frac - 1

/-- The default NaN, or what stands for it (R208, R211, R213, R215, R222). -/
def Fmt.nan (nr : Bool) : Fmt → Nat
  | .f64 => 0x7FF8000000000000 | .f32 => 0x7FC00000 | .f16 => 0x7E00 | .bf16 => 0x7FC0
  | .e4m3 => 0x7F | .e5m2 => if nr then 0x7F else 0x80
  | .yt8 => 0x80 | .acc => 0x7FFF * 2 ^ 80 + 2 ^ 79
  | _ => 0

/-- A value read from an encoding. -/
inductive Val where
  | nan (signalling : Bool)
  | inf (neg : Bool)
  | fin (neg : Bool) (m : Nat) (e : Int)
deriving DecidableEq, Repr

/-- Flags of FFLAGS (R106). -/
def fNV : Flags := 1
def fDZ : Flags := 2
def fOF : Flags := 4
def fUF : Flags := 8
def fNX : Flags := 16
def fSAT : Flags := 32

/-- The flag when a condition holds. -/
def flagIf (c : Bool) (f : Flags) : Flags := if c then f else 0

/-- The value of a yt8 magnitude code in units of 2^-8 (R213). -/
def ytUnits (c : Nat) : Nat :=
  if c = 0 then 0
  else
    let j := Nat.log2 c
    if j = 0 then 1
    else
      let x := c / 2 ^ (j - 1) % 2
      2 ^ (j + 1 + x) * (2 ^ (j - 1) + c % 2 ^ (j - 1))

/-- The value that an encoding stands for (R208-R213, R215), before DAZ. -/
def decodeRaw (f : Fmt) (nr : Bool) (bits : Nat) : Val :=
  let bits := bits % 2 ^ f.width
  let neg := bits / 2 ^ (f.width - 1) == 1
  let code := bits % 2 ^ (f.width - 1)
  let ef := code / 2 ^ f.frac
  let ff := code % 2 ^ f.frac
  let fin : Val :=
    if ef = 0 then .fin neg ff (1 - (f.bias : Int) - f.frac)
    else .fin neg (2 ^ f.frac + ff) ((ef : Int) - f.bias - f.frac)
  match f with
  | .yt8 => if code = 0 then (if neg then .nan false else .fin false 0 0) else .fin neg (ytUnits code) (-8)
  | .e3m2 | .e2m3 | .e2m1 => fin
  | .e4m3 =>
    if nr then (if ef = 15 then (if ff = 0 then .inf neg else .nan false) else fin)
    else if code = 0x7F then .nan false else fin
  | .e5m2 =>
    if nr then (if ef = 31 then (if ff = 0 then .inf neg else .nan false) else fin)
    else if bits = 0x80 then .nan false else fin
  | .acc => if ef = 0x7FFF then (if ff = 0 then .inf neg else .nan false) else fin
  | _ =>
    if ef = 2 ^ (f.width - 1 - f.frac) - 1 then
      (if ff = 0 then .inf neg else .nan (ff / 2 ^ (f.frac - 1) == 0))
    else fin

/-- Whether a finite value of a format is subnormal (R208, R221). -/
def isSubnormal (f : Fmt) (bits : Nat) : Bool :=
  let code := bits % 2 ^ (f.width - 1)
  code != 0 && code < 2 ^ f.frac

/-- The value of an operand, with DAZ where it applies (R221). -/
def decodeVal (f : Fmt) (nr daz : Bool) (bits : Nat) : Val :=
  match decodeRaw f nr bits with
  | .fin neg m e => if daz && f.ieee && isSubnormal f bits then .fin neg 0 0 else .fin neg m e
  | v => v

/-- Whether a rounding takes the upper neighbour: num / den is the way from lower to upper, odd the parity of lower
(R218 step 4). rm: 0 RNE, 1 RTZ, 2 RDN, 3 RUP, 4 RSR with draw d. -/
def roundsUp (rm d : Nat) (neg odd : Bool) (num den : Nat) : Bool :=
  if num = 0 then false
  else match rm with
    | 1 => false
    | 2 => neg
    | 3 => !neg
    | 4 => den * 65536 ≤ num * 65536 + d * den
    | _ => den < 2 * num || (2 * num == den && odd)

/-- m * 2^e as a fraction of natural numbers. -/
def fracOf (m : Nat) (e : Int) : Nat × Nat :=
  if 0 ≤ e then (m * 2 ^ e.toNat, 1) else (m, 2 ^ (-e).toNat)

/-- The code that follows rounding |x| = m * 2^e, m > 0, on the grid of a binary format continued upwards, and whether
the result is inexact (R218). -/
def roundCode (f : Fmt) (rm d : Nat) (neg : Bool) (m : Nat) (e : Int) : Nat × Bool :=
  match f with
  | .yt8 =>
    let (num, den) := fracOf m (e + 8)
    let top := num / den
    if 63 * 256 ≤ top then
      let n := num / (den * 256)
      let r := num % (den * 256)
      (n + 64 + bitOf (roundsUp rm d neg (n % 2 == 1) r (den * 256)), r != 0)
    else
      let c := ((List.range 128).filter (fun c => ytUnits c ≤ top)).length - 1
      let lo := ytUnits c
      let gap := ytUnits (c + 1) - lo
      let r := num - lo * den
      (c + bitOf (roundsUp rm d neg (c % 2 == 1) r (gap * den)), r != 0)
  | _ =>
    let emin : Int := 1 - (f.bias : Int)
    let top : Int := (Nat.log2 m : Int) + e
    let q : Int := max top emin - f.frac
    let (num, den) := fracOf m (e - q)
    let n := num / den
    let r := num % den
    ((q - (emin - f.frac)).toNat * 2 ^ f.frac + n + bitOf (roundsUp rm d neg (n % 2 == 1) r den), r != 0)

/-- The smallest normal magnitude as an exponent of 2; for yt8 the limit of R221. -/
def Fmt.tinyExp : Fmt → Int
  | .yt8 => -8
  | f => 1 - (f.bias : Int)

/-- round(x, f, rm) with the overflow, tininess and conversion rules of R218, R220, R221 and R222. The result's bits
and the flags raised. -/
def pack (f : Fmt) (nr ftz : Bool) (rm d : Nat) (x : Val) : Nat × Flags :=
  let sign (neg : Bool) (code : Nat) : Nat :=
    if neg && (code != 0 || f.negZero nr) then 2 ^ (f.width - 1) + code else code
  match x with
  | .nan sig =>
    match f with
    | .e3m2 | .e2m3 | .e2m1 => (0, fNV)
    | _ => (f.nan nr, flagIf sig fNV)
  | .inf neg =>
    if f.hasInf nr then (sign neg (f.maxCode nr + 1), 0) else (sign neg (f.maxCode nr), fSAT)
  | .fin neg m e =>
    if m = 0 then (sign neg 0, 0)
    else
      let tiny := (Nat.log2 m : Int) + e < f.tinyExp
      if tiny && ftz && f.ieee then (sign neg 0, fUF ||| fNX)
      else
        let (code, inexact) := roundCode f rm d neg m e
        if f.maxCode nr < code then
          if f.hasInf nr then
            let toInf := rm = 0 || rm = 4 || (rm = 2 && neg) || (rm = 3 && !neg) || 4 < rm
            (sign neg (if toInf then f.maxCode nr + 1 else f.maxCode nr), fOF ||| fNX)
          else (sign neg (f.maxCode nr), fSAT ||| fNX)
        else (sign neg code, if inexact then (if tiny then fUF ||| fNX else fNX) else 0)

/-- Rounds a value to an integer and holds it in [lo, hi] (R218, R222). quant: saturation raises SAT and NX; else out
of range raises NV. -/
def packInt (quant : Bool) (rm d : Nat) (lo hi : Int) (x : Val) : Int × Flags :=
  match x with
  | .nan _ => (0, fNV)
  | .inf neg => (if neg then lo else hi, if quant then fSAT else fNV)
  | .fin neg m e =>
    let (num, den) := fracOf m e
    let n := num / den
    let r := num % den
    let mag : Int := n + bitOf (roundsUp rm d neg (n % 2 == 1) r den)
    let v := if neg then -mag else mag
    if v < lo then (lo, if quant then fSAT ||| fNX else fNV)
    else if hi < v then (hi, if quant then fSAT ||| fNX else fNV)
    else (v, flagIf (r != 0) fNX)

/-- Whether a value is a NaN. -/
def Val.isNan : Val → Bool
  | .nan _ => true
  | _ => false

/-- Whether a value is a signalling NaN. -/
def Val.isSig : Val → Bool
  | .nan s => s
  | _ => false

/-- Whether a value is zero. -/
def Val.isZero : Val → Bool
  | .fin _ m _ => m == 0
  | _ => false

/-- The sign of a value. -/
def Val.neg : Val → Bool
  | .nan _ => false
  | .inf n => n
  | .fin n _ _ => n

/-- The value with the other sign. -/
def Val.negate : Val → Val
  | .nan s => .nan s
  | .inf n => .inf (!n)
  | .fin n m e => .fin (!n) m e

/-- A signed integer multiple of 2^e: the sign of an exact zero sum is given by zneg (R218). -/
def ofScaled (z : Int) (e : Int) (zneg : Bool) : Val :=
  if z = 0 then .fin zneg 0 0 else .fin (z < 0) z.natAbs e

/-- A finite value as an integer multiple of 2^e, for e not above its exponent. -/
def scaled (neg : Bool) (m : Nat) (e' e : Int) : Int :=
  let k : Int := (m * 2 ^ (e' - e).toNat : Nat)
  if neg then -k else k

/-- x + y exactly, with the NV cases of R223. -/
def addVal (rm : Nat) (x y : Val) : Val × Flags :=
  match x, y with
  | .nan s, .nan s' => (.nan false, flagIf (s || s') fNV)
  | .nan s, _ => (.nan false, flagIf s fNV)
  | _, .nan s => (.nan false, flagIf s fNV)
  | .inf a, .inf b => if a = b then (.inf a, 0) else (.nan false, fNV)
  | .inf a, _ => (.inf a, 0)
  | _, .inf b => (.inf b, 0)
  | .fin a m e, .fin b n g =>
    let lo := if m = 0 then g else if n = 0 then e else min e g
    let zneg := if a = b then a else rm == 2
    (ofScaled (scaled a m (if m = 0 then lo else e) lo + scaled b n (if n = 0 then lo else g) lo) lo zneg, 0)

/-- x * y exactly, with the NV cases of R223. -/
def mulVal (x y : Val) : Val × Flags :=
  match x, y with
  | .nan s, .nan s' => (.nan false, flagIf (s || s') fNV)
  | .nan s, _ => (.nan false, flagIf s fNV)
  | _, .nan s => (.nan false, flagIf s fNV)
  | .inf a, .inf b => (.inf (a != b), 0)
  | .inf a, .fin b n _ => if n = 0 then (.nan false, fNV) else (.inf (a != b), 0)
  | .fin a m _, .inf b => if m = 0 then (.nan false, fNV) else (.inf (a != b), 0)
  | .fin a m e, .fin b n g => (.fin (a != b) (m * n) (if m * n = 0 then 0 else e + g), 0)

/-- x * y + z with one rounding to come; NV also when x * y is invalid. -/
def fmaVal (rm : Nat) (x y z : Val) : Val × Flags :=
  let (p, f) := mulVal x y
  let (r, g) := addVal rm p z
  (r, f ||| g)

/-- m1 / m2 with enough bits to round once, as magnitude and exponent: a last bit marks a remainder (R218). -/
def divMag (m1 m2 : Nat) : Nat × Int :=
  let k := 200 + Nat.log2 m2
  let n := m1 * 2 ^ k
  (2 * (n / m2) + bitOf (n % m2 != 0), -(k : Int) - 1)

/-- x / y, with the special cases of IEEE 754 (R227). -/
def divVal (x y : Val) : Val × Flags :=
  match x, y with
  | .nan s, .nan s' => (.nan false, flagIf (s || s') fNV)
  | .nan s, _ => (.nan false, flagIf s fNV)
  | _, .nan s => (.nan false, flagIf s fNV)
  | .inf _, .inf _ => (.nan false, fNV)
  | .inf a, .fin b _ _ => (.inf (a != b), 0)
  | .fin a _ _, .inf b => (.fin (a != b) 0 0, 0)
  | .fin a m e, .fin b n g =>
    if n = 0 then (if m = 0 then (.nan false, fNV) else (.inf (a != b), fDZ))
    else if m = 0 then (.fin (a != b) 0 0, 0)
    else
      let (q, k) := divMag m n
      (.fin (a != b) q (k + e - g), 0)

/-- The integer square root, bit by bit from bit k - 1 down. -/
def isqrtFrom (n : Nat) : Nat → Nat → Nat
  | 0, r => r
  | k + 1, r => if (r + 2 ^ k) * (r + 2 ^ k) ≤ n then isqrtFrom n k (r + 2 ^ k) else isqrtFrom n k r

/-- The integer square root of a number below 2^512. -/
def isqrt (n : Nat) : Nat := isqrtFrom n 256 0

/-- The square root, with the special cases of IEEE 754 (R227); a last bit marks a remainder. -/
def sqrtVal (x : Val) : Val × Flags :=
  match x with
  | .nan s => (.nan false, flagIf s fNV)
  | .inf a => if a then (.nan false, fNV) else (.inf false, 0)
  | .fin a m e =>
    if m = 0 then (.fin a 0 0, 0)
    else if a then (.nan false, fNV)
    else
      let (m, e) := if e % 2 = 0 then (m, e) else (2 * m, e - 1)
      let n := m * 2 ^ 256
      let r := isqrt n
      (.fin false (2 * r + bitOf (r * r != n)) (e / 2 - 128 - 1), 0)

/-- Compares finite or infinite values: less, equal, greater; none when unordered (a NaN). Zeros are equal. -/
def cmpVal (x y : Val) : Option Ordering :=
  match x, y with
  | .nan _, _ => none
  | _, .nan _ => none
  | .inf a, .inf b => some (if a = b then .eq else if a then .lt else .gt)
  | .inf a, _ => some (if a then .lt else .gt)
  | _, .inf b => some (if b then .gt else .lt)
  | .fin a m e, .fin b n g =>
    let lo := min e g
    some (compare (scaled a m e lo) (scaled b n g lo))

/-- One step of the generator: the new SRSEED and the draw (R219). -/
def draw (s : Word) : Word × Nat :=
  let s := s ^^^ (s <<< 13)
  let s := s ^^^ (s >>> 7)
  let s := s ^^^ (s <<< 17)
  (s, bitsOf s 48 16)

/-- The generator after n draws (R219). -/
def drawN : Nat → Word → Word
  | 0, s => s
  | n + 1, s => drawN n (draw s).1

/-- RM of FMODE; the reserved codes never stand there (R109). -/
def rmOf (fmode : BitVec 12) : Nat := bitsOf fmode 0 3
/-- FTZ of FMODE (R106). -/
def ftzOf (fmode : BitVec 12) : Bool := fmode.getLsbD 3
/-- DAZ of FMODE (R106). -/
def dazOf (fmode : BitVec 12) : Bool := fmode.getLsbD 4
/-- NR of FMODE (R106). -/
def nrOf (fmode : BitVec 12) : Bool := fmode.getLsbD 5
/-- The trap enables of FMODE (R106). -/
def enOf (fmode : BitVec 12) : Flags := BitVec.ofNat 6 (bitsOf fmode 6 6)

/-- The value that an E8M0 scale byte stands for; none is NaN (R214). -/
def scaleExp (s : Nat) : Option Int := if s = 255 then none else some ((s : Int) - 127)

/-- An element times its block's scale, exactly (R214). -/
def scaleVal (x : Val) (s : Option Int) : Val :=
  match s with
  | none => .nan false
  | some k => match x with
    | .fin n m e => .fin n m (e + k)
    | v => v

end Sys2Proof.Machine
end

