-- ==== Sys2Proof/Machine/Approx.lean ====
section
/-! DEFINITION. Sys2Proof/Machine/Approx.lean: the approximated functions of R225 and R226. A stepping's own result is
a constant without a body (Config); it is taken where it keeps the bound that R225 states and the nearest value is
taken where it does not, so nothing but the bound is known of a result (log 10: DESIGN CHOICE, safe). Exact values come from fixed-point
series that are far finer than any bound. -/

namespace Sys2Proof.Machine

/-- The sum of the first n terms of a series whose term k is made from the term before it. -/
def series (next : Nat → Nat → Nat) : Nat → Nat → Nat → Nat
  | 0, _, _ => 0
  | n + 1, k, t => t + series next n (k + 1) (next k t)

/-- atan(1/n) * 2^K by its alternating series, positive terms less negative ones. -/
def atanInv (K n : Nat) : Nat :=
  let pos := (List.range 160).foldl (fun a j => a + 2 ^ K / ((4 * j + 1) * n ^ (4 * j + 1))) 0
  let neg := (List.range 160).foldl (fun a j => a + 2 ^ K / ((4 * j + 3) * n ^ (4 * j + 3))) 0
  pos - neg

/-- pi * 2^1400. -/
def piFixed : Nat := 16 * atanInv 1400 5 - 4 * atanInv 1400 239

/-- ln(y) * 2^256 for y = 1 + z-form: 2 * atanh(num / den), num / den at most 1/3. -/
def lnFixed (num den : Nat) : Nat :=
  let z := 2 ^ 256 * num / den
  let z2 := z * z / 2 ^ 256
  2 * ((List.range 90).foldl (fun (a : Nat × Nat) k => (a.1 + a.2 / (2 * k + 1), a.2 * z2 / 2 ^ 256)) (0, z)).1

/-- ln(2) * 2^256. -/
def ln2Fixed : Nat := lnFixed 1 3

/-- 2^x for a value x that is no NaN, infinity or zero: mantissa and exponent, and whether it is exact. An x that is no
multiple of 2^-256 is taken as the multiple below it, so that the result lies on the same side of 1. -/
def exp2Mag (neg : Bool) (m : Nat) (e : Int) : Nat × Int × Bool :=
  if 2000 * 2 ^ 64 < m * 2 ^ (e + 64).toNat then (1, if neg then -2000 else 2000, false)
  else
    let (num, den) := fracOf m (e + 256)
    let f : Int := Int.ofNat (num / den)
    let x : Int := if neg then (if num % den = 0 then -f else -(f + 1)) else f
    let n := x / 2 ^ 256
    let r := (x - n * 2 ^ 256).toNat
    let t := r * ln2Fixed / 2 ^ 256
    let y := series (fun k a => a * t / 2 ^ 256 / (k + 1)) 80 0 (2 ^ 256)
    let exact := num % den == 0 && r == 0
    (if exact then 2 ^ 256 else 2 * (y / 2) + 1, n - 256, exact)

/-- log2(x) of a positive finite nonzero value, and whether it is exact. -/
def log2Val (m : Nat) (e : Int) : Val × Bool :=
  let top := Nat.log2 m
  let k : Int := (top : Int) + e
  if m = 2 ^ top then (ofScaled k 0 false, true)
  else
    let y : Nat := lnFixed (m - 2 ^ top) (m + 2 ^ top) * 2 ^ 256 / ln2Fixed
    (ofScaled (2 * (k * 2 ^ 256 + y) + 1) (-257) false, false)

/-- sin (or cos) of a positive angle r * 2^-300 below pi/2, times 2^300. -/
def sinCosFixed (cos : Bool) (r : Nat) : Int :=
  let r2 := r * r / 2 ^ 300
  let step (a : Int × Nat) (k : Nat) : Int × Nat :=
    let j := if cos then (2 * k + 1) * (2 * k + 2) else (2 * k + 2) * (2 * k + 3)
    (a.1 + (if k % 2 = 0 then (a.2 : Int) else -(a.2 : Int)), a.2 * r2 / 2 ^ 300 / j)
  ((List.range 60).foldl step (0, if cos then 2 ^ 300 else r)).1

/-- sin (or cos) of a finite nonzero value with full range reduction. -/
def sinCosVal (cos neg : Bool) (m : Nat) (e : Int) : Val :=
  if (Nat.log2 m : Int) + e < -70 then
    if cos then .fin false (2 ^ 200 - 1) (-200) else .fin neg (m * 2 ^ 100 - 1) (e - 100)
  else
    let (num, den) := fracOf m (e + 1400)
    let x := num / den
    let half := piFixed / 2
    let q := x / half % 4
    let r := x % half / 2 ^ 1100
    let s := sinCosFixed (if cos then q % 2 == 0 else q % 2 == 1) r
    let s := if (if cos then q = 1 ∨ q = 2 else 2 ≤ q) then -s else s
    let s := if neg && !cos then -s else s
    ofScaled (2 * s + 1) (-301) false

/-- Whether |c - x| <= k * 2^q for finite values. -/
def within (c x : Val) (k : Nat) (q : Int) : Bool :=
  match c, x with
  | .fin a m e, .fin b n g =>
    let lo := min (min e g) q
    (scaled a m e lo - scaled b n g lo).natAbs ≤ k * 2 ^ (q - lo).toNat
  | _, _ => false

/-- The exponent of the spacing of a binary format's grid at a nonzero value (R225). -/
def ulpExp (f : Fmt) (x : Val) : Int :=
  match x with
  | .fin _ m e => max ((Nat.log2 m : Int) + e) f.tinyExp - f.frac
  | _ => 0

/-- The result of an approximated function with exact value x: the stepping's candidate where ok accepts it, else the
nearest value; NX unless the returned value is exact, OF and UF as R225 gives. exact: x has no rounding error. FTZ
applies as in rounding (log 17: DEDUCED, unsafe). -/
def approxResult (f : Fmt) (ftz : Bool) (cand : Nat) (x : Val) (exact : Bool) (ok : Val → Bool) : Nat × Flags :=
  let (bits, fl) := pack f false ftz 0 0 x
  match x with
  | .fin _ m e =>
    if m = 0 then (bits, fl)
    else
      let tiny := (Nat.log2 m : Int) + e < f.tinyExp
      if fl &&& fOF != 0 || (tiny && ftz && f.ieee) then (bits, fl)
      else
        let cv := decodeRaw f false (cand % 2 ^ f.width)
        let out := if ok cv then cand % 2 ^ f.width else bits
        let same := exact && cmpVal (decodeRaw f false out) x == some .eq
        (out, if same then 0 else if tiny then fUF ||| fNX else fNX)
  | _ => (bits, fl)

/-- Whether a candidate has relative error below 2^-12 (R225). -/
def relOk (x c : Val) : Bool :=
  match c, x with
  | .fin a m e, .fin b n g =>
    let lo := min e g
    decide ((scaled a m e lo - scaled b n g lo).natAbs * 4096 < (scaled b n g lo).natAbs)
  | _, _ => false

/-- A special result of R226: bits of the value, with flags. -/
def special (f : Fmt) (v : Val) (fl : Flags) : Nat × Flags :=
  ((pack f false false 0 0 v).1, fl)

/-- What tells the candidates of one operand apart: its format, its encoding, and DAZ (R225). -/
def candKey (f : Fmt) (daz : Bool) (bits : Nat) : Nat := (bits % 2 ^ f.width * 2 + bitOf daz) * 4096 + f.width * 32 + f.frac % 32

/-- 1/x or 1/sqrt(x) of a value that is no NaN, infinity or zero, and whether it is exact; none of a negative value's root.
fn: 0 reciprocal, 1 reciprocal square root. -/
def rcpExact (fn : Nat) (x : Val) : Option (Val × Bool) :=
  match x with
  | .fin n m e =>
    if m = 0 then none
    else if fn = 0 then
      let (q, k) := divMag 1 m
      some (.fin n q (k - e), q % 2 == 0)
    else if n then none
    else match (sqrtVal (.fin false m e)).1 with
      | .fin _ rm re =>
        let (q, k) := divMag 1 rm
        some (.fin false q (k - re), rm % 2 == 0 && q % 2 == 0)
      | _ => none
  | _ => none

/-- The f32 or f64 estimate of 1/x or 1/sqrt(x) and its flags (R225, R226, R240). fn as in rcpExact. -/
def estimate (fn : Nat) (f : Fmt) (ftz : Bool) (x : Val) (key : Nat) : Nat × Flags :=
  match x with
  | .nan s => special f (.nan false) (flagIf s fNV)
  | .inf n => if n && fn == 1 then special f (.nan false) fNV else special f (.fin n 0 0) 0
  | .fin n m _ =>
    if m = 0 then special f (.inf n) fDZ
    else match rcpExact fn x with
      | some (v, exact) => approxResult f ftz (Config.approx fn f.width key) v exact (relOk v)
      | none => special f (.nan false) fNV

/-- Whether a value lies below the normal range of a format (R221). -/
def tinyIn (f : Fmt) (v : Val) : Bool :=
  match v with
  | .fin _ m e => m != 0 && decide ((Nat.log2 m : Int) + e < f.tinyExp)
  | _ => false

/-- FRCP, FRSQ, VRCP and VRSQ on a format. f16 and bf16 round to nearest even the f32 estimate of the same value; NX and UF
compare the result with the exact value of the function (R221, R225, R240). fn as in rcpExact. -/
def rcpFn (fn : Nat) (f : Fmt) (fmode : BitVec 12) (bits : Nat) : Nat × Flags :=
  let x := decodeVal f (nrOf fmode) (dazOf fmode) bits
  match f with
  | .f64 | .f32 => estimate fn f (ftzOf fmode) x (candKey f (dazOf fmode) bits)
  | _ =>
    let (b, fl) := estimate fn .f32 false x (candKey .f32 (dazOf fmode) (pack .f32 false false 0 0 x).1)
    let (r, gl) := pack f (nrOf fmode) false 0 0 (decodeRaw .f32 false b)
    match rcpExact fn x with
    | none => (r, fl)
    | some (v, exact) =>
      let tiny := tinyIn f v
      if tiny && ftzOf fmode && f.ieee then special f (.fin (x matches .fin true _ _) 0 0) (fUF ||| fNX)
      else
        let same := exact && cmpVal (decodeRaw f (nrOf fmode) r) v == some .eq
        (r, ((fl ||| gl) &&& fOF) ||| flagIf (!same) (if tiny then fUF ||| fNX else fNX))

/-- FEXP2, FLOG2, FSIN, FCOS and VTRN codes 0-3 (R225, R226). fn: 0 exp2, 1 log2, 2 sin, 3 cos. -/
def transFn (fn : Nat) (f : Fmt) (fmode : BitVec 12) (bits : Nat) : Nat × Flags :=
  let x := decodeVal f (nrOf fmode) (dazOf fmode) bits
  let ftz := ftzOf fmode
  let cand := Config.approxFn fn f.width (candKey f (dazOf fmode) bits)
  let one : Val := .fin false 1 0
  let fin (v : Val) (exact : Bool) (k : Nat) : Nat × Flags :=
    approxResult f ftz cand v exact (fun c => within c v k (ulpExp f v))
  match x with
  | .nan s => special f (.nan false) (flagIf s fNV)
  | .inf n =>
    if fn = 0 then (if n then special f (.fin false 0 0) 0 else special f (.inf false) 0)
    else if fn = 1 && !n then special f (.inf false) 0
    else special f (.nan false) fNV
  | .fin n m e =>
    if m = 0 then
      if fn = 0 || fn = 3 then special f one 0
      else if fn = 1 then special f (.inf true) fDZ
      else special f (.fin n 0 0) 0
    else if fn = 0 then
      let (y, g, exact) := exp2Mag n m e
      fin (.fin false y g) exact 1
    else if fn = 1 then
      if n then special f (.nan false) fNV
      else
        let (v, exact) := log2Val m e
        fin v exact 1
    else fin (sinCosVal (fn == 3) n m e) false 2

end Sys2Proof.Machine
end

