-- ==== Sys2Proof/Machine/Float.lean ====
section
/-! DEFINITION. Sys2Proof/Machine/Float.lean: the floating-point operations on one element, shared by scalar, vector,
heavy and memory-side instructions (R233-R241, R249, R252, R358). Each gives the result's bits and the flags. -/

namespace Sys2Proof.Machine

/-- The format of a lane type or conversion code (R134): 2 f32, 3 f16, 4 bf16, 5 f64. -/
def fmtOf : Nat → Fmt
  | 3 => .f16
  | 4 => .bf16
  | 5 => .f64
  | _ => .f32

/-- rd of R230: the operand's value under DAZ (R221). -/
def fRd (f : Fmt) (m : BitVec 12) (bits : Nat) : Val := decodeVal f (nrOf m) (dazOf m) bits

/-- Rounds an exact value once under FMODE with draw d and joins the flags (R231). -/
def fRound (f : Fmt) (m : BitVec 12) (d : Nat) (x : Val × Flags) : Nat × Flags :=
  let r := pack f (nrOf m) (ftzOf m) (rmOf m) d x.1
  (r.1, r.2 ||| x.2)

/-- x + y (R233). -/
def fAdd (f : Fmt) (m : BitVec 12) (d x y : Nat) : Nat × Flags :=
  fRound f m d (addVal (rmOf m) (fRd f m x) (fRd f m y))

/-- x - y (R233). A NaN is not negated. -/
def fSub (f : Fmt) (m : BitVec 12) (d x y : Nat) : Nat × Flags :=
  fRound f m d (addVal (rmOf m) (fRd f m x) (fRd f m y).negate)

/-- x * y (R233). -/
def fMul (f : Fmt) (m : BitVec 12) (d x y : Nat) : Nat × Flags :=
  fRound f m d (mulVal (fRd f m x) (fRd f m y))

/-- x * y + z with one rounding (R233). -/
def fFma (f : Fmt) (m : BitVec 12) (d x y z : Nat) : Nat × Flags :=
  fRound f m d (fmaVal (rmOf m) (fRd f m x) (fRd f m y) (fRd f m z))

/-- x / y (R227). -/
def fDiv (f : Fmt) (m : BitVec 12) (d x y : Nat) : Nat × Flags :=
  fRound f m d (divVal (fRd f m x) (fRd f m y))

/-- The square root (R227). -/
def fSqrt (f : Fmt) (m : BitVec 12) (d x : Nat) : Nat × Flags :=
  fRound f m d (sqrtVal (fRd f m x))

/-- The encoding of an operand as DAZ leaves it (R235). -/
def dazBits (f : Fmt) (m : BitVec 12) (bits : Nat) : Nat :=
  let b := bits % 2 ^ f.width
  if dazOf m && f.ieee && isSubnormal f b then b / 2 ^ (f.width - 1) * 2 ^ (f.width - 1) else b

/-- Minimum or maximum (R235). -/
def fMinMax (isMax : Bool) (f : Fmt) (m : BitVec 12) (x y : Nat) : Nat × Flags :=
  let u := fRd f m x
  let v := fRd f m y
  let bx := dazBits f m x
  let by' := dazBits f m y
  let fl := flagIf (u.isSig || v.isSig) fNV
  match u.isNan, v.isNan with
  | true, true => (f.nan (nrOf m), fl)
  | true, false => (by', fl)
  | false, true => (bx, fl)
  | false, false =>
    match cmpVal u v with
    | some .lt => (if isMax then by' else bx, fl)
    | some .gt => (if isMax then bx else by', fl)
    | _ => if u.isZero then (if u.neg == isMax then by' else bx, fl) else (bx, fl)

/-- The encoding of x with the sign bit of y (R236). -/
def fSgn (f : Fmt) (x y : Nat) : Nat :=
  x % 2 ^ (f.width - 1) + y / 2 ^ (f.width - 1) % 2 * 2 ^ (f.width - 1)

/-- FCMP and DCMP: 1 equal, 2 less, 4 greater, 8 unordered (R237). -/
def fCmp (f : Fmt) (m : BitVec 12) (x y : Nat) : Nat × Flags :=
  let u := fRd f m x
  let v := fRd f m y
  (match cmpVal u v with
    | none => 8
    | some .eq => 1
    | some .lt => 2
    | some .gt => 4, flagIf (u.isSig || v.isSig) fNV)

/-- FCLASS (R238). -/
def fClass (f : Fmt) (x : Nat) : Nat :=
  let neg := x / 2 ^ (f.width - 1) % 2 == 1
  match decodeRaw f false x with
  | .nan s => if s then 256 else 512
  | .inf n => if n then 1 else 128
  | .fin _ m _ =>
    if m = 0 then (if neg then 8 else 16)
    else if isSubnormal f x then (if neg then 4 else 32)
    else if neg then 2 else 64

/-- FRFN: one Newton step from divisor a and estimate x (R227, R240). -/
def fRefine (f : Fmt) (m : BitVec 12) (d a x : Nat) : Nat × Flags :=
  let u := fRd f m a
  let v := fRd f m x
  let keep := match u with
    | .inf _ => true
    | .fin _ k _ => k == 0
    | .nan _ => false
  if keep then (dazBits f m x, 0)
  else
    let (p, f1) := mulVal u v
    let (q, f2) := addVal (rmOf m) (.fin false 2 0) p.negate
    let (r, f3) := mulVal v q
    fRound f m d (r, f1 ||| f2 ||| f3)

/-- An integer as a value. -/
def ofInt (z : Int) : Val := ofScaled z 0 false

/-- The source of a conversion by its code: 0 s32, 1 z32, 6 s64, 7 z64, else a format (R134, R239). -/
def cvtSource (code : Nat) (m : BitVec 12) (bits : Nat) : Val :=
  match code with
  | 0 => ofInt (BitVec.ofNat 32 bits).toInt
  | 1 => ofInt ((bits % 2 ^ 32 : Nat) : Int)
  | 6 => ofInt (BitVec.ofNat 64 bits).toInt
  | 7 => ofInt ((bits % 2 ^ 64 : Nat) : Int)
  | c => fRd (fmtOf c) m bits

/-- A conversion to a destination code; an integer result is sign- or zero-extended to 64 bits (R222, R239). -/
def fConvert (dst src : Nat) (m : BitVec 12) (d bits : Nat) : Nat × Flags :=
  let x := cvtSource src m bits
  let toInt (lo hi : Int) : Nat × Flags :=
    let r := packInt false (rmOf m) d lo hi x
    ((BitVec.ofInt 64 r.1).toNat, r.2 ||| flagIf x.isSig fNV)
  match dst with
  | 0 => toInt (-(2 ^ 31)) (2 ^ 31 - 1)
  | 1 => toInt 0 (2 ^ 32 - 1)
  | 6 => toInt (-(2 ^ 63)) (2 ^ 63 - 1)
  | 7 => toInt 0 (2 ^ 64 - 1)
  | c => fRound (fmtOf c) m d (x, 0)

/-- The draw of an instruction that rounds, and the generator after it: taken under RSR only (R219). -/
def drawFor (m : BitVec 12) (seed : Word) : Nat × Word :=
  if rmOf m = 4 then ((draw seed).2, (draw seed).1) else (0, seed)

/-- A memory-side float reduction: 0 add (RNE, no DAZ or FTZ), 1 min, 2 max; a NaN result is the default NaN
(R358). -/
def memFloat (op : Nat) (dbl : Bool) (x y : Nat) : Nat :=
  let f : Fmt := if dbl then .f64 else .f32
  match op with
  | 0 => (fAdd f 0 0 x y).1
  | 1 => (fMinMax false f 0 x y).1
  | _ => (fMinMax true f 0 x y).1

/-- A memory-side integer operation of R142: 0 swap, 1 add, 2 and, 3 or, 4 min, 5 max, 6 minz, 7 maxz, on n bytes. -/
def memInt (op n x y : Nat) : Nat :=
  let w := 8 * n
  let xs := (BitVec.ofNat w x).toInt
  let ys := (BitVec.ofNat w y).toInt
  match op with
  | 0 => y % 2 ^ w
  | 1 => (x + y) % 2 ^ w
  | 2 => x &&& y
  | 3 => x ||| y
  | 4 => if xs ≤ ys then x else y
  | 5 => if ys ≤ xs then x else y
  | 6 => Nat.min x y
  | _ => Nat.max x y

end Sys2Proof.Machine
end

