-- ==== Sys2Proof/Machine/Translate.lean ====
section
/-! DEFINITION. Sys2Proof/Machine/Translate.lean: where an address leads (chapter 12): regions, windows, homes, page
tables, synonyms, and the checks of R278. -/

namespace Sys2Proof.Machine

/-- The cluster of a TID (R21). -/
def clusterOf (tid : Nat) : Nat := tid / 1024 % 64

/-- Whether a TID names a big-core slot (R21). -/
def isBig (tid : Nat) : Bool := tid / 65536 % 2 == 1

/-- The die of a cluster (R12). -/
def dieOf (cluster : Nat) : Nat := 2 * (cluster / 8 / 4) + cluster % 8 / 4

/-- Whether a cluster is F-type (R13). -/
def isF (cluster : Nat) : Bool :=
  (cluster % 8 % 4 == 0 || cluster % 8 % 4 == 3) && (cluster / 8 % 4 == 0 || cluster / 8 % 4 == 3)

/-- Cluster hops between two clusters (R14). -/
def hops (a b : Nat) : Nat :=
  (a % 8 - b % 8) + (b % 8 - a % 8) + ((a / 8 - b / 8) + (b / 8 - a / 8))

/-- The core of a TID: little cores 0-8191 by bits [15:3], the big core of cluster c as 8192 + c (R21, R341). -/
def coreOf (tid : Nat) : Nat := if isBig tid then 8192 + clusterOf tid else tid / 8 % 8192

/-- The tile of a TID: little tiles 0-1023, the big tile of cluster c as 1024 + c (R15, R21). -/
def tileOf (tid : Nat) : Nat := if isBig tid then 1024 + clusterOf tid else tid / 64 % 1024

/-- The cluster of a tile number. -/
def tileCluster (tile : Nat) : Nat := if tile < 1024 then tile / 16 else tile - 1024

/-- The Weir node of a core (R341). -/
def coreNode (core : Nat) : Nat := 256 + core

/-- The memory key of the first byte of a core's local array (R18, R19). -/
def arrayKey (core : Nat) : Nat := 2 ^ 40 + core * 2 ^ 21

/-- The memory key of a host bus address (R429). -/
def hostKey (a : Nat) : Nat := 2 ^ 56 + a

/-- The key of the unit that holds a byte: a 32-byte word of a local array, else a 128-byte line (R414). -/
def poisonUnit (key : Nat) : Nat :=
  if 2 ^ 40 ≤ key ∧ key < 2 ^ 56 then key / 32 * 32 else key / 128 * 128

/-- How an access checks its page (R278): a reduction as an atomic does, but it reads nothing when it executes (R334). -/
inductive Access where
  | read | write | rmw | reduce | fetch
deriving DecidableEq, Repr

/-- A leaf entry's attributes (R275, R276). -/
structure Leaf where
  frame : Nat
  loc : Nat
  irrev : Bool
  aliased : Bool
  sys : Bool
  x : Bool
  w : Bool
  r : Bool
  fmt : Nat
  geom : Nat
  nr : Bool
  tier : Nat
  big : Bool
deriving DecidableEq, Repr

/-- Where a byte of an address space lies, with what its page says of it (R268, R270, R275, R284). -/
structure Loc where
  key : Nat
  line : Line
  node : Nat
  leaf : Option Leaf
  /-- peer device and offset -/
  peer : Option (Nat × Nat)
  /-- canonical ASID -/
  casid : Nat
deriving DecidableEq, Repr

/-- The outcome of a check: a value, a trap with TRVAL and TRVAL2, or a frame in no memory. -/
inductive Chk (α : Type) where
  | ok (a : α)
  | trap (cause : Nat) (val val2 : Word)
  | nomem (pa : Nat)
deriving DecidableEq, Repr

/-- Goes on with a checked value. -/
def Chk.bind {α β : Type} (c : Chk α) (f : α → Chk β) : Chk β :=
  match c with
  | .ok a => f a
  | .trap k v w => .trap k v w
  | .nomem p => .nomem p

/-- Reads a table entry's fields (R275). -/
def leafOf (e : Nat) (big : Bool) : Leaf :=
  { frame := e / 2 ^ 24, loc := e / 256 % 4, irrev := e / 128 % 2 == 1, aliased := e / 64 % 2 == 1,
    sys := e / 32 % 2 == 1, x := e / 8 % 2 == 1, w := e / 4 % 2 == 1, r := e / 2 % 2 == 1,
    fmt := e / 2 ^ 11 % 16, geom := e / 2 ^ 15 % 4, nr := e / 2 ^ 17 % 2 == 1, tier := e / 2 ^ 10 % 2, big := big }

/-- A reserved field or reserved LOC of an entry that is nonzero (R275, R276, R277 reason 1): bits [23:18] always,
TIER, FMT and GEOM of a host or peer page, every field but V, LEAF and PFN in a non-leaf entry. -/
def entryReserved (e : Nat) (leaf : Bool) : Bool :=
  if leaf then e / 2 ^ 18 % 64 != 0 || e / 256 % 4 == 3 || (e / 256 % 4 != 0 && e / 2 ^ 10 % 128 != 0)
  else e / 32 % 2 ^ 19 != 0 || e / 2 % 8 != 0

/-- One level of the walk at a node: the leaf, the next node, or the reason of a walk fault; bad lists the poisoned units,
where an entry meets an uncorrectable error (R274, R277, R414). -/
def walkLevel (m : Memory) (bad : List Nat) (level node idx : Nat) : Sum Nat (Nat × Bool) :=
  let e := Memory.num m (node + 8 * idx) 8
  let leaf := e / 16 % 2 == 1
  if bad.contains (poisonUnit (node + 8 * idx)) then .inl 3
  else if e % 2 = 0 then .inl 0
  else if entryReserved e leaf then .inl 1
  else if (level = 1 && leaf) || (level = 3 && !leaf) then .inl 2
  else .inr (e, leaf)

/-- The walk of a root for an address: the leaf entry, or the level and reason of the fault (R274, R277). -/
def walk (m : Memory) (bad : List Nat) (root : Nat) (va : Nat) : Sum Nat Leaf :=
  match walkLevel m bad 1 root (va / 2 ^ 42 % 1024) with
  | .inl r => .inl (16 + r)
  | .inr (e1, _) =>
    match walkLevel m bad 2 (e1 / 2 ^ 24 * 65536) (va / 2 ^ 29 % 8192) with
    | .inl r => .inl (32 + r)
    | .inr (e2, true) => .inr (leafOf e2 true)
    | .inr (e2, false) =>
      match walkLevel m bad 3 (e2 / 2 ^ 24 * 65536) (va / 2 ^ 16 % 8192) with
      | .inl r => .inl (48 + r)
      | .inr (e3, _) => .inr (leafOf e3 false)

/-- The registration of an alias page in the filter's entries (R280, R284): canonical ASID and address of an alias
address. -/
def aliasIn (l : List (Nat × Nat × Nat × Nat × Nat)) (asid va : Nat) : Option (Nat × Nat) :=
  match l with
  | [] => none
  | (a, p, ca, cp, sh) :: l =>
    if a = asid ∧ va / 2 ^ sh = p / 2 ^ sh then some (ca, cp + va % 2 ^ sh) else aliasIn l asid va

/-- Whether an address is in the canonical page of a registration (R284). -/
def isCanonical (m : Maps) (asid va : Nat) : Bool :=
  m.aliases.any (fun e => e.2.2.1 == asid && va / 2 ^ e.2.2.2.2 == e.2.2.2.1 / 2 ^ e.2.2.2.2)

/-- The present L2 slices of a die in ascending order (R25, R270). -/
def presentSlices (s : State) (die : Nat) : List Nat :=
  (List.range 64).flatMap (fun c =>
    if dieOf c = die ∧ ¬ c ∈ s.boot.absent then [2 * c, 2 * c + 1] else [])

/-- The home slice of a global address in an ASID (R270). -/
def homeSlice (s : State) (asid va : Nat) : Nat :=
  let directed := match Tbl.find s.work.asids asid with
    | some d => d.directed
    | none => false
  let die := if directed then va / 2 ^ 46 % 4 else va / 2 ^ 16 % 4
  let f := (va / 2 ^ 7 % 1024) ^^^ (va / 2 ^ 17 % 1024) ^^^ (va / 2 ^ 27 % 1024) ^^^ (va / 2 ^ 37 % 1024)
  let slices := presentSlices s die
  slices.getD (f % slices.length) 0

/-- The window base addresses (R266). -/
def cluBase : Nat := 0x000FFE0000000000
def ownBase : Nat := 0x000FFF0000000000
def scaleBase : Nat := 0x000E000000000000

/-- The launch of an index. -/
def State.launchAt (s : State) (l : Nat) : Option Launch := s.work.launches[l]?

/-- The level descriptor of a thread's current item (R40, R42); a supervisor slot has no window (R68). -/
def levelOf (s : State) (t : Thread) : Level :=
  match t.launch with
  | none => ⟨0, 0, 0, 0, 0⟩
  | some l => match s.launchAt l with
    | none => ⟨0, 0, 0, 0, 0⟩
    | some r => r.levels.getD t.r.level.toNat ⟨0, 0, 0, 0, 0⟩

/-- The largest own part of a launch, in 16 KiB units (R42). -/
def maxOwn (s : State) (t : Thread) : Nat :=
  match t.launch with
  | none => 0
  | some l => match s.launchAt l with
    | none => 0
    | some r => r.levels.foldl (fun m d => max m d.own) 0

/-- The bytes of the OWN window that a thread reaches (R42, R267). -/
def ownLimit (s : State) (t : Thread) : Nat := (levelOf s t).own * 16384

/-- The bytes of the CLU window that a thread reaches (R42, R267). -/
def cluLimit (s : State) (t : Thread) : Nat := (levelOf s t).clu * 2097152

/-- The place of an OWN offset; the threads of a core share its part, the native threads of a big core too (R42, R342; log
27: DESIGN CHOICE, unsafe). -/
def ownLoc (t : Thread) (o : Nat) : Loc :=
  { key := arrayKey (coreOf t.tid) + o, line := .own (coreOf t.tid) (o / 128), node := coreNode (coreOf t.tid),
    leaf := none, peer := none, casid := t.asid }

/-- The place of a CLU offset (R268, R342). -/
def cluLoc (s : State) (t : Thread) (o : Nat) : Loc :=
  let c := o / 128 % 128
  let share := o / 16384 * 128 + o % 128
  { key := arrayKey (clusterOf t.tid * 128 + c) + 16384 * maxOwn s t + share,
    line := .clu (clusterOf t.tid) (o / 128), node := 128 + clusterOf t.tid, leaf := none, peer := none,
    casid := t.asid }

/-- The page size of a leaf (R274). -/
def leafBytes (l : Leaf) : Nat := if l.big then 2 ^ 29 else 2 ^ 16

/-- The memory key of an address under a leaf: device, host or peer memory (R273, R275). -/
def leafKey (l : Leaf) (va : Nat) : Nat :=
  let pa := l.frame * 65536 + va % leafBytes l
  match l.loc with
  | 0 => pa
  | 1 => hostKey pa
  | _ => 2 ^ 60 + pa

/-- Whether a page's accesses are irrevocable (R276). -/
def isIrrev (s : State) (l : Leaf) : Bool :=
  l.irrev || l.loc == 2 || (l.loc == 1 && l.sys && !s.links.cxl)

/-- Whether a device physical address lies in near or far memory (R273). -/
def deviceBacked (pa : Nat) : Bool := pa < 0x400000000 || (0x4000000000 ≤ pa && pa < 0x10000000000)

/-- Translates a global address of an ASID (R277, R284, R285): checks 4 and 6 of R278 around the rights of check 5. -/
def translate (s : State) (asid va : Nat) (k : Access) : Chk Loc :=
  let reg := aliasIn s.maps.aliases asid va
  let (ca, cva) := reg.getD (asid, va)
  match Tbl.find s.work.asids ca with
  | none => .trap 0x04 (BitVec.ofNat 64 va) 16
  | some d =>
    match walk s.mem s.poison d.root cva with
    | .inl r => .trap 0x04 (BitVec.ofNat 64 va) (BitVec.ofNat 64 r)
    | .inr l =>
      let rights := match k with
        | .read => l.r
        | .write => l.w
        | .rmw | .reduce => l.r && l.w
        | .fetch => l.x && !isIrrev s l
      if !rights then .trap 0x05 (BitVec.ofNat 64 va) (if k = .fetch then 0 else 3)
      else if l.aliased && reg.isNone && !isCanonical s.maps ca cva then .trap 0x07 (BitVec.ofNat 64 va) 0
      else if l.loc == 0 && !deviceBacked (leafKey l cva) then .nomem (leafKey l cva)
      else
        let pa := l.frame * 65536 + cva % leafBytes l
        .ok { key := leafKey l cva, line := .glob ca (cva / 128), node := homeSlice s ca cva, leaf := some l,
              peer := if l.loc == 2 then some (pa / 2 ^ 48, pa % 2 ^ 48) else none, casid := ca }

/-- Checks 1-6 of R278 on one access of a thread: alignment, implemented bits, window limits, walk, rights, alias.
align = 1 where the instruction allows any address. -/
def resolve (s : State) (t : Thread) (va : Word) (align : Nat) (k : Access) : Chk Loc :=
  let a := va.toNat
  if a % align ≠ 0 then .trap 0x06 va 0
  else if a / 2 ^ 52 ≠ 0 then .trap 0x05 va 1
  else if ownBase ≤ a then
    if a - ownBase < ownLimit s t then .ok (ownLoc t (a - ownBase)) else .trap 0x05 va 2
  else if cluBase ≤ a then
    if a - cluBase < cluLimit s t then .ok (cluLoc s t (a - cluBase)) else .trap 0x05 va 2
  else translate s t.asid a k

/-- Whether a place is in a window (R267). -/
def Loc.window (l : Loc) : Bool := l.leaf.isNone

/-- Whether an access to a place is irrevocable (R276, R278). -/
def Loc.irrev (s : State) (l : Loc) : Bool :=
  match l.leaf with
  | none => false
  | some f => isIrrev s f

/-- Whether a place is poisoned, for n bytes (R415). -/
def poisoned (s : State) (l : Loc) (n : Nat) : Bool :=
  s.poison.contains (poisonUnit l.key) || s.poison.contains (poisonUnit (l.key + (n - 1)))

end Sys2Proof.Machine
end

