-- ==== Sys2Proof/Machine/Operands.lean ====
section
/-! DEFINITION. Sys2Proof/Machine/Operands.lean: reading and writing the registers of a thread: fixed values (R100,
R101), fixed latencies and early reads (R156-R160), pending scoreboarded writes (R158). -/

namespace Sys2Proof.Machine

/-- The value that a reader at a cycle sees in a register with a fixed-latency result on the way: the result of the
latest write that has become available (R160). none: the register's own value. -/
def staleOld (l : List Stale) (now : Nat) (reg : Reg) : Option Vec :=
  match l with
  | [] => none
  | e :: l =>
    if e.reg = reg ∧ now < e.due then some ((staleOld l now reg).getD e.old) else staleOld l now reg

/-- The cycles by which a read of a register comes early: until its latest fixed-latency write is available
(R159). -/
def earlyBy (l : List Stale) (now : Nat) (reg : Reg) : Nat :=
  match l with
  | [] => 0
  | e :: l => if e.reg = reg then e.due - now else earlyBy l now reg

/-- The first register of a list that would be read early, with the cycles (R159; log 16: DEDUCED,
unsafe). -/
def firstEarly (l : List Stale) (now : Nat) : List Reg → Option (Reg × Nat)
  | [] => none
  | r :: rs => if earlyBy l now r = 0 then firstEarly l now rs else some (r, earlyBy l now r)

/-- kind * 32 + number of R159. -/
def Reg.code : Reg → Nat
  | .g n => n.val
  | .p n => 32 + n.val
  | .v n => 64 + n.val
  | .e n => 96 + n.val

/-- g[n] as an instruction that issues in this cycle reads it; g0 reads 0 (R100). -/
def State.rg (s : State) (n : Fin 32) : Word :=
  if n = 0 then 0 else
    match staleOld s.cur.stale s.cycle (.g n) with
    | none => s.cur.r.g[n]
    | some x => x.setWidth 64

/-- p[n] as read; p0 reads 0xFFFF (R100). -/
def State.rp (s : State) (n : Fin 8) : Pred :=
  if n = 0 then 0xFFFF else
    match staleOld s.cur.stale s.cycle (.p n) with
    | none => s.cur.r.p[n]
    | some x => x.setWidth 16

/-- v[n] as read. -/
def State.rv (s : State) (n : Fin 32) : Vec :=
  match staleOld s.cur.stale s.cycle (.v n) with
  | none => s.cur.r.v[n]
  | some x => x

/-- e[n] as read. -/
def State.re (s : State) (n : Fin 8) : Word :=
  match staleOld s.cur.stale s.cycle (.e n) with
  | none => s.cur.r.e[n]
  | some x => x.setWidth 64

/-- Records that a register keeps its old value for readers until a fixed latency has passed. A big core interlocks
every result (R163), so nothing is recorded there. -/
def Thread.mark (t : Thread) (now lat : Nat) (reg : Reg) (old : Vec) : Thread :=
  if isBig t.tid then t
  else { t with stale := ⟨reg, old, now + lat, t.ex.gen⟩ :: t.stale.filter (fun e => now < e.due) }

/-- The thread with other registers. -/
def Thread.setR (t : Thread) (r : Regs) : Thread := { t with r := r }

/-- Writes g[n] with a fixed latency; a write of g0 is discarded (R101). -/
def Thread.putG (t : Thread) (now lat : Nat) (n : Fin 32) (x : Word) : Thread :=
  if n = 0 then t
  else (t.mark now lat (.g n) (t.r.g[n].setWidth 512)).setR { t.r with g := t.r.g.set n x }

/-- Writes p[n] with a fixed latency; a write of p0 is discarded (R101). -/
def Thread.putP (t : Thread) (now lat : Nat) (n : Fin 8) (x : Pred) : Thread :=
  if n = 0 then t
  else (t.mark now lat (.p n) (t.r.p[n].setWidth 512)).setR { t.r with p := t.r.p.set n x }

/-- Writes v[n] with a fixed latency. -/
def Thread.putV (t : Thread) (now lat : Nat) (n : Fin 32) (x : Vec) : Thread :=
  (t.mark now lat (.v n) t.r.v[n]).setR { t.r with v := t.r.v.set n x }

/-- Writes e[n] with a fixed latency. -/
def Thread.putE (t : Thread) (now lat : Nat) (n : Fin 8) (x : Word) : Thread :=
  (t.mark now lat (.e n) (t.r.e[n].setWidth 512)).setR { t.r with e := t.r.e.set n x }

/-- Marks a register busy until its scoreboarded result is written, from a cycle on (R158). -/
def Thread.holdFrom (t : Thread) (reg : Reg) (why : BusyBy) (since : Nat) : Thread :=
  { t with busy := t.busy ++ [⟨reg, why, t.ex.gen, since⟩], stale := t.stale.filter (fun e => e.reg ≠ reg) }

/-- Marks a register busy with a result that has no stated latency (R157, R158). -/
def Thread.hold (t : Thread) (reg : Reg) (why : BusyBy) : Thread := t.holdFrom reg why 0

/-- Writes g[n] as a scoreboarded result: readers are held until the device step that ends the wait (R156, R158). -/
def Thread.loadG (t : Thread) (n : Fin 32) (x : Word) (why : BusyBy) : Thread :=
  if n = 0 then t else (t.hold (.g n) why).setR { t.r with g := t.r.g.set n x }

/-- Writes g[n] as the result of a division, which comes 20 to 36 cycles after its issue (R157). -/
def Thread.divG (t : Thread) (now : Nat) (n : Fin 32) (x : Word) : Thread :=
  if n = 0 then t else (t.holdFrom (.g n) .div now).setR { t.r with g := t.r.g.set n x }

/-- A scoreboarded write of a register lands: the reason is gone, and readers are ready in the next cycle (R156). -/
def Thread.land (t : Thread) (now : Nat) (b : Busy) : Thread :=
  { t with busy := t.busy.erase b, landed := (b.reg, now) :: t.landed.filter (fun e => e.2 = now) }

/-- Writes p[n] as a scoreboarded result. -/
def Thread.loadP (t : Thread) (n : Fin 8) (x : Pred) (why : BusyBy) : Thread :=
  if n = 0 then t else (t.hold (.p n) why).setR { t.r with p := t.r.p.set n x }

/-- Writes v[n] as a scoreboarded result. -/
def Thread.loadV (t : Thread) (n : Fin 32) (x : Vec) (why : BusyBy) : Thread :=
  (t.hold (.v n) why).setR { t.r with v := t.r.v.set n x }

/-- Writes e[n] as a scoreboarded result. -/
def Thread.loadE (t : Thread) (n : Fin 8) (x : Word) (why : BusyBy) : Thread :=
  (t.hold (.e n) why).setR { t.r with e := t.r.e.set n x }

/-- The thread with its program counter set. -/
def Thread.jump (t : Thread) (pc : Word) : Thread := t.setR { t.r with pc := pc }

/-- ORs flags into FFLAGS (R106). -/
def Thread.raise (t : Thread) (f : Flags) : Thread := t.setR { t.r with fflags := t.r.fflags ||| f }

/-- Advances the generator by draws already computed (R219). -/
def Thread.seedTo (t : Thread) (x : Word) : Thread := t.setR { t.r with srseed := x }

/-- The state with another issuing thread. -/
def State.withCur (s : State) (t : Thread) : State := { s with cur := t }

/-- All threads of the module. -/
def State.threads (s : State) : List Thread := s.cur :: s.others

/-- The thread of a TID. -/
def State.thread (s : State) (tid : Nat) : Option Thread := s.threads.find? (fun t => t.tid == tid)

/-- The state with a thread replaced. -/
def State.setThread (s : State) (t : Thread) : State :=
  if s.cur.tid = t.tid then { s with cur := t }
  else { s with others := s.others.map (fun u => if u.tid = t.tid then t else u) }

/-- The state with every thread changed. -/
def State.mapThreads (s : State) (f : Thread → Thread) : State :=
  { s with cur := f s.cur, others := s.others.map f }

end Sys2Proof.Machine
end

