-- ==== Sys2Proof/Machine/Flags.lean ====
section
/-! DEFINITION. Sys2Proof/Machine/Flags.lean: integer conditions, the composite CSRs and the join of element flags
(R105, R106, R133, R223, R224). -/

namespace Sys2Proof.Machine

/-- The integer conditions of CMP and CMPI: 0 eq, 1 ne, 2 lt, 3 ge, 4 lo, 5 hs, 6 tst, 7 ntst (R133, R196). -/
def condHolds {w : Nat} (cond : Nat) (x y : BitVec w) : Bool :=
  match cond with
  | 0 => x == y
  | 1 => x != y
  | 2 => x.slt y
  | 3 => !x.slt y
  | 4 => x.ult y
  | 5 => !x.ult y
  | 6 => (x &&& y) != 0
  | _ => (x &&& y) == 0

/-- The flags of a list of elements joined (R223). -/
def joinFlags (l : List Flags) : Flags := l.foldl (fun a b => a ||| b) 0

/-- The mask of the elements that raised an enabled flag, element i as bit i (R224). -/
def enabledMask (en : Flags) (l : List Flags) : Nat :=
  packLanes 1 (fun i => bitOf ((l.getD i 0) &&& en != 0)) l.length

/-- CHCTL as read: pin and chmin (R106). -/
def chctlOf (r : Regs) : Word := BitVec.ofNat 64 (r.pin.toNat * 65536 + r.chmin.toNat)

/-- CHSTAT as read: run and cause (R106). -/
def chstatOf (t : Thread) : Word := BitVec.ofNat 64 (t.chrun.toNat * 65536 + t.chcause.toNat)

/-- Word 0 of a trap record (R384). -/
def recWord0 (r : Rec) : Word :=
  BitVec.ofNat 64 (bitOf r.paired * 2 ^ 38 + bitOf r.fatal * 2 ^ 37 + bitOf r.nopark * 2 ^ 36 +
    bitOf r.copy * 2 ^ 35 + bitOf r.shipped * 2 ^ 34 + bitOf r.late * 2 ^ 33 + r.tid % 2 ^ 17 * 2 ^ 16 +
    bitOf r.laneH * 2 ^ 8 + r.cause % 256)

/-- Word 5 of a trap record: the executing big core of a shipped fault (R384). -/
def recWord5 (r : Rec) : Word :=
  match r.xclu with
  | none => 0
  | some c => BitVec.ofNat 64 (128 + bitOf (isF c) * 64 + c % 64)

/-- The eight words of a trap record (R384). -/
def recWords (r : Rec) : List Word :=
  [recWord0 r, r.pc, r.val, r.val2, BitVec.ofNat 64 (bitsOf r.cseq 16 48 * 65536 + r.asid % 1024), recWord5 r,
   BitVec.ofNat 64 r.stamp, 0]

end Sys2Proof.Machine
end

