-- ==== Sys2Proof/Machine/Work.lean ====
section
/-! DEFINITION. Sys2Proof/Machine/Work.lean: items, groups, hints and the hand-off of spawned work (R43-R50, R74,
R79-R81, R87, R371). -/

namespace Sys2Proof.Machine

/-- Word 0 of an item. -/
def Item.w0 (i : Item) : Word := i.words.headD 0

/-- Word k of an item. -/
def Item.word (i : Item) (k : Nat) : Word := i.words.getD k 0

/-- Index within the group (R47). -/
def Item.gidx (i : Item) : Nat := bitsOf i.w0 48 16

/-- Whether the item is ordered (R47). -/
def Item.ordered (i : Item) : Bool := bitsOf i.w0 46 2 == 1

/-- Level of an item (R47). -/
def Item.level (i : Item) : Nat := bitsOf i.w0 32 3

/-- Priority of an item (R47). -/
def Item.prio (i : Item) : Nat := bitsOf i.w0 35 2

/-- ITEM of a plain item: group id and index (R50). -/
def Item.id (i : Item) : Word := BitVec.ofNat 64 (i.group * 65536 + i.gidx)

/-- The template's words with class and index set (R46, R48). -/
def copyWords (ws : List Word) (ordered : Bool) (k : Nat) : List Word :=
  match ws with
  | [] => []
  | w :: rest => BitVec.ofNat 64 (bitsOf w 0 46 + bitOf ordered * 2 ^ 46 + k % 65536 * 2 ^ 48) :: rest

/-- The physical cluster of an item's hint, where the hint is valid (R48, R70, R81). -/
def hintCluster (l : Launch) (i : Item) : Option Nat :=
  let hrad := bitsOf i.w0 37 3
  let hx := bitsOf i.w0 40 3
  let hy := bitsOf i.w0 43 3
  if hrad ≤ 6 ∧ hx ≤ l.gw ∧ hy ≤ l.gh then l.map[hy * (l.gw + 1) + hx]? else none

/-- The level descriptor of an item's level. -/
def Launch.levelAt (l : Launch) (n : Nat) : Level := l.levels.getD n ⟨0, 0, 0, 0, 0⟩

/-- The launches with one replaced. -/
def setAt {α : Type} (l : List α) (i : Nat) (x : α) : List α := l.set i x

/-- The state with one launch changed. -/
def State.mapLaunch (s : State) (l : Nat) (f : Launch → Launch) : State :=
  match s.launchAt l with
  | none => s
  | some r => { s with work := { s.work with launches := setAt s.work.launches l (f r) } }

/-- The launch of a thread changed. -/
def State.mapOwnLaunch (s : State) (t : Thread) (f : Launch → Launch) : State :=
  match t.launch with
  | none => s
  | some l => s.mapLaunch l f

/-- Agents of gang admission: the Shoe of a cluster, the coordinator of a die, the command processor (R79). -/
def agentFor (dom cluster : Nat) : Nat := if dom ≤ 3 then cluster else if dom = 4 then 64 + dieOf cluster else 68

/-- Sends an item towards a Shoe: on a walk if its hint is valid, else to the Shoe of the cluster (R74, R81). -/
def sendItem (s : State) (l : Launch) (c : Nat) (i : Item) : State :=
  match hintCluster l i with
  | some h => { s with work := { s.work with walking := s.work.walking ++ [⟨h, c, i, s.cycle⟩] } }
  | none => { s with work := { s.work with arriving := s.work.arriving ++ [(c, i)] } }

/-- Sends an ordered item to its Sluice (R87). -/
def offerTask (s : State) (l : Launch) (c : Nat) (i : Item) : State :=
  let die := dieOf ((hintCluster l i).getD c)
  { s with work := { s.work with offered := s.work.offered ++ [(die, i)] } }

/-- Forms a gang group at its agent (R43, R79, R80): a spawned group at the level of its template, an initial one at level 0,
whatever level its items carry, and where they carry different hints at the hint of the first of them (R71; log 28: DESIGN
CHOICE, unsafe). -/
def formGang (s : State) (l : Launch) (idx c group level : Nat) (items : List Item) : State :=
  match items with
  | [] => s
  | i :: _ =>
    let c := (hintCluster l i).getD c
    let g : Gang := { launch := idx, group := group, level := level, items := items,
                      agent := agentFor (l.levelAt level).dom c, inst := none, reserved := [] }
    { s with work := { s.work with gangs := s.work.gangs ++ [g] } }

/-- The hand-off of SPAWN or OSPAWN at its chunk's point: the group is formed and its items leave (R46, R371). -/
def handSpawn (s : State) (tid : Nat) (idx : Nat) (ordered : Bool) (words : List Word) (n v : Nat) : State :=
  match s.launchAt idx with
  | none => s
  | some l =>
    let group := l.nextGroup
    let items := (List.range n).map (fun k =>
      { launch := idx, group := group, words := copyWords words ordered k, cont := false, arrival := 0,
        since := s.cycle, moves := 0, aged := 0, v := v : Item })
    let s := s.mapLaunch idx (fun r => { r with nextGroup := r.nextGroup + 1 })
    let c := clusterOf tid
    if ordered then items.foldl (fun s i => offerTask s l c i) s
    else
      match items with
      | [] => s
      | i :: _ =>
        if (l.levelAt i.level).bscope ≠ 0 then formGang s l idx c group i.level items
        else items.foldl (fun s i => sendItem s l c i) s

/-- The TID under which the module knows a slot whose work is in the image of a vacated tile (R350, R412; log 11: DESIGN
CHOICE, unsafe). -/
def awayTid (gen tid : Nat) : Nat := tid + 2 ^ 20 * (gen + 1)

/-- A change of a thread, be it in a slot or in the image of a vacated tile. -/
def State.mapAny (s : State) (tid : Nat) (f : Thread → Thread) : State :=
  match s.thread tid with
  | some t => s.setThread (f t)
  | none => { s with freeze := { s.freeze with images := s.freeze.images.map (fun i =>
      { i with threads := i.threads.map (fun t => if t.tid = tid then f t else t) }) } }

/-- Whether a tile's core takes packets: its clock runs and no image is being loaded (R395, R404). -/
def tileTakes (s : State) (tile : Nat) : Bool :=
  match Tbl.find s.freeze.tiles tile with
  | none => true
  | some x => x.state == .running && x.loading.isNone

/-- The largest n such that every copy up to n is finished (R288). -/
def advanceDone (fin : List Nat) : Nat → Nat → Nat
  | 0, n => n
  | fuel + 1, n => if fin.contains (n + 1) then advanceDone fin fuel (n + 1) else n

/-- A slot learns that a copy of its has finished: its completed number, its failures, and the end of a COPYW (R288,
R308, R339). -/
def finishCopy (t : Thread) (seq : Nat) (failed : Bool) (v : Nat) : Thread :=
  let fin := insertAsc seq t.copyFinished
  let done := advanceDone fin fin.length t.copyDone
  { t with copyFinished := fin.filter (fun n => done < n), copyDone := done, lastV := max t.lastV v
           copyFailed := if failed then t.copyFailed ++ [seq] else t.copyFailed
           wait := match t.wait with
             | .copyw n => if n ≤ done then .none else .copyw n
             | w => w }

/-- A barrier releases a member whose pending arrival is the completed phase (R339, R365, R366). -/
def releaseWait (t : Thread) (bar phase v : Nat) : Thread :=
  if t.pending = some (bar, phase) then
    { t with wait := if t.wait = .barrier bar phase then .none else t.wait, pending := none, lastV := max t.lastV v }
  else t

/-- A copy notice or barrier release reaches its core. -/
def landPacket (s : State) (p : Packet) : State :=
  match p with
  | .copy tid ends v => s.mapAny tid (fun t => ends.foldl (fun t e => finishCopy t e.1 e.2 v) t)
  | .release tid bar phase v => s.mapAny tid (fun t => releaseWait t bar phase v)
  | _ => s

/-- Sends a packet to a core; the shell of a tile that does not take it holds it (R404). -/
def sendPacket (s : State) (tile : Nat) (p : Packet) : State :=
  if tileTakes s tile then landPacket s p
  else match Tbl.find s.freeze.tiles tile with
    | none => s
    | some x => { s with freeze := { s.freeze with tiles := Tbl.put s.freeze.tiles tile { x with held := x.held ++ [p] } } }

/-- The sides of a copy that lie in a window, as ranges (R289). -/
def copyRanges (c : CopyCmd) : List Range :=
  let side (base stride : Word) (dest : Bool) : List Range :=
    if cluBase ≤ base.toNat then
      [{ tid := c.tid, seq := c.seq, base := base, dest := dest,
         stop := base + BitVec.ofNat 64 ((c.rows - 1) * stride.toNat + c.len) }]
    else []
  side c.dst c.dstride true ++ (if c.fill then [] else side c.src c.sstride false)

/-- A Hoist with nothing to do. -/
def Hoist.fresh : Hoist := { queue := [], channels := [], ranges := [], records := [] }

/-- The Hoist of a cluster. -/
def State.hoist (s : State) (c : Nat) : Hoist := Tbl.at s.hoists c Hoist.fresh

/-- The hand-off of COPY or ZFILL to the Hoist of the issuing cluster: its ranges enter the scoreboards where they have
room; a copy of no bytes finishes at once (R287, R289, R306, R307). -/
def handCopy (s : State) (c : CopyCmd) (v : Nat) : State :=
  let k := clusterOf c.tid
  let h := s.hoist k
  if c.len = 0 then sendPacket s (tileOf c.tid) (.copy c.tid [(c.seq, false)] v)
  else
    let rs := copyRanges c
    { s with hoists := Tbl.put s.hoists k { h with
        queue := h.queue ++ [{ c with cv := v, v := v }]
        ranges := if h.ranges.length + rs.length ≤ 16 then h.ranges ++ rs else h.ranges } }

/-- The task with an id of a launch changed. -/
def State.mapTask (s : State) (key : Nat × Nat) (f : Task → Task) : State :=
  { s with work := { s.work with
      tasks := s.work.tasks.map (fun t => if t.launch = key.1 ∧ t.id = key.2 then f t else t) } }

/-- The ordered task of a launch with an id. -/
def State.task (s : State) (key : Nat × Nat) : Option Task :=
  s.work.tasks.find? (fun t => t.launch == key.1 && t.id == key.2)

/-- The FINISHED tasks of a slot whose chunks have not committed (R88). -/
def Thread.openTasks (t : Thread) : List (Nat × Nat) :=
  (t.com.bind Chunk.task).toList ++ t.fins.filterMap Chunk.task

/-- A thread with nothing of an instruction stream left: no result on the way, no stop and no trap in hand. -/
def Thread.still (t : Thread) : Thread :=
  { t with stale := [], busy := [], landed := [], wait := .none, stepOwed := none, stopAt := none, owed := none }

/-- A thread's slot put back on its Shoe's list, with nothing executing (R72). -/
def Thread.toWaiting (t : Thread) : Thread :=
  { t.still with place := .waiting, trail := none, ex := { Chunk.empty t.r with gen := t.ex.gen }, ordered := false,
                 irrev := false, gang := none, pending := none, stepping := false, stepFlag := false, mustPin := false,
                 mustSerial := false }

end Sys2Proof.Machine
end

