-- ==== Sys2Proof/Machine/Place.lean ====
section
/-! DEFINITION. Sys2Proof/Machine/Place.lean: what a launch may hold and how much of it a gang can use (R45, R63,
R66), barriers (R365, R366), and the retirement of items (R53, R369). -/

namespace Sys2Proof.Machine

/-- The present clusters in ascending order (R25). -/
def presentClusters (s : State) : List Nat := (List.range 64).filter (fun c => !s.boot.absent.contains c)

/-- The partition of a function: with partitioning off, every present cluster belongs to the physical function
(R63). -/
def partitionOf (s : State) (fn : Nat) : Option Partition :=
  if s.parts.isEmpty then (if fn = 0 then some { fn := 0, clusters := presentClusters s, tiles := [] } else none)
  else s.parts.find? (fun p => p.fn == fn)

/-- The clusters that a function's partition holds whole. -/
def wholeClusters (s : State) (fn : Nat) : List Nat :=
  match partitionOf s fn with
  | none => []
  | some p => (presentClusters s).filter (fun c => p.clusters.contains c)

/-- The little tiles that a launch may hold: those of whole clusters, and with noclu those of split clusters too
(R66). -/
def littleTiles (s : State) (fn : Nat) (noclu : Bool) : List Nat :=
  let whole := wholeClusters s fn
  let extra := match partitionOf s fn with
    | none => []
    | some p => if noclu then p.tiles.filter (fun t => !whole.contains (tileCluster t)) else []
  whole.flatMap (fun c => (List.range 16).map (fun k => 16 * c + k)) ++ extra

/-- The cluster of a die's supervisor slot (R104). -/
def superCluster (die : Nat) : Nat := clusterOf (superTid die)

/-- Big native slots of a cluster that a launch may hold: four, less the supervisor slot (R45). -/
def bigSlots (c : Nat) : Nat := if c = superCluster (dieOf c) then 3 else 4

/-- Sum and maximum of a list. -/
def sumOf (l : List Nat) : Nat := l.foldl (fun a b => a + b) 0
def maxOf (l : List Nat) : Nat := l.foldl Nat.max 0

/-- Minimum of a list. -/
def minOf (l : List Nat) : Nat :=
  match l with
  | [] => 0
  | x :: l => l.foldl Nat.min x

/-- Slots that place allows of n little slots and b big ones (R40). -/
def placeSlots (place n b : Nat) : Nat :=
  match place with
  | 0 => n
  | 1 => b
  | _ => n + b

/-- The gang capacity of a level (R45): the largest core, tile, cluster or module instance, the smallest die on which
the partition holds any tile; halved under paired execution. -/
def gangCapacity (s : State) (l : Launch) (d : Level) : Nat :=
  let whole := wholeClusters s l.fn
  let tiles := littleTiles s l.fn l.noclu
  let anyLittle := if tiles.isEmpty then 0 else 1
  let bestBig := maxOf (whole.map bigSlots)
  let one (k : Nat) : Nat :=
    match d.place with
    | 0 => anyLittle * k
    | 1 => bestBig
    | _ => Nat.max (anyLittle * k) bestBig
  let within (f : Nat → Bool) : Nat :=
    placeSlots d.place (64 * (tiles.filter (fun t => f (tileCluster t))).length) (sumOf ((whole.filter f).map bigSlots))
  let cap := match d.dom with
    | 1 => one 8
    | 2 => one 64
    | 3 => maxOf ((presentClusters s).map (fun c => within (fun x => x == c)))
    | 4 => minOf (((List.range 4).filter (fun k =>
        (littleTiles s l.fn true).any (fun t => dieOf (tileCluster t) == k))).map
        (fun k => within (fun x => dieOf x == k)))
    | 5 => within (fun _ => true)
    | _ => 1
  if l.paired then cap / 2 else cap

/-- The instance of a domain in which a slot lies: core, tile, cluster, die, module (R40). -/
def instanceOf (dom tid : Nat) : Nat :=
  match dom with
  | 1 => coreOf tid
  | 2 => tileOf tid
  | 3 => clusterOf tid
  | 4 => dieOf (clusterOf tid)
  | 5 => 0
  | _ => tid

/-- Whether a slot holds an item: it runs, or is parked (R72). -/
def Thread.resident (t : Thread) : Bool := t.place == .run || t.place == .parked

/-- The key of the barrier that a thread's item meets at its level: its group, whatever the level (log 28: DESIGN CHOICE,
unsafe), or its domain instance, which it keeps where it migrates (R366, R411). -/
def barrierKey (s : State) (t : Thread) : Nat :=
  let d := levelOf s t
  if d.bscope = 1 then 2 * t.item0.group + 1 else 2 * (8 * instanceOf d.dom t.admitted + t.r.level.toNat)

/-- Whether a barrier is one of a group. -/
def Barrier.ofGroup (b : Barrier) : Bool := b.key % 2 == 1

/-- The group of the item that a slot holds or is loading. -/
def Thread.group (t : Thread) : Option Nat :=
  match t.place with
  | .run | .parked => some t.item0.group
  | .loading i _ => some i.group
  | _ => none

/-- The threads of the module, those in the images of vacated tiles among them, each under the TID by which the module
knows it (R409). -/
def everyThread (s : State) : List Thread := s.threads ++ s.freeze.images.flatMap Image.threads

/-- Whether a member of a group has no slot now: it stands with an agent, on the way or in the overflow area, or has not been
delivered yet (R44, R46, R74). -/
def unplaced (s : State) (idx group : Nat) : Bool :=
  let mine (i : Item) : Bool := i.launch == idx && i.group == group
  let w := s.work
  w.shoes.any (fun e => e.2.items.any mine) || w.arriving.any (fun e => mine e.2) || w.walking.any (fun e => mine e.item) ||
  w.batches.any (fun e => e.items.any mine) || w.gangs.any (fun g => g.items.any mine) || w.offered.any (fun e => mine e.2) ||
  w.tasks.any (fun k => mine k.item && k.tid.isNone && k.state != .finished) ||
  (match s.launchAt idx with
    | none => false
    | some l => l.spilled.any (fun e => mine e.2) ||
        decide (l.delivered < l.nitems ∧ l.delivered / 65536 ≤ group ∧ group ≤ (l.nitems - 1) / 65536))

/-- The items that a barrier of a domain instance waits for where its phase is opened now: those of its level resident in the
instance (R366). -/
def residentsOf (s : State) (b : Barrier) : List Nat :=
  ((everyThread s).filter (fun u => u.launch == some b.launch && u.resident && barrierKey s u == b.key)).map Thread.tid

/-- The place of a barrier in the list, added where it is new. -/
def barrierAt (s : State) (launch key : Nat) : State × Nat :=
  match s.work.barriers.findIdx? (fun b => b.launch == launch && b.key == key) with
  | some k => (s, k)
  | none =>
    let b : Barrier := { launch := launch, key := key, phase := 0, parts := none, arrived := [], late := [], v := 0, lateV := 0 }
    ({ s with work := { s.work with barriers := s.work.barriers ++ [b] } }, s.work.barriers.length)

/-- The state with one barrier changed. -/
def State.mapBarrier (s : State) (k : Nat) (f : Barrier → Barrier) : State :=
  match s.work.barriers[k]? with
  | none => s
  | some b => { s with work := { s.work with barriers := s.work.barriers.set k (f b) } }

/-- Whether a phase of a barrier has completed. -/
def phaseDone (s : State) (k phase : Nat) : Bool :=
  match s.work.barriers[k]? with
  | none => true
  | some b => decide (phase < b.phase)

/-- An arrival, by a chunk whose v is given, at the open phase of a barrier; of a domain instance the first arrival fixes the
participants, and an item placed later arrives at the next phase (R366). The answer has the phase. -/
def Barrier.arrive (b : Barrier) (residents : List Nat) (tid v : Nat) : Barrier × Nat :=
  if b.ofGroup || (b.parts.getD residents).contains tid then
    ({ b with parts := some (b.parts.getD residents), arrived := addOnce tid b.arrived, v := max b.v v }, b.phase)
  else ({ b with late := addOnce tid b.late, lateV := max b.lateV v }, b.phase + 1)

/-- A thread arrives at the barrier of its item's level: the phase is its pending one (R365, R366). -/
def arriveAt (s : State) (tid v : Nat) : State :=
  match s.thread tid with
  | none => s
  | some t =>
    let (s, k) := barrierAt s (t.launch.getD 0) (barrierKey s t)
    match s.work.barriers[k]? with
    | none => s
    | some b =>
      let r := b.arrive (residentsOf s b) tid v
      (s.mapBarrier k (fun _ => r.1)).setThread { t with pending := some (k, r.2) }

/-- The pending phase of a thread that has not completed yet, if any (R365). -/
def openPhase (s : State) (t : Thread) : Option (Nat × Nat) := t.pending.filter (fun p => !phaseDone s p.1 p.2)

/-- Whether every participant of a barrier's open phase has arrived: of a group every member that has not retired, wherever it
is (R44, R366). -/
def barrierFull (s : State) (b : Barrier) : Bool :=
  if b.ofGroup then
    !b.arrived.isEmpty && !unplaced s b.launch (b.key / 2) &&
    (everyThread s).all (fun t => t.launch != some b.launch || t.group != some (b.key / 2) || b.arrived.contains t.tid)
  else b.parts.any (fun l => l.all (fun t => b.arrived.contains t))

/-- The next phase of a barrier: open already where arrivals wait for it (R366). -/
def Barrier.next (b : Barrier) (residents : List Nat) : Barrier :=
  { b with phase := b.phase + 1, parts := if b.late.isEmpty then none else some residents, arrived := b.late, v := b.lateV
           late := [], lateV := 0 }

/-- The release of a full barrier: the phase completes, and every arrived member learns of it, a waiter going on
(R339, R341, R366). -/
def releaseBarrier (s : State) (k : Nat) : State :=
  match s.work.barriers[k]? with
  | none => s
  | some b =>
    if barrierFull s b then
      b.arrived.foldl (fun s tid => sendPacket s (tileOf tid) (.release tid k b.phase b.v))
        (s.mapBarrier k (fun b => b.next (residentsOf s b)))
    else s

/-- A member that retires counts as arrived at every phase: no phase waits for its slot any more (R366, R369). -/
def leaveBarriers (s : State) (tid : Nat) : State :=
  let rest (l : List Nat) : List Nat := l.filter (fun x => x != tid)
  { s with work := { s.work with barriers := s.work.barriers.map (fun b =>
      { b with parts := b.parts.map rest, arrived := rest b.arrived, late := rest b.late }) } }

/-- The memory with a number added to n bytes at a key. -/
def addNum (m : Memory) (key n x : Nat) : Memory := Memory.setNum m key n ((Memory.num m key n + x) % 2 ^ (8 * n))

/-- The port by which an access of a thread leaves for a device; none: no route to it (R432). -/
def portOf (s : State) (tid dev : Nat) : Option Nat :=
  match Tbl.find s.links.routes dev with
  | none => none
  | some ports => ports[Config.portHash tid dev % ports.length]?

/-- An access leaves for a peer device by the port that the routes give now (R432, R434). -/
def State.toPeer (s : State) (m : PeerMsg) : State :=
  { s with links := { s.links with peerOut := s.links.peerOut ++
      [{ m with since := s.cycle, port := portOf s m.tid m.dev }] } }

/-- One hand-off of a committed chunk (R169, R365); the FetchAdd of a RED takes effect with it (R353). -/
def handOff (s : State) (t : Thread) (v : Nat) (h : Hand) : State :=
  match h with
  | .copy c => handCopy s c v
  | .peer m => s.toPeer { m with v := v }
  | .hostAdd h => { s with mem := addNum s.mem h.key h.size h.x.toNat
                           links := { s.links with hostAdds := s.links.hostAdds ++ [{ h with v := v }] } }
  | .arrive _ => arriveAt s t.tid v
  | .spawn o ws n => match t.launch with
    | none => s
    | some l => handSpawn s t.tid l o ws n v

/-- A thread's item retires: it counts in retired and as arrived, and its slot enters WAITING (R53, R366, R369). -/
def retireItem (s : State) (t : Thread) (keeps : Bool) : State :=
  let s := leaveBarriers s t.tid
  let s := s.mapOwnLaunch t (fun l => { l with retired := l.retired + 1 })
  s.setThread { t.toWaiting with keeps := keeps }

end Sys2Proof.Machine
end

