-- ==== Sys2Proof/Machine/Weir.lean ====
section
/-! DEFINITION. Sys2Proof/Machine/Weir.lean: chunks and their commit (chapters 7 and 15): boundaries and checkpoints,
rollback, the acquisition of nodes, the point at which a commit applies, write signatures, release, pins. -/

namespace Sys2Proof.Machine

/-- A Weir node that nothing has used. -/
def Node.fresh : Node := { v := 0, excl := none, shared := [], pin := none, pinQueue := [], queue := [] }

/-- The Weir node of a number. -/
def State.node (s : State) (k : Nat) : Node := Tbl.at s.weir.nodes k Node.fresh

/-- The state with a Weir node changed. -/
def State.setNode (s : State) (k : Nat) (n : Node) : State :=
  { s with weir := { s.weir with nodes := Tbl.put s.weir.nodes k n } }

/-- A line as numbers, for the hash functions of a stepping (R479). -/
def Line.nums : Line → Nat × Nat × Nat
  | .glob a n => (0, a, n)
  | .own c n => (1, c, n)
  | .clu c n => (2, c, n)

/-- The ASID tag of a line's signature; a window's line carries its thread's (R286). -/
def Line.asidOr (l : Line) (a : Nat) : Nat :=
  match l with
  | .glob b _ => b
  | _ => a

/-- Whether the signature of a line reaches a core: a global line's may, a line of a core's own window stays inside that
core, and a line of a cluster's window goes to the tiles of that cluster (R269, R343). -/
def Line.reaches (l : Line) (core : Nat) : Bool :=
  match l with
  | .glob _ _ => true
  | .own c _ => c == core
  | .clu k _ => k == (if core < 8192 then core / 128 else core - 8192)

/-- The clusters to which a line's home sends a write signature: those of a global line's sharer vector, or those whose tiles a
window's line concerns (R269, R343). -/
def sharersOf (s : State) (l : Line) : List Nat :=
  match l with
  | .glob _ _ => ((s.weir.sharers.find? (fun e => e.1 == l)).map Prod.snd).getD []
  | .own c _ => [if c < 8192 then c / 128 else c - 8192]
  | .clu c _ => [c]

/-- The sharer vectors with a cluster's bit set for some lines (R343). -/
def State.share (s : State) (cluster : Nat) (lines : List Line) : State :=
  let new := lines.filter (fun l => !(sharersOf s l).contains cluster)
  if new.isEmpty then s
  else { s with weir := { s.weir with
    sharers := new.foldl (fun m l => (l, cluster :: ((m.find? (fun e => e.1 == l)).map Prod.snd).getD []) ::
      m.filter (fun e => e.1 != l)) s.weir.sharers } }

/-- The sharer vectors of written lines are those of the committing cluster alone (R343 step 5). -/
def State.unshare (s : State) (cluster : Nat) (lines : List Line) : State :=
  { s with weir := { s.weir with sharers := lines.foldl (fun m l =>
      (l, [cluster]) :: m.filter (fun e => e.1 != l)) s.weir.sharers } }

/-- Whether some line's signature goes to a core (R343 step 4). -/
def signatureGoes (s : State) (lines : List Line) (core : Nat) : Bool :=
  let cluster := if core < 8192 then core / 128 else core - 8192
  lines.any (fun l => l.reaches core && (sharersOf s l).contains cluster)

/-- Whether a write signature of an ASID meets a chunk's read or write signature: a common line, or a false positive
of the hash functions where the ASID rules of R286 let the signature apply (R335, R347; log 8: DESIGN CHOICE, safe). A
line's tag is the ASID in which it is canonical (R286). -/
def meets (asid : Nat) (lines : List Line) (t : Thread) (c : Chunk) : Bool :=
  let mine := c.rlines ++ c.wlines
  let lines := lines.filter (fun l => l.reaches (coreOf t.tid))
  let near := lines.filter (fun l => t.asid == l.asidOr asid || c.foreign.contains (l.asidOr asid))
  if lines.isEmpty || mine.isEmpty then false
  else
    lines.any (fun l => mine.contains l) ||
    (!near.isEmpty && Config.sigFalseHit (near.map Line.nums) (mine.map Line.nums))

/-- Whether a signature of these lines has passed 768 set bits: never up to 192 lines (R165, R479). -/
def sigFull (lines : List Line) : Bool := 192 < lines.length && Config.sigOver (lines.map Line.nums)

/-- Restores the registers that a checkpoint names; of the values that R35 allows the others, each keeps the one that it
holds at the rollback (R35, R112; log 27: DESIGN CHOICE, unsafe). -/
def restore (mask : Option LiveMask) (ck cur : Regs) : Regs :=
  match mask with
  | none => ck
  | some m =>
    { ck with
      g := Vector.ofFn (fun i => if m.g.getLsbD i then ck.g[i] else cur.g[i])
      p := Vector.ofFn (fun i => if m.p.getLsbD i then ck.p[i] else cur.p[i])
      v := Vector.ofFn (fun i => if m.v.getLsbD i then ck.v[i] else cur.v[i])
      e := Vector.ofFn (fun i => if m.e.getLsbD i then ck.e[i] else cur.e[i]) }

/-- A fresh executing context that begins at a boundary with these registers (R164, R167). -/
def newChunk (r : Regs) (mask : Option LiveMask) (gen : Nat) : Chunk :=
  { Chunk.empty r with mask := mask, gen := gen }

/-- The registers of a thread after a rollback of some chunks to a checkpoint: the register of a division in flight takes the
checkpoint's value, whatever the mask (R35, R205). -/
def Thread.restored (t : Thread) (c : Chunk) (gens : List Nat) : Regs :=
  let drop (g : Vector Word 32) (b : Busy) : Vector Word 32 :=
    match b.reg with
    | .g n => if b.why == .div && gens.contains b.gen then g.set n c.ckpt.g[n] else g
    | _ => g
  restore c.mask c.ckpt { t.r with g := t.busy.foldl drop t.r.g }

/-- Squashes in a row before a rerun is pinned (R106). -/
def pinLimit (t : Thread) : Nat := if t.r.pin = 0 then 3 else t.r.pin.toNat

/-- Marks the shipped instructions of chunk generations cancelled (R181). -/
def cancelShips (s : State) (tid : Nat) (gens : List Nat) : State :=
  { s with ships := s.ships.map (fun x =>
      if x.tid = tid ∧ x.gen ∈ gens then { x with cancelled := true } else x) }

/-- Releases every node that a thread holds, pins or waits for (R344, R349). -/
def releaseNodes (s : State) (tid : Nat) (pins : Bool) : State :=
  let f (n : Node) : Node :=
    { n with excl := if n.excl = some tid then none else n.excl
             shared := n.shared.filter (fun x => x != tid)
             queue := n.queue.filter (fun x => x != tid)
             pin := if pins && n.pin == some tid then none else n.pin
             pinQueue := if pins then n.pinQueue.filter (fun x => x != tid) else n.pinQueue }
  { s with weir := { s.weir with nodes := s.weir.nodes.map (fun e => (e.1, f e.2)) } }

/-- The trailing thread without what its leader did in chunks that are rolled back; with nothing left to execute it stands
where the leader stands (R417, R418; log 29: DESIGN CHOICE, safe). -/
def Trailer.drop (x : Trailer) (r : Regs) (gens : List Nat) : Trailer :=
  let todo := x.todo.filter (fun a => !gens.contains a.gen)
  { r := if todo.isEmpty then r else x.r, todo := todo, queue := x.queue.filter (fun q => !gens.contains q.1) }

/-- Whether the trailing thread, where there is one, has executed all of a chunk (R418). -/
def Thread.trailDone (t : Thread) (gen : Nat) : Bool :=
  match t.trail with
  | none => true
  | some x => x.todo.all (fun a => a.gen != gen)

/-- What a rolled-back chunk of one keeps: the accesses to IRREV pages that it has performed outside the chunk are performed once,
and its rerun takes what they gave (R299, R338). -/
def Chunk.keeps (c new : Chunk) : Chunk :=
  if c.phase != .open || c.count == 0 then { new with outside := c.outside, answer := c.answer, lanes := c.lanes } else new

/-- The rollback of a thread to a checkpoint at a cycle, R169 steps 1-4, without counting; it takes 8 cycles from a full
checkpoint and 4 from a masked one. full: both contexts go. Results on the way to the committing chunk stay, a vector
load's place in the queue too, and so does serial-ship mode (R184). -/
def rollThread (t : Thread) (full : Bool) (now : Nat) : Thread :=
  let base := if full then t.com.getD t.ex else t.ex
  let gens := t.ex.gen :: (if full then (t.com.map Chunk.gen).toList else [])
  let r := t.restored base gens
  { t with r := r, stale := t.stale.filter (fun e => !gens.contains e.gen)
           busy := t.busy.filter (fun b => !gens.contains b.gen)
           wait := .none, stepOwed := none, stopAt := none, owed := none
           trail := t.trail.map (fun x => x.drop r gens)
           ready := max t.ready (now + (if base.mask.isSome then 4 else 8))
           lastHomes := base.shared ++ base.excl
           ex := base.keeps { newChunk base.ckpt base.mask (t.ex.gen + 1) with task := base.task, ckpt := r
                                                                               serialShip := base.serialShip }
           com := if full then none else t.com }

/-- CHSTAT and SQUASHES of a squash with a cause, and the pin that follows too many in a row (R106, R107, R169, R348). -/
def countSquash (t : Thread) (cause : Nat) : Thread :=
  let run : BitVec 8 := if t.chrun = 255 then 255 else t.chrun + 1
  { t with chrun := run, chcause := BitVec.ofNat 8 cause, squashes := t.squashes + 1
           mustPin := t.mustPin || decide (pinLimit t ≤ run.toNat) }

/-- A telemetry counter of a die advances (R438): 0 tcommit, 1 tsquash, 2 tpin, 3 tserial, 4 tecc, 5 tueccu,
6 tthermal. -/
def State.bump (s : State) (die k n : Nat) : State :=
  let l := Tbl.at s.telem die [0, 0, 0, 0, 0, 0, 0]
  { s with telem := Tbl.put s.telem die (l.set k ((l.getD k 0 + n) % 2 ^ 64)) }

/-- The die of a Weir node (R341). -/
def nodeDie (k : Nat) : Nat :=
  dieOf (if k < 128 then k / 2 else if k < 256 then k - 128 else if k < 8448 then (k - 256) / 128 else k - 8448)

/-- A point has been taken at nodes: each of their dies counts it (R438). -/
def countPoint (s : State) (homes : List Nat) : State :=
  (homes.foldl (fun l k => insertAsc (nodeDie k) l) []).foldl (fun s d => s.bump d 0 1) s

/-- A thread gives up its pins and the serial token (R349, R378). -/
def dropPins (s : State) (tid : Nat) : State :=
  let s := releaseNodes s tid true
  if s.weir.serial = some tid then { s with weir := { s.weir with serial := none } } else s

/-- The task of a squashed body: QUEUED again, or OVERFLOW, with one more squash in a row; a fault reply makes its rerun
serial-ship (R88, R106, R186). -/
def Task.again (k : Task) (cause : Option Nat) (faulted : Bool) : Task :=
  { k with state := if cause = some 7 then .overflow else .queued, tid := none, leave := false, irrev := false
           serialShip := k.serialShip || faulted
           run := if cause.isSome && k.run != 255 then k.run + 1 else k.run }

/-- A pinned rerun that is squashed all the same asks for the serial token (R351). -/
def toSerial (s : State) (tid : Nat) : State :=
  match s.thread tid with
  | none => s
  | some t => { s.setThread { t with mustPin := false, mustSerial := true } with
      weir := { s.weir with serialQueue := addOnce tid s.weir.serialQueue } }

/-- Rolls a thread's chunk back: the executing one, or with older the committing one and everything after it (R164, R169).
A chunk that is the body of an ordered task sends its task back to QUEUED and frees the slot; where the slot has gone on to
other work, that work and its run of squashes stay as they are (R88, R98, R106); an IRREVOCABLE one stays. A cause makes it a
squash, which counts; a fault reply that has come in at the same moment makes the rerun serial-ship (R186). -/
def undo (s : State) (tid : Nat) (older : Bool) (cause : Option Nat) : State :=
  match s.thread tid with
  | none => s
  | some t =>
    let hit := if older then t.com.getD t.ex else t.ex
    if hit.task.isSome && t.irrev && !older then s
    else
      let gens := if older && hit.task.isNone then [hit.gen, t.ex.gen] else [hit.gen]
      let faulted := s.ships.any (fun x =>
        x.tid == tid && gens.contains x.gen && x.replied && !x.cancelled && (x.status == 1 || x.status == 2))
      let lost := 1 + bitOf (older && hit.task.isNone && t.ex.count != 0)
      let s := if cause.isNone then s
        else (s.mapOwnLaunch t (fun l => { l with squashes := l.squashes + 1 })).bump (dieOf (clusterOf tid)) 1 lost
      let s := cancelShips (if older || t.com.isNone then dropPins s tid else s) tid gens
      let counted := match cause with
        | none => t
        | some k => countSquash t k
      match hit.task with
      | some key =>
        let s := s.mapTask key (fun k => k.again cause faulted)
        if older then s.setThread { t with com := none, squashes := counted.squashes, chcause := counted.chcause }
        else s.setThread { counted.toWaiting with r := t.restored hit gens }
      | none =>
        let u := rollThread counted older s.cycle
        let s := s.setThread { u with ex := { u.ex with serialShip := u.ex.serialShip || faulted } }
        if cause.isSome && hit.pinned then toSerial s tid else s

/-- Squashes a thread's chunk with a cause (R107, R169). -/
def squash (s : State) (tid : Nat) (older : Bool) (cause : Nat) : State := undo s tid older (some cause)

/-- The leader of a pair has executed, with values that it has taken from outside its registers: the trailer has this still
to do, and the values stand in the queue (R417). -/
def Thread.leads (t : Thread) (gen : Nat) (vals : List Vec) : Thread :=
  { t with trail := t.trail.map (fun x =>
      { x with todo := x.todo ++ [⟨gen, t.r, vals.length⟩], queue := x.queue ++ vals.map (fun v => (gen, v)) }) }

/-- The boundary before the next instruction: the executing chunk ends and a checkpoint is taken (R164, R166,
R167); a trailing thread takes the decision from the queue (R417). -/
def boundary (t : Thread) (now : Nat) (mask : Option LiveMask) : Thread :=
  { t with trail := (t.leads t.ex.gen [1]).trail
           com := some { t.ex with phase := .ended }
           ex := { newChunk t.r mask (t.ex.gen + 1) with task := if t.irrev then t.ex.task else none
                                                         serial := t.irrev, serialShip := t.irrev }
           stopAt := none, owed := if t.stopAt = some t.ex.count then t.owed else none
           ready := max t.ready (now + (if mask.isSome then 1 else 4)) }

/-- The home vector of a chunk in ascending order; a chunk without accesses holds its own core's node (R341,
R342). -/
def homesOf (t : Thread) (c : Chunk) : List Nat :=
  let all := (c.shared ++ c.excl).foldl (fun l k => insertAsc k l) []
  if all.isEmpty then [coreNode (coreOf t.tid)] else all

/-- Whether a node can be acquired now by a thread's commit: no other holder, no other's pin, first in its queue, which
one that has pinned the node, or a serial chunk that holds it, passes (R343, R348, R349). -/
def nodeFree (n : Node) (tid : Nat) (exclusive : Bool) : Bool :=
  (n.excl.isNone || n.excl == some tid) && (n.pin.isNone || n.pin == some tid) &&
  (!exclusive || n.shared.all (fun x => x == tid)) &&
  (n.pin == some tid || n.excl == some tid || n.queue.isEmpty || n.queue.head? == some tid)

/-- The names under which the agents outside threads hold nodes and wait for them (R337): the device's functions, peer devices,
snoops, mailboxes, Hoist channels, Tailraces and completion objects. -/
def agentId (kind n : Nat) : Nat := 2 ^ 60 + kind * 2 ^ 40 + n

/-- Takes a node for a commit, or joins its queue. The answer says whether it was taken. -/
def takeNode (s : State) (tid k : Nat) (exclusive : Bool) : State × Bool :=
  let n := s.node k
  if nodeFree n tid exclusive then
    let n := { n with queue := n.queue.filter (fun x => x != tid) }
    (s.setNode k (if exclusive then { n with excl := some tid } else { n with shared := addOnce tid n.shared }), true)
  else (s.setNode k { n with queue := addOnce tid n.queue }, false)

/-- The operation of a RED code on n bytes (R142, R358). -/
def redInt (op n x y : Nat) : Nat :=
  match op with
  | 0 => memInt 1 n x y
  | 1 => memInt 4 n x y
  | 2 => memInt 5 n x y
  | 3 => memInt 6 n x y
  | 4 => memInt 7 n x y
  | 5 => memInt 2 n x y
  | 6 => memInt 3 n x y
  | _ => x ^^^ y

/-- Applies one reduction or append to committed memory at a chunk's point (R334, R358, R360, R362). The thread's
address space places an appended element. -/
def applyEffect (t : Thread) (s : State) (e : Effect) : State :=
  match e with
  | .int op size key x =>
    let old := Memory.num s.mem key size
    { s with mem := Memory.setNum s.mem key size (redInt op size old (x.toNat % 2 ^ (8 * size))) }
  | .flt op dbl key x =>
    let size := if dbl then 8 else 4
    let old := Memory.num s.mem key size
    { s with mem := Memory.setNum s.mem key size (memFloat op dbl old (x.toNat % 2 ^ (8 * size))) }
  | .append cnt cap bins es x ovf .. =>
    let drop := { s with mem := Memory.setNum s.mem ovf 8 (Memory.num s.mem ovf 8 + 1) }
    match cnt with
    | none => drop
    | some (c, line) =>
      let k := Memory.num s.mem c 4
      let s := { s with mem := if k < 2 ^ 32 - 1 then Memory.setNum s.mem c 4 (k + 1) else s.mem
                        weir := { s.weir with heldCounts := addOnce line s.weir.heldCounts } }
      if k < cap then
        match resolve s t (bins + BitVec.ofNat 64 (k * es)) 1 .write with
        | .ok l => { s with mem := Memory.setNum s.mem l.key es (x.toNat % 2 ^ (8 * es)) }
        | _ => s
      else { s with mem := Memory.setNum s.mem ovf 8 (Memory.num s.mem ovf 8 + 1) }

/-- The line of the slot or of the overflow counter that an append is about to write (R335). -/
def effectLine (t : Thread) (s : State) (e : Effect) : Option Line :=
  match e with
  | .append cnt cap bins es _ _ oline _ =>
    match cnt with
    | none => some oline
    | some (c, _) =>
      let k := Memory.num s.mem c 4
      if k < cap then
        match resolve s t (bins + BitVec.ofNat 64 (k * es)) 1 .write with
        | .ok l => some l.line
        | _ => none
      else some oline
  | _ => none

/-- Whether every slot and overflow counter that the appends are about to write is on a page that takes it; where one is not,
the home refuses the commit (R280). -/
def slotsMapped (t : Thread) (s : State) : List Effect → Bool
  | [] => true
  | e :: es =>
    let takes (va : Word) : Bool := match resolve s t va 1 .write with
      | .ok _ => true
      | _ => false
    (match e with
      | .append (some (c, _)) cap bins size _ _ _ ova =>
        let k := Memory.num s.mem c 4
        takes (if cap ≤ k then ova else bins + BitVec.ofNat 64 (k * size))
      | .append none _ _ _ _ _ _ ova => takes ova
      | _ => true) && slotsMapped t (applyEffect t s e) es

/-- Applies reductions and appends in order and collects the lines that appends write besides their counts lines. -/
def applyEffects (t : Thread) (s : State) (lines : List Line) : List Effect → State × List Line
  | [] => (s, lines)
  | e :: es =>
    let lines := match effectLine t s e with
      | some l => addOnce l lines
      | none => lines
    applyEffects t (applyEffect t s e) lines es

/-- Clears the poison marks of units that stores cover whole (R415). -/
def clearPoison (poison : List Nat) (cells : List Host.Cell) : List Nat :=
  poison.filter (fun u =>
    let n := if 2 ^ 40 ≤ u ∧ u < 2 ^ 56 then 32 else 128
    (cells.filter (fun c => decide (u ≤ c.1 ∧ c.1 < u + n))).length != n)

/-- Records that commits have touched lines, for WAITV (R367). -/
def touch (s : State) (lines : List Line) : State :=
  { s with weir := { s.weir with
      order := s.weir.order + 1
      touched := lines.foldl (fun l x => (x, s.weir.order + 1) :: l.filter (fun e => e.1 != x)) s.weir.touched } }

/-- The tiles where a commit's write signature may find an open chunk: jobs', other threads', the slot's FINISHED bodies, and
its own next chunk, where that is other work or has read what the commit reduces (R332, R343 step 4); only clusters that share
one of its lines get it. A commit that writes nothing sends none. -/
def signatureTiles (s : State) (tid : Nat) (c : Chunk) : List Nat :=
  let lines := c.wlines ++ c.dlines
  let jobs := s.ships.foldl (fun l x =>
    if x.chunk.isSome && signatureGoes s lines (8192 + x.cluster) then insertAsc (1024 + x.cluster) l else l) []
  s.threads.foldl (fun l t =>
    if signatureGoes s lines (coreOf t.tid) ∧
        (t.fins ≠ [] ∨ (t.tid = tid ∧ ((c.task.isSome ∧ t.ex.wlines ≠ []) ∨
            ((c.task.isSome ∨ c.dlines ≠ []) ∧ t.ex.rlines ≠ []))) ∨
          (t.tid ≠ tid ∧ (t.ex.rlines ≠ [] ∨ t.ex.wlines ≠ [] ∨ t.com.isSome))) then insertAsc (tileOf t.tid) l else l) jobs

/-- Who holds a record without a parked thread until it is posted: core n as n + 1, or the command processors as 0; a failed
copy's is held by its channel (R383). -/
def Rec.holder (r : Rec) : Option Nat :=
  if !r.nopark || r.copy then none else if r.cause = 0x0C ∨ r.cause = 0x14 then some (coreOf r.tid + 1) else some 0

/-- Whether a core, or the command processors, hold a record that is not posted yet (R383). -/
def heldBy (s : State) (who : Nat) : Bool := s.tails.any (fun x => (x.2.waitR ++ x.2.waitH).any (fun r => r.holder == some who))

/-- Whether a core holds a record without a parked thread that is not posted yet (R383). -/
def coreHolds (s : State) (core : Nat) : Bool := heldBy s (core + 1)

/-- A write signature meets the chunks that the images of vacated tiles hold: the Weir's table dooms them (R352). -/
def doomAt (which : Image → Bool) (s : State) (asid : Nat) (lines : List Line) : State :=
  { s with freeze := { s.freeze with images := s.freeze.images.map (fun i => if !which i then i else { i with
      threads := i.threads.map (fun t => { t with
        com := t.com.map (fun c => { c with
          doomed := c.doomed || (c.phase != .numbered && !c.serial && meets asid lines t c) })
        fins := t.fins.map (fun c => { c with doomed := c.doomed || meets asid lines t c })
        ex := { t.ex with doomed := t.ex.doomed || (!t.ex.serial && meets asid lines t t.ex) } }) }) } }
def doomImages (s : State) (asid : Nat) (lines : List Line) : State := doomAt (fun _ => true) s asid lines

/-- The function that owns an ASID; ASID 0 belongs to the physical function (R64). -/
def ownerOf (s : State) (asid : Nat) : Nat :=
  match Tbl.find s.work.asids asid with
  | some d => d.owner
  | none => 0

/-- A write that leaves for a host line, with what it replaces there, under the requester ID of its ASID's owner (R340, R422). -/
def hostWriteOf (s : State) (tid asid : Nat) (copy : Bool) (cells : List Host.Cell) (line : Nat) : HostWrite :=
  { tid := tid, copy := copy, fn := ownerOf s asid, line := line
    old := (cells.filter (fun c => c.1 / 128 == line)).map (fun c => (c.1, Memory.get s.mem c.1)) }

/-- The thread as whose an ordered body's appends are placed: at the level of the body's item (R88, R362). -/
def bodyThread (t : Thread) (c : Chunk) : Thread :=
  if c.task.isSome then { t with r := { t.r with level := c.ckpt.level } } else t

/-- The point of a commit: its number is drawn, its stores, then its reductions and appends take effect, and its
hand-offs leave (R331, R334, R341, R343 steps 3-4). -/
def applyChunk (s : State) (t : Thread) (c : Chunk) : State :=
  let homes := homesOf t c
  let sluice := match c.task with
    | none => 0
    | some key => ((s.launchAt key.1).map Launch.lastOrderedV).getD 0
  let base := homes.foldl (fun m k => max m (s.node k).v) (max t.lastV sluice)
  let v := 1 + base
  let num := v * 65536 + homes.headD 0
  let out := (c.hostOut ++ (if s.links.cxl then [] else c.sysLines)).map (hostWriteOf s t.tid t.asid false c.writes)
  let s := { s with links := { s.links with hostWrites := s.links.hostWrites ++ out } }
  let s := { s with mem := Memory.setAll s.mem c.writes, poison := clearPoison s.poison c.writes }
  let (s, dlines) := applyEffects (bodyThread t c) s c.dlines c.effects
  let c := { c with dlines := dlines }
  let s := touch s (c.wlines ++ c.dlines)
  let s := c.hands.foldl (fun s h => handOff s t v h) s
  let s := s.mapOwnLaunch t (fun l => { l with lastV := max l.lastV v })
  let s := doomImages (countPoint s homes) t.asid (c.wlines ++ c.dlines)
  let c := { c with phase := .numbered, num := num, since := s.cycle, acks := signatureTiles s t.tid c }
  s.setThread { (s.thread t.tid).getD t with com := some c, lastV := v, lastOrder := s.weir.order }


/-- Whether every shipped instruction of a chunk has been answered (R182). -/
def repliesIn (s : State) (tid gen : Nat) : Bool :=
  !s.ships.any (fun x => x.tid == tid && x.gen == gen && !x.cancelled)

/-- Whether an ordered chunk has its Sluice's leave, or needs none (R91, R346). -/
def hasLeave (s : State) (c : Chunk) : Bool :=
  match c.task with
  | none => true
  | some key => (match s.task key with
    | some k => k.leave
    | none => false)

/-- The keys of the places that a chunk's reductions and appends write: a target, or an append's counts word, slot and overflow
counter. -/
def effectKeys (t : Thread) (s : State) : List Effect → List Nat
  | [] => []
  | e :: es =>
    (match e with
      | .int _ _ key _ | .flt _ _ key _ => [key]
      | .append none _ _ _ _ ovf .. => [ovf]
      | .append (some (c, _)) cap bins es _ ovf .. =>
        let k := Memory.num s.mem c 4
        c :: (if cap ≤ k then [ovf] else match resolve s t (bins + BitVec.ofNat 64 (k * es)) 1 .write with
          | .ok l => [l.key]
          | _ => [])) ++ effectKeys t (applyEffect t s e) es

/-- The keys that a chunk's commit writes. -/
def keysOf (s : State) (t : Thread) (c : Chunk) : List Nat :=
  c.writes.map Prod.fst ++ effectKeys (bodyThread t c) { s with mem := Memory.setAll s.mem c.writes } c.effects

/-- Whether the host has granted every SYS line that a chunk wrote, and answered the snoops of the device lines it may
hold (R430). -/
def ownsLines (s : State) (t : Thread) (c : Chunk) : Bool :=
  !s.links.cxl || (c.sysLines.all (fun l => s.links.cxlOwned.contains l) &&
    (keysOf s t c).all (fun k => !s.links.hostHeld.contains (k / 128)))

/-- Whether a tile is frozen (R395). -/
def tileFrozen (s : State) (tile : Nat) : Bool :=
  match Tbl.find s.freeze.tiles tile with
  | none => false
  | some x => x.state != .running

/-- Whether a hand-off is a copy, or leaves for a peer or the host. -/
def Hand.isCopy : Hand → Bool
  | .copy _ => true
  | _ => false
def Hand.leaves : Hand → Bool
  | .peer _ | .hostAdd _ => true
  | _ => false

/-- Whether a memory key lies in the local array of a little core, other than the given one, whose tile is frozen: its bank takes
no access until the clock runs (R404). -/
def bankStopped (s : State) (core key : Nat) : Bool :=
  2 ^ 40 ≤ key && key < 2 ^ 40 + 8192 * 2 ^ 21 && (key - 2 ^ 40) / 2 ^ 21 != core && tileFrozen s ((key - 2 ^ 40) / 2 ^ 21 / 8)

/-- Whether the hand-offs of a chunk can leave: its Hoist has room for its copies (R307), its core holds no unposted
record (R383), and nothing that it writes, reduces or appends lies in the array of a frozen tile (R404). -/
def handsFree (s : State) (t : Thread) (c : Chunk) : Bool :=
  let queued := match Tbl.find s.hoists (clusterOf t.tid) with
    | none => 0
    | some h => h.queue.length
  let copies := (c.hands.filter Hand.isCopy).length
  (copies == 0 || queued + copies ≤ 256) &&
  (!c.hands.any Hand.leaves || !coreHolds s (coreOf t.tid)) &&
  (keysOf s t c).all (fun k => !bankStopped s (coreOf t.tid) k)

/-- The end of a commit's acquisition: with every node held, the home refuses a commit that would write a page no longer
mapped, which rolls its chunk back without counting (R279, R280); one whose copies the Hoist has no room for waits (R307);
else its point comes. -/
def pointOf (s : State) (t : Thread) (c : Chunk) : State :=
  if !slotsMapped (bodyThread t c) { s with mem := Memory.setAll s.mem c.writes } c.effects then undo s t.tid true none
  else if handsFree s t c then applyChunk s t c
  else s

/-- One step of a commit's acquisition: takes the next node in ascending order; when all are held the number is drawn
and the effects apply (R343 steps 2-4). A doomed chunk's does not go on (R352). -/
def grantNext (s : State) (tid : Nat) : State :=
  match s.thread tid with
  | none => s
  | some t =>
    match t.com with
    | none => s
    | some c =>
      if c.phase ≠ .requested ∨ c.doomed then s
      else
        match (homesOf t c).filter (fun k => !c.held.contains k) with
        | [] => pointOf s t c
        | k :: rest =>
          let (s, ok) := takeNode s tid k (c.excl.contains k)
          if ok then
            let c := { c with held := c.held ++ [k] }
            let t := { t with com := some c }
            let s := s.setThread t
            if rest.isEmpty then pointOf s t c else s
          else s

/-- The FINISHED chunk of a thread that has its Sluice's leave enters the free committing context (R346). -/
def promote (s : State) (t : Thread) : Thread :=
  match t.com, t.fins.find? (hasLeave s) with
  | none, some c => { t with com := some c, fins := t.fins.filter (fun x => x.task != c.task) }
  | _, _ => t

/-- Step 1 of R343: an ended chunk sends its lines, reductions and appends to their homes, once its replies have
arrived and, for an ordered chunk, its Sluice has given leave; under CXL, once the lines it writes are its own (R430). -/
def requestCommit (s : State) (tid : Nat) : State :=
  match s.thread tid with
  | none => s
  | some t =>
    let t := promote s t
    match t.com with
    | none => s
    | some c =>
      if c.phase = .ended ∧ repliesIn s tid c.gen ∧ t.trailDone c.gen ∧ hasLeave s c ∧ ownsLines s t c ∧ handsFree s t c then
        s.setThread { t with com := some { c with phase := .requested } }
      else s

/-- Squashes a FINISHED chunk: its task is QUEUED again, and CHSTAT of the slot's present work stays (R88, R106). -/
def squashFin (cause : Nat) (s : State) (tid : Nat) (c : Chunk) : State :=
  match s.thread tid, c.task with
  | some t, some key =>
    let s := (s.mapOwnLaunch t (fun l => { l with squashes := l.squashes + 1 })).bump (dieOf (clusterOf tid)) 1 1
    let s := s.mapTask key (fun k => k.again (some cause) false)
    s.setThread { t with fins := t.fins.filter (fun x => x.task != c.task), squashes := (countSquash t cause).squashes
                         chcause := (countSquash t cause).chcause }
  | _, _ => s

/-- The effect of a write signature on one thread of a receiving tile: a chunk that meets it is squashed, or doomed
where its tile is frozen; a number already drawn and a serial chunk stand, and a pinned one does where the signature is an
agent's outside threads (R335, R337, R344, R348, R352). -/
def receiveAt (agent : Bool) (asid : Nat) (lines : List Line) (frozen : Bool) (s : State) (tid : Nat) : State :=
  match s.thread tid with
  | none => s
  | some t =>
    let comHit := match t.com with
      | some c => (c.phase = .ended || c.phase = .requested) && !c.serial && !(agent && c.pinned) && meets asid lines t c
      | none => false
    let exHit := !t.ex.serial && !t.irrev && !(agent && t.ex.pinned) && meets asid lines t t.ex
    if frozen then
      let s := if comHit then releaseNodes s tid true else s
      let s := if comHit && !s.weir.parked.contains (2 * tid + 1) && s.weir.parked.length < 4096 then
          { s with weir := { s.weir with parked := s.weir.parked ++ [2 * tid + 1] } }
        else s
      s.setThread { t with com := t.com.map (fun c =>
                             if comHit then { c with doomed := true, phase := .ended, held := [], pinned := false } else c)
                           fins := t.fins.map (fun c => { c with doomed := c.doomed || meets asid lines t c })
                           ex := { t.ex with doomed := t.ex.doomed || exHit } }
    else
      let s := (t.fins.filter (meets asid lines t)).foldl (fun s c => squashFin 1 s tid c) s
      let s := if comHit then squash s tid true 1 else s
      if exHit && !(comHit && (t.com.bind Chunk.task).isNone) then squash s tid false 1 else s

/-- A write signature meets the lists of a matrix job or 128-bit atomic at its executing core: it begins again there, or its
reply, if it is on the way, is dropped; the squash counts for the sender, and one squashed too often reruns pinned (R328,
R348). -/
def receiveJob (agent : Bool) (asid : Nat) (lines : List Line) (s : State) (x : Ship) : State :=
  match s.ships.find? (fun y => y.id == x.id), s.thread x.tid with
  | some y, some t =>
    (match y.chunk with
      | none => s
      | some c =>
        if y.cancelled || c.serial || (agent && c.pinned) || !meets asid lines { t with asid := y.asid } c then s
        else if (countSquash t 1).mustPin then
          let s := squash s t.tid false 1
          ((s.thread t.tid).map (fun u => s.setThread { u with lastHomes := c.shared ++ c.excl })).getD s
        else
          let s := (s.mapOwnLaunch t (fun l => { l with squashes := l.squashes + 1 })).bump (dieOf (clusterOf t.tid)) 1 1
          let s := s.setThread (countSquash t 1)
          { s with ships := s.ships.map (fun z =>
              if z.id = y.id then { z with chunk := none, status := if z.replied then 4 else z.status } else z) })
  | some y, none =>
    (match y.chunk with
      | none => s
      | some c =>
        if y.cancelled || c.serial || (agent && c.pinned) || !meets asid lines { Thread.fresh y.tid false with asid := y.asid } c then s
        else { s with ships := s.ships.map (fun z =>
          if z.id = y.id then { z with chunk := none, status := if z.replied then 4 else z.status } else z) })
  | none, _ => s

/-- What a committer's own slot makes of its signature: its other FINISHED chunks are tested, and the executing chunk
where the committed chunk was another item's body, or where it has read a line that the commit reduced or appended to (R88,
R332, R343). -/
def receiveOwn (asid : Nat) (lines reduced : List Line) (task : Option (Nat × Nat)) (s : State) (tid : Nat) : State :=
  match s.thread tid with
  | none => s
  | some t =>
    let s := (t.fins.filter (meets asid lines t)).foldl (fun s c => squashFin 1 s tid c) s
    let other := task.isSome && task != t.ex.task && meets asid lines t t.ex
    let early := t.ex.rlines.any (fun l => reduced.contains l)
    if !t.ex.serial && !t.irrev && (other || early) then squash s tid false 1
    else s

/-- The tiles to which the shell of a tile forwards what it receives, each once (R412). -/
def forwardTiles (s : State) : Nat → List Nat → List Nat
  | 0, l => l
  | fuel + 1, l =>
    let next (t : Nat) : List Nat := match Tbl.find s.freeze.tiles t with
      | some x => if x.state == .vacant then x.forwards.map Forward.target else []
      | none => []
    forwardTiles s fuel ((l.flatMap next).foldl (fun m t => addOnce t m) l)

/-- A tile receives a write signature: every thread of the tile is tested, and every job that runs on it (R328, R343 step 5); the
shell of a vacated tile passes it on to its image in the Weir's table, and to where its work has gone (R352, R412). -/
def receiveTile (s : State) (tid asid : Nat) (c : Chunk) (tile : Nat) : State :=
  let lines := c.wlines ++ c.dlines
  let tiles := forwardTiles s 8 [tile]
  let s := (s.threads.filter (fun t => tiles.contains (tileOf t.tid))).foldl (fun s t =>
    if t.tid = tid then receiveOwn asid lines c.dlines c.task s tid
    else receiveAt false asid lines (tileFrozen s (tileOf t.tid)) s t.tid) s
  let s := (s.ships.filter (fun x => tiles.contains (1024 + x.cluster))).foldl (receiveJob false asid lines) s
  doomAt (fun i => i.tile == tile) s asid lines

/-- One awaited acknowledgement of a commit: the tile receives the signature and answers (R343 step 5). -/
def acknowledge (s : State) (tid tile : Nat) : State :=
  match s.thread tid with
  | none => s
  | some t =>
    match t.com with
    | none => s
    | some c =>
      if c.phase = .numbered ∧ tile ∈ c.acks then
        let s := s.setThread { t with com := some { c with acks := c.acks.filter (fun x => x != tile) } }
        receiveTile s tid t.asid c tile
      else s

/-- An IRREV lane of a chunk past its number is performed as an access of its own: the bytes take effect, and a write signature
covers its line; a peer's leaves (R299, R338). -/
def performLane (s : State) (t : Thread) (c : Chunk) (x : Lane) : State :=
  match x with
  | .peer m => handOff s t (c.num / 65536) (.peer m)
  | .mem asid node line cells host =>
    let s := if host then { s with links := { s.links with hostWrites := s.links.hostWrites ++
        [hostWriteOf s t.tid t.asid false cells ((cells.headD (0, 0)).1 / 128)] } } else s
    let s := { s with mem := Memory.setAll s.mem cells, poison := clearPoison s.poison cells }
    let s := s.setNode node { s.node node with v := max (s.node node).v (c.num / 65536) }
    let tiles := signatureTiles s t.tid { Chunk.empty t.r with wlines := [line] }
    doomImages (tiles.foldl (receiveTile · t.tid asid { Chunk.empty t.r with wlines := [line] }) (touch s [line])) asid [line]

/-- The next IRREV lane of a commit past its number, once no other holds or pins its node (R299, R345, R348). -/
def nextLane (s : State) (t : Thread) (c : Chunk) : State :=
  match c.later with
  | [] => s
  | x :: rest =>
    let free := match x with
      | .peer _ => true
      | .mem _ node .. => nodeFree { s.node node with queue := [] } t.tid true
    if !free then s
    else
      let s := performLane s t c x
      match s.thread t.tid with
      | none => s
      | some u => s.setThread { u with com := u.com.map (fun (c : Chunk) => { c with later := rest }) }

/-- Step 6 of R343: with every acknowledgement in, the nodes record the number and are released, CHSEQ takes the
number and COMMITS advances. A rerun that waits for this commit is still to be pinned or serial (R348, R349); one that has
arrived by BAR waits for its phase (R365). -/
def releaseCommit (s : State) (tid : Nat) : State :=
  match s.thread tid with
  | none => s
  | some t =>
    match t.com with
    | none => s
    | some c =>
      if c.phase = .numbered ∧ c.acks = [] ∧ c.later ≠ [] then nextLane s t c
      else if c.phase = .numbered ∧ c.acks = [] then
        let s := s.unshare (clusterOf tid) ((c.wlines ++ c.dlines).filter (fun l => match l with
          | .glob .. => true
          | _ => false))
        let s := (homesOf t c).foldl (fun s k => s.setNode k { s.node k with v := c.num / 65536 }) s
        let s := releaseNodes s tid (c.pinned || c.serial)
        let s := if c.serial && !t.irrev then { s with weir := { s.weir with serial := none } } else s
        let s := s.mapOwnLaunch t (fun l => { l with
          commits := l.commits + 1
          lastOrderedV := if c.task.isSome then c.num / 65536 else l.lastOrderedV })
        s.setThread { t with com := none, chseq := BitVec.ofNat 64 c.num, commits := t.commits + 1, chrun := 0,
                             instret := t.instret + BitVec.ofNat 64 c.count,
                             sinceDispatch := t.sinceDispatch + (if c.task.isSome then 0 else 1),
                             mustPin := t.mustPin && !c.pinned && !c.serial,
                             mustSerial := t.mustSerial && !c.serial,
                             wait := if c.hands.contains (.arrive true) then
                                 (match openPhase s t with
                                   | some p => .barrier p.1 p.2
                                   | none => .none)
                               else if t.wait = .commit then .none else t.wait }
      else s

/-- Repeats a state change a number of times. -/
def repeatS (f : State → State) : Nat → State → State
  | 0, s => s
  | n + 1, s => repeatS f n (f s)

/-- The whole commit of a thread's older context, as far as free nodes let it go: R343 steps 1-6 in one go. -/
def commitOlder (s : State) (tid : Nat) : State :=
  match s.thread tid with
  | none => s
  | some t =>
    match t.com with
    | none => s
    | some c =>
      let s := requestCommit s tid
      let s := repeatS (fun s => grantNext s tid) ((homesOf t c).length + 1) s
      let s := match s.thread tid with
        | some t => match t.com with
          | some c => c.acks.foldl (fun s tile => acknowledge s tid tile) s
          | none => s
        | none => s
      releaseCommit s tid

/-- Whether an agent outside threads can take its point at some nodes now: nothing else holds or pins them, and it is the first
that waits there (R337, R343, R345, R348). -/
def agentFree (s : State) (agent : Nat) (nodes : List Nat) : Bool := nodes.all (fun k => nodeFree (s.node k) agent true)

/-- An agent that must wait acquires its nodes in ascending order, as far as they are free, and joins the queue of the first
that is not; it holds no others (R337, R343). -/
def agentWait (s : State) (agent : Nat) (nodes : List Nat) : State :=
  let go (r : State × Bool) (k : Nat) : State × Bool := if r.2 then takeNode r.1 agent k true else r
  (nodes.foldl go (releaseNodes s agent false, true)).1

/-- A write signature of an agent outside threads reaches the threads and the jobs of the clusters that share its lines (R328,
R335, R337, R343, R352). -/
def broadcast (s : State) (asid : Nat) (lines : List Line) : State :=
  let goes (core : Nat) : Bool := signatureGoes s lines core
  let s := (s.threads.filter (fun t => goes (coreOf t.tid))).foldl
    (fun s t => receiveAt true asid lines (tileFrozen s (tileOf t.tid)) s t.tid) s
  let s := (s.ships.filter (fun x => goes (8192 + x.cluster))).foldl (receiveJob true asid lines) s
  let s := doomImages s asid lines
  { s with weir := { s.weir with sharers := s.weir.sharers.filter (fun e => !lines.contains e.1) } }

/-- A point of an agent outside threads, whose nodes are free and released after it: it writes cells, its number exceeds a
base and what its nodes have recorded, and its signature covers its lines (R337, R341). The answer is its v. -/
def agentPoint (s : State) (agent base : Nat) (nodes : List Nat) (asid : Nat) (cells : List Host.Cell) (lines : List Line) :
    State × Nat :=
  let v := 1 + nodes.foldl (fun m k => max m (s.node k).v) base
  let s := { s with mem := Memory.setAll s.mem cells, poison := clearPoison s.poison cells }
  let s := nodes.foldl (fun s k => s.setNode k { s.node k with v := v }) s
  let s := countPoint (releaseNodes s agent false) nodes
  (if lines.isEmpty then s else broadcast (touch s lines) asid lines, v)

/-- Whether a thread has an older chunk, or instructions in its executing chunk, that are not committed. -/
def Thread.clean (t : Thread) : Bool := t.com.isNone && t.ex.count == 0

end Sys2Proof.Machine
end

