-- ==== Sys2Proof/Machine/Ops.lean ====
section
/-! DEFINITION. Sys2Proof/Machine/Ops.lean: the operations that the meanings of instructions share: ending an
instruction, the checks on its operands, chunk-closing execution (R170), memory accesses of a chunk (R278, R294,
R342), and taking a trap and returning from one (R377-R379, R388). -/

namespace Sys2Proof.Machine

/-- What a meaning answers. -/
abbrev Out := Host.Outcome State Fault Refusal

/-- Trap causes (R375). -/
def cILL : Nat := 0x01
def cBRK : Nat := 0x02
def cTRAP : Nat := 0x03
def cPAGE : Nat := 0x04
def cPROT : Nat := 0x05
def cALIGN : Nat := 0x06
def cALIAS : Nat := 0x07
def cFMIS : Nat := 0x08
def cFPE : Nat := 0x09
def cSBCHK : Nat := 0x0A
def cSCOPE : Nat := 0x0B
def cHAOP : Nat := 0x0C
def cORDER : Nat := 0x0D
def cMATRIX : Nat := 0x0E
def cSTEP : Nat := 0x0F
def cECCU : Nat := 0x10
def cPAIR : Nat := 0x11
def cLOCK : Nat := 0x12
def cWDOG : Nat := 0x13
def cPEER : Nat := 0x14
def cPOISON : Nat := 0x15
def cRESTORE : Nat := 0x16

/-- The lane of a cause: true for lane H (R375). -/
def laneHOf (cause : Nat) : Bool := cause == 0x10 || cause == 0x11 || cause == 0x12 || cause == 0x13 || cause == 0x15

/-- The die of a thread. -/
def Thread.die (t : Thread) : Nat := dieOf (clusterOf t.tid)

/-- A Tailrace whose block has not been given (R382). -/
def Tailrace.fresh : Tailrace :=
  { block := none, rbase := 0, hbase := 0, waitR := [], waitH := [], postedR := 0, postedH := 0 }

/-- The Tailrace of a die. -/
def State.tail (s : State) (die : Nat) : Tailrace := Tbl.at s.tails die Tailrace.fresh

/-- Hands a record to a die's Tailrace, which posts it in a step of its own (R377 step 3, R381). -/
def handRecord (s : State) (die : Nat) (r : Rec) : State :=
  let x := s.tail die
  let y := if r.laneH then { x with waitH := x.waitH ++ [r] } else { x with waitR := x.waitR ++ [r] }
  { s with tails := Tbl.put s.tails die y }

/-- A record that names no parked thread: its holder hands one at a time to the Tailrace (R383). -/
def handAlone (s : State) (die : Nat) (r : Rec) : State :=
  if r.holder.any (heldBy s) then { s with links := { s.links with lates := s.links.lates ++ [(die, r)] } } else handRecord s die r

/-- The next record of a holder whose last one has been posted (R383). -/
def handNext (s : State) (who : Nat) : State :=
  match s.links.lates.find? (fun e => e.2.holder == some who) with
  | none => s
  | some e => handRecord { s with links := { s.links with lates := s.links.lates.erase e } } e.1 e.2

/-- The record of a trap that a thread takes (R384). -/
def recordOf (s : State) (t : Thread) (cause : Nat) (pc val val2 : Word) : Rec :=
  { cause := cause, pc := pc, val := val, val2 := val2, laneH := laneHOf cause || t.super,
    paired := ((t.launch.bind s.launchAt).map Launch.paired).getD false
    fatal := t.super || cause == 0x10 || cause == 0x11
    nopark := false, copy := false, shipped := false, late := false, tid := t.tid, cseq := t.chseq, asid := t.asid, xclu := none,
    stamp := s.cycle, launch := t.launch }

/-- The slot parks: TRPC holds the resume address with bit 0 clear, the record waits at the Tailrace (R377 steps 2
and 3). -/
def parkWith (s : State) (t : Thread) (resume : Word) (r : Rec) : State :=
  let t := { t.still with
                    place := .parked, trap := some r, posted := false, trpc := resume &&& ~~~1#64, stepping := false
                    mustPin := false, mustSerial := false
                    ex := { newChunk t.r none (t.ex.gen + 1) with task := if t.irrev then t.ex.task else none
                                                                  serial := t.irrev } }
  handRecord (s.setThread t) t.die r

/-- A change that acts on the issuing thread, made for the thread of a TID; the turn stays where it is. -/
def State.onThread (s : State) (tid : Nat) (f : State → State) : State :=
  if s.cur.tid = tid then f s
  else match s.others.find? (fun u => u.tid == tid) with
    | none => s
    | some t =>
      let c := s.cur
      let s := f { s with cur := t, others := s.others.map (fun u => if u.tid = tid then c else u) }
      { s with cur := (s.others.find? (fun u => u.tid == c.tid)).getD c
               others := s.others.map (fun u => if u.tid = c.tid then s.cur else u) }

/-- The thread waits for its older chunk; the instruction is tried again after it (R168). -/
def holdForCommit (s : State) : State := s.withCur { s.cur with wait := .commit }

/-- Cuts the executing chunk before the next instruction and commits everything before it, as far as free nodes and
answered shipments let it (R170 steps 1 and 2, R377 step 1). -/
def drain (s : State) : State :=
  if s.cur.clean then s
  else
    let s := if s.cur.com.isSome then commitOlder s s.cur.tid else s
    if s.cur.com.isSome || s.cur.ex.count == 0 then s
    else commitOlder (s.withCur (boundary s.cur s.cycle none)) s.cur.tid

/-- The older chunk commits, or the thread waits for it (R168). -/
def awaitOlder (s : State) : State :=
  let s := commitOlder s s.cur.tid
  if s.cur.com.isSome then holdForCommit s else s

/-- A truncated rerun: the core itself rolls the executing chunk back, without counting, and a boundary will fall before
the instruction that it has reached (R169). Pins and the serial token stay. -/
def truncate (s : State) : State :=
  let t := s.cur
  let s := cancelShips s t.tid [t.ex.gen]
  let u := rollThread t false s.cycle
  s.withCur { u with stopAt := some t.ex.count, lastHomes := t.lastHomes, ex := { u.ex with pinned := t.ex.pinned, serial := t.ex.serial } }

/-- Whether a trap inside the executing chunk is reached by a truncated rerun: in an IRREVOCABLE body, a serial chunk, a
rerun in serial-ship mode or after a single step the thread stands at the trap already, with nothing beyond it issued
(R184, R349, R377, R378, R385). -/
def Thread.truncates (t : Thread) : Bool :=
  t.ex.count != 0 && !t.irrev && !t.ex.serial && !t.ex.serialShip && t.stepOwed.isNone

/-- An ordered body that may not go on here overflows: its task waits to become the GVT task (R88, R171, R378). -/
def overflow (s : State) : State := squash s s.cur.tid false 7

/-- Whether the executing chunk is an ordered body that is not IRREVOCABLE (R171). -/
def Thread.inBody (t : Thread) : Bool := t.ex.task.isSome && !t.irrev

/-- The issuing thread takes a trap with this record: the chunk is cut by a truncated rerun and its prefix commits, the
slot parks, and the record goes to the Tailrace (R377); an ordered body overflows instead (R378). What the rerun or the
wait for the commit could not find again, an early read or a shipped fault, is kept. resume is the resume PC. -/
def takeTrapRec (s : State) (resume : Word) (f : State → Rec) : State :=
  if s.cur.inBody then overflow s
  else
    let r := f s
    let kept := if r.cause == cSBCHK || r.shipped then some r else none
    if s.cur.truncates then
      let s := truncate s
      s.withCur { s.cur with owed := kept }
    else
      let s := drain s
      if s.cur.clean then parkWith (dropPins s s.cur.tid) s.cur resume (f s)
      else holdForCommit (s.withCur { s.cur with owed := kept })

/-- The trap that a thread owes once everything before it has committed (R159, R184, R377). -/
def takeOwed (s : State) (r : Rec) : State :=
  takeTrapRec s s.cur.r.pc (fun u =>
    { recordOf u u.cur r.cause r.pc r.val r.val2 with shipped := r.shipped, late := r.late, xclu := r.xclu })

/-- The issuing thread takes a trap at the current instruction (R375, R377); in a supervisor slot the record is fatal
and goes to lane H (R379). -/
def takeTrap (s : State) (cause : Nat) (val val2 : Word) : State :=
  takeTrapRec s s.cur.r.pc (fun s => recordOf s s.cur cause s.cur.r.pc val val2)

/-- trap(cause, val) with TRVAL2 (R7, R8). -/
def State.trap (s : State) (cause : Nat) (val val2 : Word) : Out := .next (takeTrap s cause val val2)

/-- A trap of a memory check. Only a walk at the home finds PAGE, so that is late (R277, R279); another fault that may have
been found at the home is marked late or not as the caches have it, which the model leaves free (log 7: DEDUCED, safe). -/
def State.trapMem (s : State) (cause : Nat) (val val2 : Word) : Out :=
  let global := cause = cALIAS || cause = cSCOPE || (cause = cPROT && val2 = 3) ||
    (cause = cFMIS && val2 ≠ 5)
  if cause = cPAGE then
    .next (takeTrapRec s s.cur.r.pc (fun t => { recordOf t t.cur cause t.cur.r.pc val val2 with late := true }))
  else if global then
    let s := { s with free := s.free + 1 }
    .next (takeTrapRec s s.cur.r.pc (fun t => { recordOf t t.cur cause t.cur.r.pc val val2 with
      late := Config.freeBool (s.free - 1) }))
  else s.trap cause val val2

/-- Ends an instruction in place: PC advances by its length, the chunk counts it, and the next issue keeps the spacing
of the stall field, which a big core ignores (R132, R154, R163). -/
def State.done (s : State) (len : Nat) (st : Fin 8) (t : Thread) : State :=
  s.withCur { t with r := { t.r with pc := t.r.pc + BitVec.ofNat 64 len }, ex := { t.ex with count := t.ex.count + 1 },
                     stepOwed := if t.stepping then some t.r.pc else t.stepOwed
                     ready := s.cycle + (if isBig t.tid then 1 else st.val + 1) }

/-- Ends a taken branch: PC takes the target, and the next issue comes no earlier than 2 cycles after (R162). -/
def State.jumped (s : State) (st : Fin 8) (t : Thread) (target : Word) : State :=
  s.withCur { t with r := { t.r with pc := target }, ex := { t.ex with count := t.ex.count + 1 },
                     stepOwed := if t.stepping then some t.r.pc else t.stepOwed
                     ready := s.cycle + (if isBig t.tid then 2 else max 2 (st.val + 1)) }

/-- The chunk of one that the executing context holds commits, and a forced boundary follows; the next instruction waits
for that commit (R170 steps 4 and 5). An IRREVOCABLE body goes on in place (R171). -/
def State.sealed (s : State) : State :=
  if s.cur.irrev then s else awaitOlder (s.withCur (boundary s.cur s.cycle none))

/-- The stores of an IRREVOCABLE body or a serial chunk to host lines that are IRREV for want of coherence (R276, R349). -/
def sysStores (s : State) (t : Thread) : List Lane :=
  if s.links.cxl then []
  else t.ex.sysLines.map (fun n => .mem t.asid 0 (.glob t.asid 0) (t.ex.writes.filter (fun c => c.1 / 128 == n)) true)

/-- What an IRREVOCABLE body or a serial chunk has for IRREV pages, a peer device or the host is performed as it executes (R94,
R349). -/
def State.performed (s : State) : State :=
  let t := s.cur
  let c := { t.ex with num := t.lastV * 65536 }
  let s := (t.ex.hands.filter Hand.leaves).foldl (fun s h => handOff s t t.lastV h) s
  let s := (t.ex.later ++ sysStores s t).foldl (fun s x => performLane s t c x) s
  let sys := if s.links.cxl then [] else t.ex.sysLines
  s.withCur { s.cur with ex := { s.cur.ex with
    hands := s.cur.ex.hands.filter (fun h => !h.leaves), later := []
    writes := s.cur.ex.writes.filter (fun x => !sys.contains (x.1 / 128))
    sysLines := s.cur.ex.sysLines.filter (fun n => !sys.contains n) } }

/-- A thread whose instruction has taken what outside accesses gave it. -/
def Thread.taken (t : Thread) : Thread := { t with ex := { t.ex with outside := [], answer := none, lanes := [] } }

/-- Ends a chunk-closing instruction (R170 steps 4 and 5); its chunk of one keeps what it has performed outside until it
commits. -/
def State.closed (s : State) (len : Nat) (st : Fin 8) (t : Thread) : State :=
  (s.done len st (if t.irrev then t.taken else t)).sealed

/-- Ends an instruction in place, or as a chunk of one; inside an IRREVOCABLE body or a serial chunk what would have closed
the chunk has been performed in place (R171, R349). -/
def State.finish (s : State) (closing : Bool) (len : Nat) (st : Fin 8) (t : Thread) : State :=
  if !closing then s.done len st t
  else if s.cur.ex.serial then (s.done len st t.taken).performed
  else s.closed len st t

/-- The checking scoreboard: an early read of one of these registers traps SBCHK where SBCHK is 1; else the
instruction goes on (R159, R160). -/
def State.check (s : State) (srcs : List Reg) (k : Out) : Out :=
  if s.cur.r.sbchk then
    match firstEarly s.cur.stale s.cycle srcs with
    | some (r, n) => s.trap cSBCHK (BitVec.ofNat 64 r.code) (BitVec.ofNat 64 n)
    | none => k
  else k

/-- Runs a chunk-closing instruction at its forced boundary, after every earlier chunk of the thread has committed
(R170 steps 1 and 2); until then the thread takes the boundary and waits, and issues nothing. In an ordered body the
instruction overflows, and an IRREVOCABLE body runs it in place (R171). -/
def State.closing (s : State) (k : State → Out) : Out :=
  if s.cur.irrev then k s
  else if s.cur.inBody then .next (overflow s)
  else if s.cur.clean then k s
  else
    let s := drain s
    .next (if s.cur.com.isSome then holdForCommit s else s)

/-- Runs an instruction that is found to be chunk-closing after it has issued: a truncated rerun places its boundary
(R155, R169); a serial chunk and an IRREVOCABLE body perform it in place (R171, R349). -/
def State.closingLate (s : State) (k : State → Out) : Out :=
  if s.cur.ex.serial then k s
  else if s.cur.inBody then .next (overflow s)
  else if s.cur.clean then k s
  else if s.cur.ex.count = 0 then .next (awaitOlder s)
  else .next (truncate s)

/-- The thread has not issued: its instruction is tried again from the next cycle on. -/
def State.stall (s : State) : State := s.withCur { s.cur with ready := max s.cur.ready (s.cycle + 1) }

/-- Privileged instructions trap PROT at user level (R387-R389, R375). -/
def State.privileged (s : State) (k : Out) : Out := if s.cur.super then k else s.trap cPROT s.cur.r.pc 4

/-- Ends an instruction that raises flags: FPE when an enabled flag would be raised, else the flags join FFLAGS
(R224). elems are the flags of the elements, or of the one result. -/
def State.withFlags (s : State) (elems : List Flags) (k : Flags → Out) : Out :=
  let fl := joinFlags elems
  let en := enOf s.cur.r.fmode
  if fl &&& en = 0 then k fl
  else s.trap cFPE (fl.setWidth 64) (BitVec.ofNat 64 (enabledMask en elems))

/-- The byte that the executing chunk reads: its own latest store, else its thread's committing chunk's, else committed
memory (R294). The older chunk of a finished ordered body is not the thread's present item's (log 8: DESIGN CHOICE, safe). -/
def readByte (s : State) (t : Thread) (a : Nat) : Byte :=
  match bufGet t.ex.writes a with
  | some b => b
  | none => match bufGet t.ex.outside a with
    | some b => b
    | none => match t.com with
    | none => Memory.get s.mem a
    | some c =>
      if c.task.isSome && c.task != t.ex.task then Memory.get s.mem a
      else match bufGet c.writes a with
        | some b => b
        | none => Memory.get s.mem a

/-- n bytes that the executing chunk reads from a key on. -/
def readBytes (s : State) (t : Thread) (a : Nat) : Nat → List Byte
  | 0 => []
  | n + 1 => readByte s t a :: readBytes s t (a + 1) n

/-- n bytes that the executing chunk reads, as a number (R3). -/
def readNum (s : State) (t : Thread) (l : Loc) (n : Nat) : Nat := ofBytes (readBytes s t l.key n)

/-- Records the ASID of a canonicalised access (R286). -/
def noteAsid (t : Thread) (c : Chunk) (l : Loc) : Chunk :=
  if l.casid = t.asid then c else { c with foreign := addOnce l.casid c.foreign }

/-- A read enters the read signature and the home vector (R335, R342). -/
def noteRead (t : Thread) (l : Loc) : Thread :=
  { t with ex := noteAsid t { t.ex with rlines := addOnce l.line t.ex.rlines, shared := addOnce l.node t.ex.shared } l }

/-- Whether a place lies in host memory, with SYS as given (R275). -/
def Loc.onHost (l : Loc) (sys : Bool) : Bool := (l.leaf.map (fun f => f.loc == 1 && f.sys == sys)).getD false

/-- A store enters the write signature and the home vector (R335, R342); a line of a host page is remembered (R340, R430). -/
def noteWrite (t : Thread) (l : Loc) : Thread :=
  let n := l.key / 128
  { t with ex := noteAsid t { t.ex with wlines := addOnce l.line t.ex.wlines
                                        excl := addOnce l.node t.ex.excl
                                        hostOut := if l.onHost false then addOnce n t.ex.hostOut else t.ex.hostOut
                                        sysLines := if l.onHost true then addOnce n t.ex.sysLines
                                                    else t.ex.sysLines } l }

/-- A reduction or append target enters the reduction list and the home vector; a SYS host line that it changes is to be the
device's own first (R335, R342, R430). -/
def noteReduce (t : Thread) (l : Loc) : Thread :=
  { t with ex := noteAsid t { t.ex with dlines := addOnce l.line t.ex.dlines, excl := addOnce l.node t.ex.excl
                                        sysLines := if l.onHost true then addOnce (l.key / 128) t.ex.sysLines
                                                    else t.ex.sysLines } l }

/-- An access of its own to a place on an IRREV page, which is to follow the chunk's number: its node enters the home vector
(R299, R342). -/
def noteLane (t : Thread) (va : Word) (l : Loc) (cells : List Host.Cell) : Thread :=
  let x : Lane := match l.peer with
    | none => .mem l.casid l.node l.line (cells.map (fun c => (l.key + c.1, c.2))) (l.onHost true || l.onHost false)
    | some (d, o) => .peer { tid := t.tid, asid := t.asid, dev := d, off := o, va := va, pc := t.r.pc, act := .write cells,
                             since := 0, launch := t.launch }
  { t with ex := noteAsid t { t.ex with excl := addOnce l.node t.ex.excl, later := t.ex.later ++ [x] } l }

/-- mem_write of R7 of bytes at offsets from a checked place: they are buffered in the chunk; a store to a peer device
leaves at the chunk's point, and one of a serial chunk to an IRREV page is performed as it executes (R294, R338, R349). -/
def storeCells (t : Thread) (va : Word) (l : Loc) (cells : List Host.Cell) : Thread :=
  let alone := t.ex.serial && (l.leaf.map Leaf.irrev).getD false
  if alone then noteLane t va l cells
  else
  let t := noteWrite t l
  match l.peer with
  | none => { t with ex := { t.ex with writes := cells.foldl (fun m c => bufSet m (l.key + c.1) c.2) t.ex.writes } }
  | some (d, o) =>
    let m : PeerMsg := { tid := t.tid, asid := t.asid, dev := d, off := o, va := va, pc := t.r.pc, act := .write cells,
                         since := 0, launch := t.launch }
    { t with ex := { t.ex with hands := t.ex.hands ++ [.peer m] } }

/-- mem_write of the low n bytes of a number. -/
def storeNum (t : Thread) (va : Word) (l : Loc) (n x : Nat) : Thread := storeCells t va l (cellsAt 0 (bytesOf n x))

/-- Whether an access of n bytes overlaps a range of the scoreboard of its cluster in a window: a destination for any
access, a source for a store (R289). A range goes with the slot that issued the copy where its tile moves (R411, R412). -/
def rangeStall (s : State) (va : Word) (n : Nat) (store : Bool) : Bool :=
  s.hoists.any (fun e => (e.2.ranges ++ e.2.queue.flatMap copyRanges).any (fun r =>
    clusterOf r.tid == clusterOf s.cur.tid && (r.dest || store) &&
      decide (va.toNat < r.stop.toNat ∧ r.base.toNat < va.toNat + n)))

/-- Whether a read must wait: a commit past its number holds the line, or an append holds its counts line (R336, R345). Of
what the thread's own older chunk stores it reads its own bytes; what that reduces, or another item's body stores, is held
(R294). -/
def lineHeld (s : State) (l : Loc) : Bool :=
  s.weir.heldCounts.contains l.line ||
  (match s.cur.com with
    | none => false
    | some c => c.phase == .numbered && (c.dlines.contains l.line ||
        (c.task.isSome && c.task != s.cur.ex.task && c.wlines.contains l.line))) ||
  s.others.any (fun t => match t.com with
    | none => false
    | some c => c.phase == .numbered && (c.wlines.contains l.line || c.dlines.contains l.line))

/-- One place of an access: address, place, bytes, and how it is accessed there. -/
structure Probe where
  va : Word
  loc : Loc
  n : Nat
  k : Access

/-- Whether a place is read when the access executes. -/
def Probe.reads (p : Probe) : Bool := p.k == .read || p.k == .rmw

/-- Whether an access would take the chunk past its limits: lines written or reduced, bits of a signature (R165, R166,
R359, R479). -/
def overLimit (t : Thread) (ps : List Probe) : Bool :=
  let own := (ps.filter (fun p => p.k != .read)).map (fun p => p.loc.line)
  let stored := (ps.filter (fun p => p.k == .write || p.k == .rmw)).map (fun p => p.loc.line)
  let read := (ps.filter Probe.reads).map (fun p => p.loc.line)
  let add (l : List Line) (m : List Line) : List Line := l.foldl (fun m x => addOnce x m) m
  !t.irrev && t.ex.count != 0 &&
    (64 < (add own (add t.ex.dlines t.ex.wlines)).length || (!read.isEmpty && sigFull (add read t.ex.rlines)) ||
      (!stored.isEmpty && sigFull (add stored t.ex.wlines)))

/-- Whether an access would bring a fifth foreign ASID into the chunk (R286). -/
def overForeign (t : Thread) (ps : List Probe) : Bool :=
  !t.irrev && t.ex.count != 0 &&
    decide (4 < (ps.foldl (fun l p => if p.loc.casid = t.asid then l else addOnce p.loc.casid l) t.ex.foreign).length)

/-- A boundary falls before this instruction, which is executed again after it; an ordered body overflows (R166,
R169, R171). -/
def cutNow (s : State) : State :=
  if s.cur.inBody then overflow s
  else
    let s := if s.cur.com.isSome then commitOlder s s.cur.tid else s
    if s.cur.com.isSome then holdForCommit s else s.withCur (boundary s.cur s.cycle none)

/-- The access is placed in a new chunk by a truncated rerun; an ordered body overflows (R171, R286). -/
def cutForeign (s : State) : State := if s.cur.inBody then overflow s else truncate s

/-- A commit, an agent outside threads or a pinned rerun that is still acquiring gives its nodes up and begins its acquisition
again (R349, R351). -/
def restartCommit (s : State) (tid : Nat) : State :=
  let s := releaseNodes s tid true
  match s.thread tid with
  | none => s
  | some t => s.setThread { t with com := t.com.map (fun c => if c.phase = .requested then { c with held := [] } else c) }

/-- Whether a holder of a node is past its number, or is a chunk that has all its pins (R343, R348). -/
def holdsFast (s : State) (tid : Nat) : Bool :=
  match s.thread tid with
  | none => decide (tid < 2 ^ 60)
  | some t => t.ex.pinned || t.ex.serial || t.com.any (fun c => c.pinned || c.serial || c.phase == .numbered)

/-- A serial chunk acquires a node exclusively at its first touch: a commit past its number or a pinned chunk is waited
for, one that is still acquiring gives way, a rerun without all its pins and an agent outside threads too (R349, R351). none: it
waits. -/
def serialTake (s : State) (tid k : Nat) : Option State :=
  let n := s.node k
  if n.excl = some tid then some s
  else
    let holders := (n.excl.toList ++ n.shared ++ n.pin.toList).filter (fun x => x != tid)
    if holders.any (holdsFast s) then none
    else
      let s := holders.foldl restartCommit s
      some (s.setNode k { s.node k with excl := some tid })

/-- The nodes of an access of a serial chunk, acquired in ascending order. -/
def serialAll (s : State) (tid : Nat) : List Nat → Option State
  | [] => some s
  | k :: ks => (serialTake s tid k).bind (fun s => serialAll s tid ks)

/-- A pinned rerun that reaches a node outside its pins gives them up, rolls back without counting, and asks for the
serial token (R349). -/
def outgrow (s : State) : State :=
  let t := s.cur
  let s := cancelShips (releaseNodes s t.tid true) t.tid [t.ex.gen]
  let s := s.withCur { rollThread t false s.cycle with mustPin := false, mustSerial := true }
  { s with weir := { s.weir with serialQueue := addOnce t.tid s.weir.serialQueue } }

/-- What keeps a checked access from being performed in place now: poison at an address (R415), a held line or range, or a bank
in a stopped tile (R289, R336, R345, R404), a fifth foreign ASID (R286), a chunk limit (R166), a pin that it lacks (R349). -/
inductive Hold where
  | poison (va : Word)
  | wait | foreign | limit | outgrown

/-- What holds an access back, if anything. -/
def holdOf (s : State) (ps : List Probe) : Option Hold :=
  match ps.find? (fun p => p.k != .write && poisoned s p.loc p.n) with
  | some p => some (.poison p.va)
  | none =>
    if ps.any (fun p => rangeStall s p.va p.n (p.k != .read) ||
        (p.reads && (lineHeld s p.loc || bankStopped s (coreOf s.cur.tid) p.loc.key))) then some .wait
    else if overForeign s.cur ps then some .foreign
    else if overLimit s.cur ps then some .limit
    else if s.cur.ex.pinned && ps.any (fun p => (s.node p.loc.node).pin != some s.cur.tid) then some .outgrown
    else none

/-- What a hold does to the issuing thread. -/
def heldOut (s : State) (h : Hold) : Out :=
  match h with
  | .poison va => s.trap cPOISON va 0
  | .wait => .next s.stall
  | .foreign => .next (cutForeign s)
  | .limit => .next (cutNow s)
  | .outgrown => .next (outgrow s)

/-- The conditions that keep a checked access from being performed in place now. none: it goes on. -/
def screenAll (s : State) (ps : List Probe) : Option Out := (holdOf s ps).map (heldOut s)

/-- The nodes of an access, acquired first where the chunk is serial; none: it waits (R349). -/
def serialNodes (s : State) (ps : List Probe) : Option State :=
  if s.cur.ex.serial then serialAll s s.cur.tid (ps.foldl (fun l p => insertAsc p.loc.node l) []) else some s

/-- An access that has passed its checks, performed in place. -/
def State.screenedAll (s : State) (ps : List Probe) (body : State → Out) : Out :=
  match screenAll s ps with
  | some o => o
  | none => match serialNodes s ps with
    | none => .next s.stall
    | some s => body s

/-- Places that are all accessed alike. -/
def probes (vas : List (Word × Loc)) (n : Nat) (k : Access) : List Probe := vas.map (fun e => ⟨e.1, e.2, n, k⟩)

/-- The same conditions for places that are all accessed alike. -/
def screen (s : State) (vas : List (Word × Loc)) (n : Nat) (k : Access) : Option Out := screenAll s (probes vas n k)

/-- An access that has passed its checks at places that are all accessed alike. -/
def State.screened (s : State) (vas : List (Word × Loc)) (n : Nat) (k : Access) (body : State → Out) : Out :=
  s.screenedAll (probes vas n k) body

/-- Checks a list of addresses in order; the first failing one decides (R278). -/
def resolveAll (s : State) (align : Nat) (k : Access) : List Word → Chk (List (Word × Loc))
  | [] => .ok []
  | a :: as => (resolve s s.cur a align k).bind (fun l =>
      (resolveAll s align k as).bind (fun ls => .ok ((a, l) :: ls)))

/-- An access of n bytes at each address: the checks of R278, then the body with the places; a page that is irrevocable
makes the instruction chunk-closing (R151, R278). The body learns whether it runs as a chunk of one. -/
def State.access (s : State) (vas : List Word) (n align : Nat) (k : Access)
    (body : State → Bool → List (Word × Loc) → Out) : Out :=
  match resolveAll s align k vas with
  | .trap c v w => s.trapMem c v w
  | .nomem p => .fault (.noMemory p)
  | .ok ls =>
    if ls.any (fun e => e.2.irrev s) then s.closingLate (fun s => s.screened ls n k (fun s => body s true ls))
    else s.screened ls n k (fun s => body s false ls)

/-- The access of one place. -/
def State.access1 (s : State) (va : Word) (n align : Nat) (k : Access) (body : State → Bool → Loc → Out) : Out :=
  match resolve s s.cur va align k with
  | .trap c v w => s.trapMem c v w
  | .nomem p => .fault (.noMemory p)
  | .ok l =>
    if l.irrev s then s.closingLate (fun s => s.screened [(va, l)] n k (fun s => body s true l))
    else s.screened [(va, l)] n k (fun s => body s false l)

/-- A checked read of n bytes at each place, with byte enables, goes on once every byte that lies on a peer device has come;
else the requests leave and the thread waits (R299, R338, R434). -/
def State.readingOf (s : State) (n en : Nat) (ls : List (Word × Loc)) (k : State → Out) : Out :=
  let t := s.cur
  match t.ex.answer with
  | some (st, va) =>
    (s.withCur { t with ex := { t.ex with outside := [], answer := none } }).trap cPEER va (BitVec.ofNat 64 st)
  | none =>
    let asks := ls.filterMap (fun e => match e.2.peer with
      | none => none
      | some (d, o) => if (bufGet t.ex.outside e.2.key).isSome then none
        else some { tid := t.tid, asid := t.asid, dev := d, off := o, va := e.1, pc := t.r.pc, act := .read n en,
                    since := s.cycle, launch := t.launch : PeerMsg })
    if asks.isEmpty then k s
    else
      .next ((asks.foldl State.toPeer s).withCur { t with wait := .peer })

/-- A checked read of every byte at some places. -/
def State.reading (s : State) (n : Nat) (ls : List (Word × Loc)) (k : State → Out) : Out := s.readingOf n (2 ^ n - 1) ls k

/-- Instructions before the current one in the current chunk, which a read of INSTRET adds (R108). -/
def openCount (t : Thread) : Nat := t.ex.count

/-- The thread selected by PARKSEL, where it is parked on the supervisor's die with its record posted and its tile
not frozen (R113, R382, R394). -/
def selected (s : State) : Option Thread :=
  (s.threads.find? (fun t => t.tid == s.cur.parksel.toNat)).bind (fun t =>
    if t.place = .parked ∧ t.posted ∧ t.die = s.cur.die ∧ ¬ tileFrozen s (tileOf t.tid) then some t else none)

/-- The return from a trap: the thread re-enters RUN at its TRPC in a new chunk with a full checkpoint, which holds it for 4
cycles, under single step if its STEP is 1 (R167, R385, R388). -/
def resume (now : Nat) (t : Thread) : Thread :=
  let r := { t.r with pc := t.trpc }
  { t with ready := max t.ready (now + 4), place := .run, trap := none, posted := false, stepping := t.stepFlag, r := r,
           trail := t.trail.map (fun _ => { r := r, todo := [], queue := [] }),
           ex := { newChunk r none (t.ex.gen + 1) with task := t.ex.task, serial := t.ex.serial, serialShip := t.irrev } }

end Sys2Proof.Machine
end

