-- ==== Sys2Proof/Machine/Error.lean ====
section
/-! DEFINITION. Sys2Proof/Machine/Error.lean: uncorrectable errors that a thread consumes (R183, R414) and the launch
values of a slot's registers (R50, R105). -/

namespace Sys2Proof.Machine

/-- The CSRs of a slot at launch start; the other registers are those given (R50, R105, R109). -/
def launchRegs (l : Launch) (tid : Nat) (r : Regs) : Regs :=
  let seed := l.seed ^^^ BitVec.ofNat 64 tid
  { r with fflags := 0
           fmode := if 5 ≤ bitsOf l.fmode 0 3 then l.fmode &&& ~~~7#12 else l.fmode
           srseed := if seed = 0 then 1 else seed
           scxg := l.scxg, waitto := if l.waitto = 0 then 65536 else l.waitto
           chmin := if l.chmin = 0 then 256 else l.chmin, pin := 0, sbchk := l.sbchk }

/-- The scrubbed register bank of a thread (R414 step 3): zeros, and launch values in the writable CSRs. -/
def scrubbed (s : State) (t : Thread) : Regs :=
  let r := { Regs.reset with pc := t.r.pc, level := t.r.level, item := t.r.item, copySeq := t.r.copySeq }
  match t.launch.bind s.launchAt with
  | none => r
  | some l => launchRegs l t.tid r

/-- The unit at which an error is marked poisoned (R414). -/
def markPoison (s : State) (key : Nat) : State := { s with poison := insertAsc (poisonUnit key) s.poison }

/-- A thread parks for good after an error that cost it its chunk: the chunk is squashed, the bank is scrubbed, and a
fatal record goes to lane H (R414, R377). A committing chunk that has its number or its request stands. -/
def fatalPark (s : State) (tid cause : Nat) (val val2 : Word) (squashCause : Nat) : State :=
  match s.thread tid with
  | none => s
  | some t =>
    let older := match t.com with
      | some c => c.phase == .ended
      | none => false
    let pc := t.r.pc
    let body := t.ex.task
    let hit := if older then t.com.getD t.ex else t.ex
    let s := cancelShips (if older || t.com.isNone then dropPins s tid else s) tid [hit.gen, t.ex.gen]
    let s := (s.mapOwnLaunch t (fun l => { l with squashes := l.squashes + 1 })).bump t.die 1
      (1 + bitOf (older && t.ex.count != 0))
    let s := match body with
      | some key => if t.irrev then s else s.mapTask key (fun k => { k with state := .queued, tid := none, leave := false })
      | none => s
    let s := match t.com with
      | some c => (match c.task with
        | some key => if older && c.task != body then
            s.mapTask key (fun k => { k with state := .queued, tid := none, leave := false }) else s
        | none => s)
      | none => s
    let r := { scrubbed s t with pc := hit.ckpt.pc }
    let u := countSquash t squashCause
    let u := { u with r := r, com := if older then none else t.com, stepFlag := false }
    parkWith s { u with ex := { newChunk r none t.ex.gen with task := if t.irrev then body else none } } hit.ckpt.pc
      { recordOf s t cause pc val val2 with fatal := true, laneH := true }

/-- An uncorrectable error found in data at a key that a thread has read (R414). origin is the structure of R375. -/
def consumeError (s : State) (tid : Nat) (va : Word) (key : Option Nat) (origin : Nat) : State :=
  let s := fatalPark s tid cECCU va (BitVec.ofNat 64 origin) 4
  match key with
  | none => s
  | some k => markPoison s k

/-- The structure code of the memory behind a key (R375): local array, near or far memory, else L2. -/
def structureOf (key : Nat) : Nat :=
  if 2 ^ 56 ≤ key then 3 else if 2 ^ 40 ≤ key then 1 else if key < 2 ^ 34 then 4 else 5

end Sys2Proof.Machine
end

