-- ==== Sys2Proof/Machine/Agent.lean ====
section
/-! DEFINITION. Sys2Proof/Machine/Agent.lean: what the device steps share: points of agents outside threads (R337),
the functions of the host link with their vectors and error logs (R423, R424, R441), and the early end of a launch
(R52, R431, R436). -/

namespace Sys2Proof.Machine

/-- A function after reset (R55, R423; log 1: DESIGN CHOICE, unsafe). -/
def Func.fresh : Func :=
  { lcbase := 0, lcctl := 0, lchead := 0, lctail := 0, lcseq := 0, lcstat := 0, lcack := 0, epoch := 0, msix := [], raised := [],
    barSize := 2 ^ 26, apva := 0, quota := 0, errlog := [] }

/-- A function of the host link: 0 the physical function, 1-16 the virtual ones. -/
def State.func (s : State) (f : Nat) : Func := Tbl.at s.funcs f Func.fresh

/-- The state with a function changed. -/
def State.mapFunc (s : State) (f : Nat) (g : Func → Func) : State :=
  { s with funcs := Tbl.put s.funcs f (g (s.func f)) }

/-- A mailbox after reset (R439). -/
def Mailbox.fresh : Mailbox :=
  { op := 0, stat := 0, len := 0, req := [], rep := [], busy := false, lost := false, code := 0, result := none }

/-- The mailbox of a caller: functions 0-16, then the supervisors of the four dies (R439, R440). -/
def State.box (s : State) (u : Nat) : Mailbox := Tbl.at s.boxes u Mailbox.fresh

/-- The state with a mailbox changed. -/
def State.mapBox (s : State) (u : Nat) (g : Mailbox → Mailbox) : State :=
  { s with boxes := Tbl.put s.boxes u (g (s.box u)) }

/-- The outcome of a mailbox's outstanding command, its effect being complete (R440). -/
def State.reply (s : State) (u status : Nat) (bs : List Byte) : State :=
  s.mapBox u (fun b => { b with result := some (status, bs.take 2048) })

/-- Word k of a function's MSI-X table: two to a vector, of which bit 32 of the second masks the vector and is 1 at reset
(R422, R423; log 31: PRESUMED, the PCI Express layout, unsafe). -/
def Func.msixWord (x : Func) (k : Nat) : Word := Tbl.at x.msix k (if k % 2 = 1 then 0x100000000 else 0)

/-- Whether a vector is masked (log 31: PRESUMED, unsafe). -/
def Func.masked (x : Func) (v : Nat) : Bool := (x.msixWord (2 * v + 1)).getLsbD 32

/-- A vector is raised: it is sent, or pends behind its mask (R423, R424). -/
def Func.raise (x : Func) (v : Nat) : Func :=
  if x.masked v then { x with pending := insertAsc v x.pending } else { x with raised := x.raised ++ [v] }

/-- Raises an MSI-X vector of a function (R424). -/
def raiseVector (s : State) (f v : Nat) : State := s.mapFunc f (fun x => x.raise v)

/-- A write of the MSI-X table: a pending vector that it unmasks is sent (R423). -/
def Func.writeMsix (x : Func) (k : Nat) (v : Word) : Func :=
  let x := { x with msix := Tbl.put x.msix k v }
  (x.pending.filter (fun n => !x.masked n)).foldl Func.raise { x with pending := x.pending.filter x.masked }

/-- Logs a failed write against a function (R429, R441): 0 host-directed, 1 a host's, 2 a completion object. -/
def logError (s : State) (f addr kind : Nat) : State :=
  s.mapFunc f (fun x => { x with errlog := x.errlog ++ [(addr, kind)] })

/-- The bits [hi:lo] of a 64-bit word set to a number. -/
def putBits (x : Word) (lo n v : Nat) : Word :=
  BitVec.ofNat 64 (x.toNat % 2 ^ lo + v % 2 ^ n * 2 ^ lo + x.toNat / 2 ^ (lo + n) * 2 ^ (lo + n))

/-- A point of a host function or peer device: the number follows the source's previous one (R341). -/
def sourcePoint (s : State) (source : Nat) (nodes : List Nat) (cells : List Host.Cell) (lines : List Line) : State :=
  let (s, v) := agentPoint s (agentId 0 source) (Tbl.at s.weir.sources source 0) nodes 0 cells lines
  { s with weir := { s.weir with sources := Tbl.put s.weir.sources source v } }

/-- The nodes of places, in ascending order. -/
def nodesOf (cs : List (Host.Cell × Loc)) : List Nat := cs.foldl (fun l c => insertAsc c.2.node l) []

/-- Cells placed through translation in an address space, byte by byte from a VA; none where a byte does not translate. A byte
on a page of a peer device is one of the module's own cells at its key, and nothing goes to the peer (log 28: DESIGN CHOICE,
unsafe). -/
def placeCells (s : State) (asid : Nat) (k : Access) (va : Nat) : List Byte → Option (List (Host.Cell × Loc))
  | [] => some []
  | b :: bs =>
    if cluBase ≤ va then none
    else match translate s asid va k with
      | .ok l => (placeCells s asid k (va + 1) bs).map (fun r => ((l.key, b), l) :: r)
      | _ => none

/-- An agent writes placed cells as one point, whose nodes are free (R53, R381). -/
def writePlaced (s : State) (agent base asid : Nat) (cs : List (Host.Cell × Loc)) : State :=
  (agentPoint s agent base (nodesOf cs) asid (cs.map Prod.fst) (cs.foldl (fun l c => addOnce c.2.line l) [])).1

/-- Bytes read at a VA of an address space outside chunks; none where a byte cannot be read or is poisoned. -/
def readSpace (s : State) (asid va : Nat) : Nat → Option (List Byte)
  | 0 => some []
  | n + 1 =>
    if cluBase ≤ va then none
    else match translate s asid va .read with
      | .ok l => if poisoned s l 1 then none
                 else (readSpace s asid (va + 1) n).map (fun bs => Memory.get s.mem l.key :: bs)
      | _ => none

/-- The order of endings: SPILL, ABORTED, KILLED, DONE (R437). -/
def endRank (x : Option Nat) : Nat :=
  match x with
  | some 4 => 3
  | some 2 => 2
  | some 3 => 1
  | _ => 0

/-- The earlier of two endings in the order of R437. -/
def mergeEnd (x y : Option Nat) : Option Nat := if endRank x < endRank y then y else x

/-- Whether a launch has been ended early: its items are discarded. -/
def Launch.ended (l : Launch) : Bool := endRank l.status ≥ 2

/-- One thread of a launch that ends early: open chunks that have not drawn a number are squashed, a parked thread
retires as by PARK, and the slot enters WAITING (R72, R436). -/
def endThread (s : State) (tid : Nat) : State :=
  match s.thread tid with
  | none => s
  | some t =>
    let com := match t.com with
      | some c => if c.phase = .numbered then some c else none
      | none => none
    let lost := t.fins.length + (if t.com.isSome && com.isNone then 1 else 0) + (if t.place == .run && t.ex.count != 0 then 1 else 0)
    let s := if t.com.isSome && com.isSome then s else dropPins s tid
    let s := cancelShips s tid (t.ex.gen :: (t.com.map Chunk.gen).toList)
    let s := (s.mapOwnLaunch t (fun l => { l with squashes := l.squashes + lost })).bump t.die 1 lost
    let s := { s with weir := { s.weir with serialQueue := s.weir.serialQueue.filter (fun x => x != tid) } }
    match t.place with
    | .parked =>
      let s := s.mapOwnLaunch t (fun l => { l with retired := l.retired + 1 })
      (leaveBarriers s tid).setThread { t.toWaiting with com := com, fins := [], trap := none, posted := false }
    | .notHeld => s
    | _ => (leaveBarriers s tid).setThread { t.toWaiting with com := com, fins := [] }

/-- The work of a launch that is not in a slot is discarded (R98). -/
def discardWork (s : State) (l : Nat) : State :=
  let keep (i : Item) : Bool := i.launch != l
  let w := s.work
  { s with work := { w with
      shoes := w.shoes.map (fun e => (e.1, { e.2 with items := e.2.items.filter keep }))
      arriving := w.arriving.filter (fun e => keep e.2)
      offered := w.offered.filter (fun e => keep e.2)
      walking := w.walking.filter (fun e => keep e.item)
      batches := w.batches.map (fun e => { e with items := e.items.filter keep })
      gangs := w.gangs.filter (fun g => g.launch != l)
      tasks := w.tasks.filter (fun k => k.launch != l)
      gvt := w.gvt.filter (fun g => g.launch != l) } }

/-- Ends a launch early with a status: its items are discarded and its slots leave their work; threads of frozen tiles
stay for their restore (R52, R431, R436). -/
def endLaunch (s : State) (idx status : Nat) : State :=
  match s.launchAt idx with
  | none => s
  | some l =>
    if l.complete then s
    else
      let s := s.mapLaunch idx (fun l => { l with
        status := mergeEnd l.status (some status), delivered := l.nitems, spilled := [], spilledTasks := 0 })
      let s := discardWork s idx
      let hit := s.threads.filter (fun t => t.launch == some idx && !tileFrozen s (tileOf t.tid))
      hit.foldl (fun s t => endThread s t.tid) s

/-- A spill writes the launch's overflow area, whose layout is the device's own: every byte of it that takes a write becomes
a free value, and a byte on a page that does not is passed over (R52; log 28: DESIGN CHOICE, safe). -/
def writeOverflow (s : State) (l : Launch) : State :=
  let x := Config.freeNat s.free
  let cells := (List.range (65536 * l.ovsize)).filterMap (fun k =>
    if cluBase ≤ l.ovbase.toNat + k then none
    else match translate s l.asid (l.ovbase.toNat + k) .write with
      | .ok p => if p.peer.isSome then none else some ((p.key, BitVec.ofNat 8 (x / 2 ^ (8 * k))), p)
      | _ => none)
  writePlaced { s with free := s.free + 1 } (agentId 7 l.seq) 0 l.asid cells

/-- The mapping commands of an ASID that have not taken effect are refused: those whose zero fill or point is awaited (R65,
R280). -/
def refuseMaps (s : State) (asid : Nat) : State :=
  let asks (a : Arrival) : Option Nat := match a with
    | .unmap u k _ | .protect u k _ _ | .areg u k .. | .adel u k _ => if k = asid then some u else none
    | _ => none
  let callers := (s.maps.fills.filter (fun e => e.2.1 == asid)).map Prod.fst ++ s.links.waiting.filterMap asks
  let s := { s with maps := { s.maps with fills := s.maps.fills.filter (fun e => e.2.1 != asid) }
                    links := { s.links with waiting := s.links.waiting.filter (fun a => (asks a).isNone) } }
  callers.foldl (fun s u => (releaseNodes s (agentId 3 u) false).reply u 1 []) s

/-- Retires an ASID: its outstanding mapping commands are refused, its filter entries go, and it owns no tile, cluster or frame
any more (R65). -/
def retireAsid (s : State) (asid : Nat) : State :=
  let s := refuseMaps s asid
  { s with
    work := { s.work with
      asids := Tbl.del s.work.asids asid, retiredAsids := addOnce asid s.work.retiredAsids
      retiring := s.work.retiring.filter (fun a => a != asid)
      tileOwner := s.work.tileOwner.filter (fun e => e.2 != asid)
      clusterOwner := s.work.clusterOwner.filter (fun e => e.2 != asid) }
    maps := { s.maps with
      frameOwner := s.maps.frameOwner.filter (fun e => e.2 != asid)
      aliases := s.maps.aliases.filter (fun e => e.1 != asid && e.2.2.1 != asid) } }

/-- Whether a launch of an ASID is not complete (R65). -/
def asidInUse (s : State) (asid : Nat) : Bool := s.work.launches.any (fun l => l.asid == asid && !l.complete)

/-- Retires the ASIDs that a Function Level Reset has left and that no launch uses any more (R65, R431). -/
def retireLeft (s : State) : State :=
  (s.work.retiring.filter (fun a => !asidInUse s a)).foldl retireAsid s

/-- Entries of a launch's overflow area in use, and its capacity, which the model takes to be exactly the least that R52 names
(R52; log 28: DESIGN CHOICE, unsafe). -/
def overflowUsed (l : Launch) : Nat := l.spilled.length + l.spilledTasks
def overflowRoom (l : Launch) : Nat := 1008 * l.ovsize - overflowUsed l

/-- Whether a level's place admits a slot's kind (R40, R75). -/
def admits (place : Nat) (tid : Nat) : Bool := place == 2 || (place == 1) == isBig tid

end Sys2Proof.Machine
end

