-- ==== Sys2Proof/Machine/Commit.lean ====
section
/-! DEFINITION. Sys2Proof/Machine/Commit.lean: the steps of a commit at the Weir, pins and the serial token (R336,
R343-R349). -/

namespace Sys2Proof.Machine

/-- CHUNK_COMMIT_REQUEST (R343 step 1): a frozen tile's chunk stays parked (R352). -/
def execChunkCommitRequest (tid : Nat) (s : State) : Out :=
  if tileFrozen s (tileOf tid) then .next s else .next (requestCommit s tid)

/-- WEIR_NODE_GRANT (R343 steps 2-4). -/
def execWeirNodeGrant (tid : Nat) (s : State) : Out := .next (grantNext s tid)

/-- WRITE_SIGNATURE_RECEIVE (R343 step 5). -/
def execWriteSignatureReceive (tid tile : Nat) (s : State) : Out := .next (acknowledge s tid tile)

/-- COMMIT_RELEASE (R343 step 6). -/
def execCommitRelease (tid : Nat) (s : State) : Out := .next (releaseCommit s tid)

/-- Whether a thread must acquire pins before it issues (R348). -/
def wantsPins (t : Thread) : Bool := t.place == .run && t.mustPin && !t.ex.pinned && t.com.isNone && t.ex.count == 0

/-- The next node that a thread pins, in ascending id (R348). -/
def nextPin (s : State) (t : Thread) : Option Nat :=
  ((t.lastHomes.foldl (fun l k => insertAsc k l) []).find? (fun k => (s.node k).pin != some t.tid))

/-- PIN_ACQUIRE (R348): one node at a time, exclusively, first in, first out; with all of them the rerun begins. -/
def execPinAcquire (tid : Nat) (s : State) : Out :=
  match s.thread tid with
  | none => .next s
  | some t =>
    if !wantsPins t || tileFrozen s (tileOf tid) then .next s
    else match nextPin s t with
      | none => .next ((s.setThread { t with ex := { t.ex with pinned := true } }).bump t.die 2 1)
      | some k =>
        let n := s.node k
        if n.pin.isNone && n.excl.isNone && n.shared.isEmpty && (n.pinQueue.isEmpty || n.pinQueue.head? == some tid) then
          .next (s.setNode k { n with pin := some tid, pinQueue := n.pinQueue.filter (fun x => x != tid) })
        else .next (s.setNode k { n with pinQueue := addOnce tid n.pinQueue })

/-- SERIAL_TOKEN_GRANT (R349, R350): first in, first out, in a frozen tile or an image too; the chunk reruns serial, its heavy
instructions one at a time (log 24). -/
def execSerialTokenGrant (s : State) : Out :=
  match s.weir.serial, s.weir.serialQueue with
  | none, tid :: rest =>
    let s := { s with weir := { s.weir with serialQueue := rest } }
    (match (everyThread s).find? (fun t => t.tid == tid && t.mustSerial) with
      | none => .next s
      | some t =>
        let s := { s with weir := { s.weir with serial := some tid } }
        .next ((s.mapAny tid (fun t => { t with ex := { t.ex with serial := true, serialShip := true } })).bump t.die 3 1))
  | _, _ => .next s

/-- APPEND_ELEMENT_ACK (R336): the counts line at a place of the list of held lines is released, its elements having
landed. -/
def execAppendElementAck (line : Nat) (s : State) : Out :=
  .next { s with weir := { s.weir with heldCounts := s.weir.heldCounts.eraseIdx line } }

end Sys2Proof.Machine
end

