-- ==== Sys2Proof/Machine/Alu.lean ====
section
/-! DEFINITION. Sys2Proof/Machine/Alu.lean: the integer functions of R190 and R191 on N-bit operands, and the shapes of
the instructions that use them (R187-R197, R203). -/

namespace Sys2Proof.Machine

/-- A two-operand function at both widths: whole registers, or the low halves with the result sign-extended (R188). -/
def wide2 (f : (n : Nat) → BitVec n → BitVec n → BitVec n) (w : Bool) (x y : Word) : Word :=
  if w then (f 32 (x.setWidth 32) (y.setWidth 32)).signExtend 64 else f 64 x y

/-- The functions of R190. -/
def aluAdd (n : Nat) (x y : BitVec n) : BitVec n := x + y
def aluSub (n : Nat) (x y : BitVec n) : BitVec n := x - y
def aluMul (n : Nat) (x y : BitVec n) : BitVec n := x * y
def aluMulh (n : Nat) (x y : BitVec n) : BitVec n := BitVec.ofInt n (x.toInt * y.toInt / 2 ^ n)
def aluMulhz (n : Nat) (x y : BitVec n) : BitVec n := BitVec.ofNat n (x.toNat * y.toNat / 2 ^ n)
def aluDiv (n : Nat) (x y : BitVec n) : BitVec n := if y = 0 then BitVec.allOnes n else x.sdiv y
def aluDivz (n : Nat) (x y : BitVec n) : BitVec n := if y = 0 then BitVec.allOnes n else x / y
def aluRem (n : Nat) (x y : BitVec n) : BitVec n := if y = 0 then x else x.srem y
def aluRemz (n : Nat) (x y : BitVec n) : BitVec n := if y = 0 then x else x % y
def aluAnd (n : Nat) (x y : BitVec n) : BitVec n := x &&& y
def aluOr (n : Nat) (x y : BitVec n) : BitVec n := x ||| y
def aluXor (n : Nat) (x y : BitVec n) : BitVec n := x ^^^ y
def aluAndn (n : Nat) (x y : BitVec n) : BitVec n := x &&& ~~~y
def aluShl (n : Nat) (x y : BitVec n) : BitVec n := x <<< (y.toNat % n)
def aluShr (n : Nat) (x y : BitVec n) : BitVec n := x >>> (y.toNat % n)
def aluSha (n : Nat) (x y : BitVec n) : BitVec n := x.sshiftRight (y.toNat % n)
def aluMin (n : Nat) (x y : BitVec n) : BitVec n := if x.sle y then x else y
def aluMax (n : Nat) (x y : BitVec n) : BitVec n := if y.sle x then x else y
def aluMinz (n : Nat) (x y : BitVec n) : BitVec n := if x.ule y then x else y
def aluMaxz (n : Nat) (x y : BitVec n) : BitVec n := if y.ule x then x else y

/-- Leading zeros, n of zero (R190). -/
def clzOf (n : Nat) (x : BitVec n) : Nat := if x = 0 then n else n - 1 - Nat.log2 x.toNat

/-- Trailing zeros, n of zero (R190). -/
def ctzOf (n : Nat) (x : BitVec n) : Nat := if x = 0 then n else Nat.log2 (x &&& -x).toNat

/-- Set bits (R190). -/
def popcOf (n : Nat) (x : BitVec n) : Nat := (List.range n).foldl (fun k i => k + bitOf (x.getLsbD i)) 0

def aluClz (n : Nat) (x _y : BitVec n) : BitVec n := BitVec.ofNat n (clzOf n x)
def aluCtz (n : Nat) (x _y : BitVec n) : BitVec n := BitVec.ofNat n (ctzOf n x)
def aluPopc (n : Nat) (x _y : BitVec n) : BitVec n := BitVec.ofNat n (popcOf n x)
def aluAbs (n : Nat) (x _y : BitVec n) : BitVec n := if x.msb then -x else x

/-- Bits in the field of EXTB and INSB (R191). -/
def fieldLen (n : Nat) (y : Word) : Nat :=
  let pos := bitsOf y 0 6
  if n ≤ pos then 0 else min (bitsOf y 8 7) (n - pos)

/-- EXTB (R191); y is the whole of gb. -/
def aluExtb (n : Nat) (y : Word) (x : BitVec n) : BitVec n :=
  let k := fieldLen n y
  let f := x.toNat / 2 ^ bitsOf y 0 6 % 2 ^ k
  if y.getLsbD 16 && k != 0 && f / 2 ^ (k - 1) % 2 == 1 then BitVec.ofInt n ((f : Int) - 2 ^ k)
  else BitVec.ofNat n f

/-- INSB (R191); z is gd before, y the whole of gb. -/
def aluInsb (n : Nat) (y : Word) (x z : BitVec n) : BitVec n :=
  let pos := bitsOf y 0 6
  let k := fieldLen n y
  let mask := BitVec.ofNat n ((2 ^ k - 1) * 2 ^ pos)
  (z &&& ~~~mask) ||| BitVec.ofNat n (x.toNat % 2 ^ k * 2 ^ pos)

/-- The register that a three-bit field of a 16-bit form names (R145). -/
def r8 (n : Fin 8) : Fin 32 := ⟨n.val + 8, by omega⟩

/-- gd := f(ga, gb) with a fixed latency (R157, R190). -/
def binG (len lat : Nat) (f : Word → Word → Word) (d a b : Fin 32) (z : Fin 8) (s : State) : Out :=
  s.check [.g a, .g b] (.next (s.done len z (s.cur.putG s.cycle lat d (f (s.rg a) (s.rg b)))))

/-- gd := f(ga) with latency 2. -/
def unG (len : Nat) (f : Word → Word) (d a : Fin 32) (z : Fin 8) (s : State) : Out :=
  s.check [.g a] (.next (s.done len z (s.cur.putG s.cycle 2 d (f (s.rg a)))))

/-- gd := f(ga, gb) as the scoreboarded result of a division, 20 to 36 cycles later on a little core (R157). -/
def slowG (f : Word → Word → Word) (d a b : Fin 32) (z : Fin 8) (s : State) : Out :=
  let x := f (s.rg a) (s.rg b)
  s.check [.g a, .g b]
    (.next (s.done 4 z (if isBig s.cur.tid then s.cur.loadG d x .unit else s.cur.divG s.cycle d x)))

/-- pd := f(pa, pb) with latency 2 (R197). -/
def binP (f : Pred → Pred → Pred) (d a b : Fin 8) (z : Fin 8) (s : State) : Out :=
  s.check [.p a, .p b] (.next (s.done 4 z (s.cur.putP s.cycle 2 d (f (s.rp a) (s.rp b)))))

/-- The predicate that a compare writes: every bit the outcome (R196). -/
def predAll (c : Bool) : Pred := if c then 0xFFFF else 0

/-- Ends a branch, taken or not (R162, R198). -/
def branch (len : Nat) (taken : Bool) (target : Word) (z : Fin 8) (t : Thread) (s : State) : Out :=
  .next (if taken then s.jumped z t target else s.done len z t)

end Sys2Proof.Machine
end

