-- ==== Sys2Proof/Machine/Control.lean ====
section
/-! DEFINITION. Sys2Proof/Machine/Control.lean: branches, jumps, calls and loops (R198-R202) with their 16-bit forms
(R146). -/

namespace Sys2Proof.Machine

/-- The compare-and-branch shape (R198). -/
def branchOn (c : Word → Word → Bool) (o : BitVec 12) (a b : Fin 32) (z : Fin 8) (s : State) : Out :=
  s.check [.g a, .g b] (branch 4 (c (s.rg a) (s.rg b)) (s.cur.r.pc + branchOff o) z s.cur s)

/-- BEQ (R198). -/
def execBeq (o : BitVec 12) (a b : Fin 32) (z : Fin 8) (s : State) : Out :=
  branchOn (fun x y => x == y) o a b z s

/-- BNE (R198). -/
def execBne (o : BitVec 12) (a b : Fin 32) (z : Fin 8) (s : State) : Out :=
  branchOn (fun x y => x != y) o a b z s

/-- BLT (R198). -/
def execBlt (o : BitVec 12) (a b : Fin 32) (z : Fin 8) (s : State) : Out :=
  branchOn (fun x y => x.slt y) o a b z s

/-- BGE (R198). -/
def execBge (o : BitVec 12) (a b : Fin 32) (z : Fin 8) (s : State) : Out :=
  branchOn (fun x y => !x.slt y) o a b z s

/-- BLO (R198). -/
def execBlo (o : BitVec 12) (a b : Fin 32) (z : Fin 8) (s : State) : Out :=
  branchOn (fun x y => x.ult y) o a b z s

/-- BHS (R198). -/
def execBhs (o : BitVec 12) (a b : Fin 32) (z : Fin 8) (s : State) : Out :=
  branchOn (fun x y => !x.ult y) o a b z s

/-- BP (R199): taken when bit i of pK is 1. -/
def execBp (o : BitVec 12) (p : Fin 8) (i : Fin 16) (z : Fin 8) (s : State) : Out :=
  s.check [.p p] (branch 4 ((s.rp p).getLsbD i.val) (s.cur.r.pc + branchOff o) z s.cur s)

/-- BNP (R199): taken when bit i of pK is 0. -/
def execBnp (o : BitVec 12) (p : Fin 8) (i : Fin 16) (z : Fin 8) (s : State) : Out :=
  s.check [.p p] (branch 4 (!(s.rp p).getLsbD i.val) (s.cur.r.pc + branchOff o) z s.cur s)

/-- JMP (R200). -/
def execJmp (o : BitVec 22) (z : Fin 8) (s : State) : Out :=
  .next (s.jumped z s.cur (s.cur.r.pc + branchOff o))

/-- CALL (R200): g31 takes the link with latency 2. -/
def execCall (o : BitVec 22) (z : Fin 8) (s : State) : Out :=
  .next (s.jumped z (s.cur.putG s.cycle 2 31 (s.cur.r.pc + 4)) (s.cur.r.pc + branchOff o))

/-- A jump to a register target: an odd one traps ALIGN (R201). -/
def jumpTo (t : Word) (z : Fin 8) (u : Thread) (s : State) : Out :=
  if t.getLsbD 0 then s.trap cALIGN t 0 else .next (s.jumped z u t)

/-- JR (R201). -/
def execJr (a : Fin 32) (i : BitVec 12) (z : Fin 8) (s : State) : Out :=
  s.check [.g a] (jumpTo (s.rg a + i.signExtend 64) z s.cur s)

/-- CALLR (R201). -/
def execCallr (a : Fin 32) (i : BitVec 12) (z : Fin 8) (s : State) : Out :=
  s.check [.g a] (jumpTo (s.rg a + i.signExtend 64) z (s.cur.putG s.cycle 2 31 (s.cur.r.pc + 4)) s)

/-- LOOP (R202). -/
def execLoop (o : BitVec 12) (a : Fin 32) (z : Fin 8) (s : State) : Out :=
  let c := s.rg a - 1
  s.check [.g a] (branch 4 (c != 0) (s.cur.r.pc + branchOff o) z (s.cur.putG s.cycle 2 a c) s)

/-- BEQ.C: BEQ ga, g0 (R146). -/
def execBeqC (o : BitVec 8) (a : Fin 8) (s : State) : Out :=
  s.check [.g (r8 a)] (branch 2 (s.rg (r8 a) == 0) (s.cur.r.pc + branchOff o) 0 s.cur s)

/-- BNE.C: BNE ga, g0 (R146). -/
def execBneC (o : BitVec 8) (a : Fin 8) (s : State) : Out :=
  s.check [.g (r8 a)] (branch 2 (s.rg (r8 a) != 0) (s.cur.r.pc + branchOff o) 0 s.cur s)

/-- JMP.C (R146). -/
def execJmpC (o : BitVec 11) (s : State) : Out :=
  .next (s.jumped 0 s.cur (s.cur.r.pc + branchOff o))

/-- JR.C: JR g31 (R146). -/
def execJrC (s : State) : Out := s.check [.g 31] (jumpTo (s.rg 31) 0 s.cur s)

end Sys2Proof.Machine
end

