-- ==== Sys2Proof/Machine/Fp.lean ====
section
/-! DEFINITION. Sys2Proof/Machine/Fp.lean: the scalar floating-point instructions that every core executes (FOP and
FFMA, R230-R240). -/

namespace Sys2Proof.Machine

/-- Ends a scalar floating-point instruction: FPE for an enabled flag, else the result, the flags and the generator
(R224, R230, R231). -/
def fpEnd (lat : Nat) (d : Fin 32) (z : Fin 8) (r : Nat × Flags) (seed : Word) (s : State) : Out :=
  s.withFlags [r.2] (fun fl =>
    .next (s.done 4 z (((s.cur.putG s.cycle lat d (BitVec.ofNat 64 r.1)).raise fl).seedTo seed)))

/-- A FOP instruction that rounds: one draw under RSR (R231). -/
def fop2 (f : Fmt → BitVec 12 → Nat → Nat → Nat → Nat × Flags) (t : Fin 8) (d a b : Fin 32) (z : Fin 8)
    (s : State) : Out :=
  let m := s.cur.r.fmode
  let dr := drawFor m s.cur.r.srseed
  s.check [.g a, .g b] (fpEnd 4 d z (f (fmtOf t.val) m dr.1 (s.rg a).toNat (s.rg b).toNat) dr.2 s)

/-- A FOP instruction that does not round. -/
def fop2n (f : Fmt → BitVec 12 → Nat → Nat → Nat × Flags) (t : Fin 8) (d a b : Fin 32) (z : Fin 8)
    (s : State) : Out :=
  s.check [.g a, .g b]
    (fpEnd 4 d z (f (fmtOf t.val) s.cur.r.fmode (s.rg a).toNat (s.rg b).toNat) s.cur.r.srseed s)

/-- FADD (R233). -/
def execFadd (t : Fin 8) (d a b : Fin 32) (z : Fin 8) (s : State) : Out := fop2 fAdd t d a b z s

/-- FSUB (R233). -/
def execFsub (t : Fin 8) (d a b : Fin 32) (z : Fin 8) (s : State) : Out := fop2 fSub t d a b z s

/-- FMUL (R233). -/
def execFmul (t : Fin 8) (d a b : Fin 32) (z : Fin 8) (s : State) : Out := fop2 fMul t d a b z s

/-- FRFN (R240). -/
def execFrfn (t : Fin 8) (d a b : Fin 32) (z : Fin 8) (s : State) : Out := fop2 fRefine t d a b z s

/-- FMIN (R235). -/
def execFmin (t : Fin 8) (d a b : Fin 32) (z : Fin 8) (s : State) : Out := fop2n (fMinMax false) t d a b z s

/-- FMAX (R235). -/
def execFmax (t : Fin 8) (d a b : Fin 32) (z : Fin 8) (s : State) : Out := fop2n (fMinMax true) t d a b z s

/-- FCMP (R237). -/
def execFcmp (t : Fin 8) (d a b : Fin 32) (z : Fin 8) (s : State) : Out := fop2n fCmp t d a b z s

/-- FSGN (R236). -/
def execFsgn (t : Fin 8) (d a b : Fin 32) (z : Fin 8) (s : State) : Out := fop2n (fun f _ x y => (fSgn f x y, 0)) t d a b z s

/-- FCLASS (R238). -/
def execFclass (t : Fin 8) (d a : Fin 32) (z : Fin 8) (s : State) : Out :=
  s.check [.g a] (fpEnd 4 d z (fClass (fmtOf t.val) (s.rg a).toNat, 0) s.cur.r.srseed s)

/-- FCVT (R239): x the destination code, y the source code. -/
def execFcvt (x y : Fin 8) (d a : Fin 32) (z : Fin 8) (s : State) : Out :=
  let m := s.cur.r.fmode
  let dr := drawFor m s.cur.r.srseed
  s.check [.g a] (fpEnd 4 d z (fConvert x.val y.val m dr.1 (s.rg a).toNat) dr.2 s)

/-- FRCP (R225, R240). -/
def execFrcp (t : Fin 8) (d a : Fin 32) (z : Fin 8) (s : State) : Out :=
  s.check [.g a] (fpEnd 4 d z (rcpFn 0 (fmtOf t.val) s.cur.r.fmode (s.rg a).toNat) s.cur.r.srseed s)

/-- FRSQ (R225, R240). -/
def execFrsq (t : Fin 8) (d a : Fin 32) (z : Fin 8) (s : State) : Out :=
  s.check [.g a] (fpEnd 4 d z (rcpFn 1 (fmtOf t.val) s.cur.r.fmode (s.rg a).toNat) s.cur.r.srseed s)

/-- FFMA (R232, R233): t 0 f32, 1 f16, 2 bf16. -/
def execFfma (t : Fin 4) (c d a b : Fin 32) (z : Fin 8) (s : State) : Out :=
  let m := s.cur.r.fmode
  let dr := drawFor m s.cur.r.srseed
  s.check [.g a, .g b, .g c] (fpEnd 4 d z
    (fFma (fmtOf (t.val + 2)) m dr.1 (s.rg a).toNat (s.rg b).toNat (s.rg c).toNat) dr.2 s)

end Sys2Proof.Machine
end

