-- ==== Sys2Proof/Machine/Lanes.lean ====
section
/-! DEFINITION. Sys2Proof/Machine/Lanes.lean: what the vector instructions compute from their operands (R102,
R247-R262), the same whether a core runs them in place or a big core runs them for a sender (R263). -/

namespace Sys2Proof.Machine

/-- Element width of a lane type (R133). -/
def laneWidth (t : Nat) : Nat :=
  match t with
  | 3 | 4 | 6 => 16
  | 5 => 64
  | 7 => 8
  | _ => 32

/-- Element count of a lane type (R247). -/
def laneCount (t : Nat) : Nat := 512 / laneWidth t

/-- Integer lane types (R248). -/
def isIntType (t : Nat) : Bool := t == 0 || t == 1 || t == 6 || t == 7

/-- Whether the guard governs element i of width w as active (R102, R247). -/
def active (g : Pred) (w i : Nat) : Bool := g.getLsbD (i * w / 32)

/-- The result of a vector computation: vector, predicate or scalar, whether a scalar is written, the elements' flags
and the generator afterwards. -/
structure VRes where
  vec : Vec
  pred : Pred
  word : Word
  writes : Bool
  elems : List Flags
  seed : Word
deriving DecidableEq, Repr

/-- A vector result. -/
def VRes.ofVec (v : Vec) (elems : List Flags) (seed : Word) : VRes :=
  { vec := v, pred := 0, word := 0, writes := true, elems := elems, seed := seed }

/-- Runs an element function over elements i, i + 1, ...: active elements get a draw where draws is set; inactive ones
keep their old value and raise nothing (R219, R247). -/
def runLanes (act : Nat → Bool) (draws : Bool) (f : Nat → Nat → Nat × Flags) (old : Nat → Nat) :
    Nat → Nat → Word → List (Nat × Flags) × Word
  | 0, _, seed => ([], seed)
  | n + 1, i, seed =>
    if act i then
      let (d, seed) := if draws then ((draw seed).2, (draw seed).1) else (0, seed)
      let r := runLanes act draws f old n (i + 1) seed
      (f i d :: r.1, r.2)
    else
      let r := runLanes act draws f old n (i + 1) seed
      ((old i, 0) :: r.1, r.2)

/-- A number whose w-bit fields are given, lowest first. -/
def packList (w : Nat) : List Nat → Nat
  | [] => 0
  | x :: l => x % 2 ^ w + 2 ^ w * packList w l

/-- An element-wise instruction of a type: active elements take f, the others keep vd (R247). rounds: it takes draws
under RSR. -/
def mapLanes (t : Nat) (g : Pred) (m : BitVec 12) (rounds : Bool) (seed : Word) (z : Vec)
    (f : Nat → Nat → Nat × Flags) : VRes :=
  let w := laneWidth t
  let r := runLanes (active g w) (rounds && rmOf m == 4) f (lane w z) (laneCount t) 0 seed
  .ofVec (BitVec.ofNat 512 (packList w (r.1.map Prod.fst))) (r.1.map Prod.snd) r.2

/-- An element as a signed number. -/
def sgn (w x : Nat) : Int := (BitVec.ofNat w x).toInt

/-- An element as the number that its integer type reads (R206). -/
def intOf (t x : Nat) : Int := if t = 1 then (x : Int) else sgn (laneWidth t) x

/-- The integer or float function of a type on two elements (R249). -/
def elem2 (t : Nat) (i : Nat → Nat → Nat) (f : Fmt → Nat → Nat → Nat → Nat × Flags) (x y : Vec)
    (k d : Nat) : Nat × Flags :=
  let w := laneWidth t
  if isIntType t then (i (lane w x k) (lane w y k), 0) else f (fmtOf t) d (lane w x k) (lane w y k)

/-- Two's complement of an integer in w bits. -/
def wrap (w : Nat) (x : Int) : Nat := (BitVec.ofInt w x).toNat

/-- Minimum or maximum of two integer elements (R249). -/
def intMinMax (isMax : Bool) (t x y : Nat) : Nat :=
  if (intOf t x ≤ intOf t y) = (isMax = false) then x else y

/-- VSGN of an s-type element (R249). -/
def intSgn (t x y : Nat) : Nat :=
  let a : Int := (sgn (laneWidth t) x).natAbs
  wrap (laneWidth t) (if 0 ≤ sgn (laneWidth t) y then a else -a)

/-- A compare of two elements under a condition 0 eq, 1 ne, 2 lt, 3 ge, with its flag (R250). -/
def cmpElem (t c : Nat) (m : BitVec 12) (x y : Nat) : Bool × Flags :=
  if isIntType t then
    (match c with
      | 0 => x == y
      | 1 => x != y
      | 2 => decide (intOf t x < intOf t y)
      | _ => decide (intOf t y ≤ intOf t x), 0)
  else
    let r := fCmp (fmtOf t) m x y
    (match c with
      | 0 => r.1 == 1
      | 1 => r.1 != 1
      | 2 => r.1 == 2
      | _ => r.1 == 1 || r.1 == 4, r.2)

/-- VCMP (R250). -/
def vcmp (t c : Nat) (g : Pred) (m : BitVec 12) (seed : Word) (x y : Vec) (old : Pred) : VRes :=
  let w := laneWidth t
  let res (k : Nat) := cmpElem t c m (lane w x k) (lane w y k)
  let per := 32 / w
  let bit (j : Nat) : Bool :=
    if t = 5 then (if g.getLsbD (j / 2 * 2) then (res (j / 2)).1 else old.getLsbD j)
    else if g.getLsbD j then (List.range per).all (fun q => (res (j * per + q)).1) else old.getLsbD j
  { vec := 0, pred := predOf bit, word := 0, writes := true, seed := seed,
    elems := (List.range (laneCount t)).map (fun k => if active g w k then (res k).2 else 0) }

/-- The value of an element under a lane type (R252). -/
def laneVal (t : Nat) (m : BitVec 12) (x : Nat) : Val :=
  if isIntType t then ofInt (intOf t x) else fRd (fmtOf t) m x

/-- The range of an integer lane type (R206). -/
def intRange (t : Nat) : Int × Int :=
  match t with
  | 1 => (0, 2 ^ 32 - 1)
  | 6 => (-(2 ^ 15), 2 ^ 15 - 1)
  | 7 => (-128, 127)
  | _ => (-(2 ^ 31), 2 ^ 31 - 1)

/-- The conversion of one element from type y to type t (R222, R252). -/
def cvtElem (t y : Nat) (m : BitVec 12) (d x : Nat) : Nat × Flags :=
  let v := laneVal y m x
  if isIntType t then
    let r := packInt false (rmOf m) d (intRange t).1 (intRange t).2 v
    (wrap (laneWidth t) r.1, r.2)
  else fRound (fmtOf t) m d (v, 0)

/-- VCVT (R252): t the destination type, y the source type. -/
def vcvt (t y : Nat) (g : Pred) (m : BitVec 12) (seed : Word) (x z : Vec) : VRes :=
  let w := laneWidth t
  let v := laneWidth y
  let n := min (laneCount t) (laneCount y)
  let rounds := !(isIntType t && isIntType y)
  let r := runLanes (active g (max w v)) (rounds && rmOf m == 4) (fun k d => cvtElem t y m d (lane v x k)) (lane w z)
    n 0 seed
  .ofVec (BitVec.ofNat 512 (packList w (r.1.map Prod.fst))) (r.1.map Prod.snd) r.2

/-- The target of VQNT by its code: the format, or the bits of a signed integer (R140, R255). -/
def qntFmt (f : Nat) : Sum Nat Fmt :=
  match f with
  | 0 => .inl 4
  | 1 => .inl 8
  | 2 => .inr .e2m1
  | 3 => .inr .e2m3
  | 4 => .inr .e3m2
  | 5 => .inr .e4m3
  | 6 => .inr .e5m2
  | _ => .inr .yt8

/-- The exponent emax of R255. -/
def qntEmax (f : Nat) (nr : Bool) : Int :=
  match f with
  | 0 => 2
  | 1 => 6
  | 2 => 2
  | 3 => 2
  | 4 => 4
  | 5 => if nr then 7 else 8
  | 6 => if nr then 15 else 16
  | _ => 5

/-- The scale byte of VQNT for a magnitude, and whether it is invalid (R255). -/
def qntScale (f : Nat) (nr : Bool) (v : Val) : Nat :=
  match v with
  | .fin _ k e =>
    if k = 0 then 0
    else (min 254 (max 0 ((Nat.log2 k : Int) + e - qntEmax f nr + 127))).toNat
  | _ => 0xFF

/-- One element of VQNT, or of a format-aware store: a value rounded to a narrow target (R222, R255). -/
def qntElem (tgt : Sum Nat Fmt) (m : BitVec 12) (d : Nat) (v : Val) : Nat × Flags :=
  match tgt with
  | .inl bits =>
    let r := packInt true (rmOf m) d (-(2 ^ (bits - 1))) (2 ^ (bits - 1) - 1) v
    (wrap bits r.1, r.2)
  | .inr f => fRound f m d (v, 0)

/-- A value times a power of two, exactly. -/
def shiftVal (v : Val) (k : Int) : Val :=
  match v with
  | .fin n a e => .fin n a (e + k)
  | v => v

/-- VQNT (R255). -/
def vqnt (f : Nat) (g : Pred) (m : BitVec 12) (seed : Word) (x y : Vec) : VRes :=
  let s := qntScale f (nrOf m) (fRd .f32 m (lane 32 y 0))
  let bad := s = 0xFF
  let r := runLanes (active g 32) (rmOf m == 4) (fun k d =>
    if bad then (0, fNV)
    else qntElem (qntFmt f) m d (shiftVal (fRd .f32 m (lane 32 x k)) (127 - (s : Int)))) (fun _ => 0) 16 0 seed
  let w := if f = 0 || f = 2 then 4 else 8
  .ofVec (BitVec.ofNat 512 (packList w (r.1.map Prod.fst) + s * 2 ^ 504)) (r.1.map Prod.snd) r.2

/-- VDOT (R256). A sum of opposite infinities is invalid only where no term is a NaN (R233, R234). -/
def vdot (t : Nat) (g : Pred) (m : BitVec 12) (seed : Word) (x y z : Vec) : VRes :=
  let w := laneWidth t
  let per := 32 / w
  let rounds := !isIntType t
  mapLanes 0 g m rounds seed z (fun i d =>
    if isIntType t then
      (wrap 32 ((List.range per).foldl
        (fun a j => a + sgn w (lane w x (per * i + j)) * sgn w (lane w y (per * i + j))) (sgn 32 (lane 32 z i))), 0)
    else
      let f := fmtOf t
      let p (j : Nat) := mulVal (fRd f m (lane w x (2 * i + j))) (fRd f m (lane w y (2 * i + j)))
      let c := fRd .f32 m (lane 32 z i)
      let (s1, f1) := addVal (rmOf m) c (p 0).1
      let (s2, f2) := addVal (rmOf m) s1 (p 1).1
      let sum := if c.isNan || (p 0).1.isNan || (p 1).1.isNan then flagIf c.isSig fNV else f1 ||| f2
      fRound .f32 m d (s2, (p 0).2 ||| (p 1).2 ||| sum))

/-- The exact float sum of values with its NV (R257). -/
def sumVals (rm : Nat) (l : List Val) : Val × Flags :=
  let bad := l.any Val.isSig || (l.any (fun v => v == .inf false) && l.any (fun v => v == .inf true))
  match l with
  | [] => (.fin false 0 0, 0)
  | v :: l => ((l.foldl (fun a b => (addVal rm a b).1) (match v with
      | .nan _ => .nan false
      | v => v)), flagIf bad fNV)

/-- The combination of the listed elements under an operation 0 add, 1 min, 2 max, 3 and, 4 or, 5 xor (R257); d is
the draw of the last of them. -/
def combine (t op : Nat) (m : BitVec 12) (d : Nat) (l : List Nat) : Nat × Flags :=
  let w := laneWidth t
  match op with
  | 0 =>
    if isIntType t then (l.foldl (fun a b => (a + b) % 2 ^ w) 0, 0)
    else if l.isEmpty then (0, 0)
    else fRound (fmtOf t) m d (sumVals (rmOf m) (l.map (fRd (fmtOf t) m)))
  | 1 | 2 =>
    let isMax := op == 2
    match l with
    | [] =>
      if isIntType t then (wrap w (if isMax then (intRange t).1 else (intRange t).2), 0)
      else (fSgn (fmtOf t) ((fmtOf t).maxCode false + 1) (if isMax then 2 ^ (w - 1) else 0), 0)
    | x :: l =>
      if isIntType t then (l.foldl (intMinMax isMax t) x, 0)
      else
        let f := fmtOf t
        let x0 := fMinMax isMax f m x x
        l.foldl (fun a b =>
          let r := fMinMax isMax f m a.1 b
          (r.1, a.2 ||| r.2)) x0
  | 3 => (l.foldl (fun a b => a &&& b) (2 ^ w - 1), 0)
  | 4 => (l.foldl (fun a b => a ||| b) 0, 0)
  | _ => (l.foldl (fun a b => a ^^^ b) 0, 0)

/-- The active elements of a vector below index n, in order. -/
def activeElems (t : Nat) (g : Pred) (x : Vec) (n : Nat) : List Nat :=
  ((List.range n).filter (active g (laneWidth t))).map (lane (laneWidth t) x)

/-- Whether VREDS and VSCAN take draws: a float add under RSR (R257). -/
def redDraws (t op : Nat) (m : BitVec 12) : Bool := op == 0 && !isIntType t && rmOf m == 4

/-- The elements of a float vector that raise NV as signalling NaNs, by element (R224, R257). -/
def sigElems (t : Nat) (g : Pred) (m : BitVec 12) (x : Vec) : List Flags :=
  let w := laneWidth t
  (List.range (laneCount t)).map (fun i => flagIf (active g w i && (fRd (fmtOf t) m (lane w x i)).isSig) fNV)

/-- VREDS (R257): the flags of a sum belong to its one result, those of a minimum or maximum to the elements. -/
def vreds (t op : Nat) (g : Pred) (m : BitVec 12) (seed : Word) (x : Vec) : VRes :=
  let l := activeElems t g x (laneCount t)
  let seed' := if redDraws t op m then drawN l.length seed else seed
  let d := if redDraws t op m then bitsOf seed' 48 16 else 0
  let r := combine t op m d l
  let elems := if op = 0 || isIntType t || 2 < op then [r.2] else sigElems t g m x
  .ofVec (BitVec.ofNat 512 (r.1 % 2 ^ laneWidth t)) elems seed'

/-- VSCAN (R258). -/
def vscan (t op : Nat) (g : Pred) (m : BitVec 12) (seed : Word) (x z : Vec) : VRes :=
  mapLanes t g m (redDraws t op m) seed z (fun i d => combine t op m d (activeElems t g x (i + 1)))

/-- VPERM (R259). -/
def vperm (t : Nat) (g : Pred) (seed : Word) (x y z : Vec) : VRes :=
  let w := laneWidth t
  mapLanes t g 0 false seed z (fun i _ => (lane w x (lane w y i % laneCount t), 0))

/-- VCMPR: the governed elements packed from element 0 (R260). -/
def vcmpr (t : Nat) (g : Pred) (seed : Word) (x : Vec) : VRes :=
  .ofVec (BitVec.ofNat 512 (packList (laneWidth t) (activeElems t g x (laneCount t)))) [] seed

/-- VEXPD: the elements from 0 on spread over the governed ones (R260). -/
def vexpd (t : Nat) (g : Pred) (seed : Word) (x : Vec) : VRes :=
  let w := laneWidth t
  .ofVec (vecOf w (laneCount t) (fun i =>
    if active g w i then lane w x (((List.range i).filter (active g w)).length) else 0)) [] seed

/-- VTRN on one element: 0 exp2, 1 log2, 2 sin, 3 cos, 4 sqrt (R262). For f16 and bf16 the exact function is
approximated in the lane type itself. -/
def trnElem (t fn : Nat) (m : BitVec 12) (d x : Nat) : Nat × Flags :=
  if fn = 4 then fSqrt (fmtOf t) m d x else transFn fn (fmtOf t) m x

/-- What a vector instruction computes from its operands: x = va, y = vb, z = vd before, a and b the scalar operands,
old the destination predicate before, g the guard. -/
def vecCompute (i : Instr) (m : BitVec 12) (seed : Word) (g : Pred) (x y z : Vec) (a b : Word) (old : Pred) :
    VRes :=
  match i with
  | .vadd t _ _ _ _ _ => mapLanes t.val g m (!isIntType t.val) seed z
      (elem2 t.val (fun u v => u + v) (fun f d u v => fAdd f m d u v) x y)
  | .vsub t _ _ _ _ _ => mapLanes t.val g m (!isIntType t.val) seed z
      (elem2 t.val (fun u v => u + (2 ^ laneWidth t.val - v)) (fun f d u v => fSub f m d u v) x y)
  | .vmul t _ _ _ _ _ => mapLanes t.val g m (!isIntType t.val) seed z
      (elem2 t.val (fun u v => u * v) (fun f d u v => fMul f m d u v) x y)
  | .vfma t _ _ _ _ _ => mapLanes t.val g m (!isIntType t.val) seed z (fun k d =>
      let w := laneWidth t.val
      if isIntType t.val then (lane w x k * lane w y k + lane w z k, 0)
      else fFma (fmtOf t.val) m d (lane w x k) (lane w y k) (lane w z k))
  | .vmin t _ _ _ _ _ => mapLanes t.val g m false seed z
      (elem2 t.val (intMinMax false t.val) (fun f _ u v => fMinMax false f m u v) x y)
  | .vmax t _ _ _ _ _ => mapLanes t.val g m false seed z
      (elem2 t.val (intMinMax true t.val) (fun f _ u v => fMinMax true f m u v) x y)
  | .vsgn t _ _ _ _ _ => mapLanes t.val g m false seed z
      (elem2 t.val (intSgn t.val) (fun f _ u v => (fSgn f u v, 0)) x y)
  | .vcmp t c _ _ _ _ _ => vcmp t.val c.val g m seed x y old
  | .vand t _ _ _ _ _ => mapLanes t.val g m false seed z (fun k _ =>
      (lane (laneWidth t.val) x k &&& lane (laneWidth t.val) y k, 0))
  | .vor t _ _ _ _ _ => mapLanes t.val g m false seed z (fun k _ =>
      (lane (laneWidth t.val) x k ||| lane (laneWidth t.val) y k, 0))
  | .vxor t _ _ _ _ _ => mapLanes t.val g m false seed z (fun k _ =>
      (lane (laneWidth t.val) x k ^^^ lane (laneWidth t.val) y k, 0))
  | .vsel t _ _ _ _ _ => mapLanes t.val 0xFFFF m false seed z (fun k _ =>
      (if active g (laneWidth t.val) k then lane (laneWidth t.val) x k else lane (laneWidth t.val) y k, 0))
  | .vshl t _ _ _ _ _ => mapLanes t.val g m false seed z (fun k _ =>
      (lane (laneWidth t.val) x k * 2 ^ (lane (laneWidth t.val) y k % laneWidth t.val), 0))
  | .vshr t _ _ _ _ _ => mapLanes t.val g m false seed z (fun k _ =>
      (lane (laneWidth t.val) x k / 2 ^ (lane (laneWidth t.val) y k % laneWidth t.val), 0))
  | .vsha t _ _ _ _ _ => mapLanes t.val g m false seed z (fun k _ =>
      (wrap (laneWidth t.val) (sgn (laneWidth t.val) (lane (laneWidth t.val) x k) /
        2 ^ (lane (laneWidth t.val) y k % laneWidth t.val)), 0))
  | .viota t _ _ _ => mapLanes t.val g m false seed z (fun k _ => (k, 0))
  | .vcvt t y' _ _ _ _ => vcvt t.val y'.val g m seed x z
  | .vqnt f _ _ _ _ _ => vqnt f.val g m seed x y
  | .vdot t _ _ _ _ _ => vdot t.val g m seed x y z
  | .vreds t o _ _ _ _ => vreds t.val o.val g m seed x
  | .vscan t o _ _ _ _ => vscan t.val o.val g m seed x z
  | .vperm t _ _ _ _ _ => vperm t.val g seed x y z
  | .vbcst t _ _ _ _ => mapLanes t.val g m false seed z (fun _ _ => (a.toNat, 0))
  | .vcmpr t _ _ _ _ => vcmpr t.val g seed x
  | .vexpd t _ _ _ _ => vexpd t.val g seed x
  | .vgetl t _ _ _ _ _ =>
    let w := laneWidth t.val
    let j := b.toNat % laneCount t.val
    let e := lane w x j
    { vec := 0, pred := 0, elems := [], seed := seed, writes := active g w j
      word := if isIntType t.val && t.val != 1 then BitVec.ofInt 64 (sgn w e) else BitVec.ofNat 64 e }
  | .vsetl t _ _ _ _ _ => mapLanes t.val g m false seed z (fun k _ =>
      (if k = b.toNat % laneCount t.val then a.toNat else lane (laneWidth t.val) z k, 0))
  | .vrcp t _ _ _ _ => mapLanes t.val g m false seed z (fun k _ =>
      rcpFn 0 (fmtOf t.val) m (lane (laneWidth t.val) x k))
  | .vrsq t _ _ _ _ => mapLanes t.val g m false seed z (fun k _ =>
      rcpFn 1 (fmtOf t.val) m (lane (laneWidth t.val) x k))
  | .vtrn t n _ _ _ _ => mapLanes t.val g m (n.val == 4) seed z (fun k d =>
      trnElem t.val n.val m d (lane (laneWidth t.val) x k))
  | _ => .ofVec z [] seed

end Sys2Proof.Machine
end

