-- ==== Sys2Proof/Machine/Tagged.lean ====
section
/-! DEFINITION. Sys2Proof/Machine/Tagged.lean: the conversions of VLDF and VSTF between a page's element format and a
lane type (R207, R214, R300-R302). -/

namespace Sys2Proof.Machine

/-- Element width in memory of a tag: 8 for the 6-bit formats (R207, R300). -/
def tagBits (fmt : Nat) : Nat :=
  match fmt with
  | 1 | 3 => 4
  | 9 | 10 => 16
  | 11 => 32
  | 12 => 64
  | _ => 8

/-- The float format of a tag; int4 and int8 have none (R207). -/
def tagFmt (fmt : Nat) : Fmt :=
  match fmt with
  | 3 => .e2m1
  | 4 => .e2m3
  | 5 => .e3m2
  | 6 => .e4m3
  | 7 => .e5m2
  | 8 => .yt8
  | 9 => .f16
  | 10 => .bf16
  | 11 => .f32
  | _ => .f64

/-- Whether a tag holds integers (R207). -/
def tagInt (fmt : Nat) : Bool := fmt == 1 || fmt == 2

/-- The pairs of lane type and tag of R300, GEOM apart. -/
def tagPair (t fmt : Nat) : Bool :=
  if isIntType t then tagInt fmt else decide (1 ≤ fmt ∧ fmt ≤ 12)

/-- Whether a tag is the lane type itself (R301). -/
def tagSame (t fmt : Nat) : Bool :=
  (t == 2 && fmt == 11) || (t == 3 && fmt == 9) || (t == 4 && fmt == 10) || (t == 5 && fmt == 12)

/-- The bytes that all lanes of a type span on a page of a tag (R300). -/
def tagSpan (t fmt : Nat) : Nat := laneCount t * tagBits fmt / 8

/-- The scale address of the data byte at an address (R214). -/
def scaleAddr (va : Word) (geom : Nat) : Word := BitVec.ofNat 64 (scaleBase + va.toNat / 2 ^ (geom + 3))

/-- A value times a block scale byte, 2^(s-127) or its inverse, or NaN (R214, R301, R302). -/
def applyScale (inverse : Bool) (s : Nat) (v : Val) : Val :=
  if s = 255 then (if v.isNan then v else .nan false)
  else shiftVal v (if inverse then 127 - (s : Int) else (s : Int) - 127)

/-- The value of an element of a tag, read for a lane type (R300, R301). -/
def tagVal (t fmt : Nat) (m : BitVec 12) (x : Nat) : Val :=
  if tagInt fmt then
    let w := tagBits fmt
    ofInt (if t = 1 then ((x % 2 ^ w : Nat) : Int) else (BitVec.ofNat w x).toInt)
  else fRd (tagFmt fmt) m (x % 2 ^ (tagFmt fmt).width)

/-- Whether the conversion between a lane type and a tag takes draws under RSR (R301, R302). -/
def tagDraws (t fmt geom : Nat) (m : BitVec 12) : Bool :=
  rmOf m == 4 && !(isIntType t && tagInt fmt) && !(tagSame t fmt && geom == 0)

/-- VLDF's conversion: element codes and scale bytes by element, vd before (R301). -/
def tagLoad (t fmt geom : Nat) (g : Pred) (m : BitVec 12) (seed : Word) (codes scales : List Nat) (old : Vec) :
    VRes :=
  let w := laneWidth t
  let r := runLanes (active g w) (tagDraws t fmt geom m) (fun i d =>
    let c := codes.getD i 0
    if tagSame t fmt && geom == 0 then (c, 0)
    else
      let v := tagVal t fmt m c
      let v := if geom = 0 then v else applyScale false (scales.getD i 0) v
      if isIntType t then (wrap w (packInt false (rmOf m) d (intRange t).1 (intRange t).2 v).1, 0)
      else fRound (fmtOf t) m d (v, 0)) (lane w old) (laneCount t) 0 seed
  .ofVec (BitVec.ofNat 512 (packList w (r.1.map Prod.fst))) (r.1.map Prod.snd) r.2

/-- The range of an integer tag for a lane type (R300, R302). -/
def tagRange (t fmt : Nat) : Int × Int :=
  let w := tagBits fmt
  if t = 1 then (0, 2 ^ w - 1) else (-(2 ^ (w - 1)), 2 ^ (w - 1) - 1)

/-- VSTF's conversion: the code of each element with its flags, and the generator afterwards (R302). -/
def tagStore (t fmt geom : Nat) (g : Pred) (m : BitVec 12) (seed : Word) (x : Vec) (scales : List Nat) :
    List (Nat × Flags) × Word :=
  let w := laneWidth t
  runLanes (active g w) (tagDraws t fmt geom m) (fun i d =>
    let c := lane w x i
    if tagSame t fmt && geom == 0 then (c, 0)
    else
      let v := laneVal t m c
      let v := if geom = 0 then v else applyScale true (scales.getD i 0) v
      if tagInt fmt then
        let r := packInt true (rmOf m) d (tagRange t fmt).1 (tagRange t fmt).2 v
        (wrap (tagBits fmt) r.1, r.2)
      else fRound (tagFmt fmt) m d (v, 0)) (fun _ => 0) (laneCount t) 0 seed

/-- What a big core converts for VLDF or VSTF with f64 lanes: x the codes or lanes, y the scale bytes one to a lane,
word the tag and GEOM (R179). -/
def tagShipped (load : Bool) (g : Pred) (m : BitVec 12) (seed : Word) (x y old : Vec) (word : Word) : VRes :=
  let scales := (List.range 8).map (lane 64 y)
  let fmt := bitsOf word 0 4
  let geom := bitsOf word 4 2
  if load then tagLoad 5 fmt geom g m seed ((List.range 8).map (lane 64 x)) scales old
  else
    let r := tagStore 5 fmt geom g m seed x scales
    .ofVec (BitVec.ofNat 512 (packList 64 (r.1.map Prod.fst))) (r.1.map Prod.snd) r.2

end Sys2Proof.Machine
end

