-- ==== Sys2Proof/Machine/Heavy.lean ====
section
/-! DEFINITION. Sys2Proof/Machine/Heavy.lean: heavy instructions (R150, R172-R185): what a big core computes, execution
in place on a big core or in serial-ship mode, and the request a little core sends. -/

namespace Sys2Proof.Machine

/-- What a heavy scalar instruction computes from its operands with draw d (R233-R241). -/
def scalarHeavy (i : Instr) (m : BitVec 12) (d a b c : Nat) : Nat × Flags :=
  match i with
  | .dadd .. => fAdd .f64 m d a b
  | .dsub .. => fSub .f64 m d a b
  | .dmul .. => fMul .f64 m d a b
  | .ddiv .. => fDiv .f64 m d a b
  | .dsqrt .. => fSqrt .f64 m d a
  | .dmin .. => fMinMax false .f64 m a b
  | .dmax .. => fMinMax true .f64 m a b
  | .dcmp .. => fCmp .f64 m a b
  | .dcvt x y _ _ _ => fConvert x.val y.val m d a
  | .fexp2 .. => transFn 0 .f32 m a
  | .flog2 .. => transFn 1 .f32 m a
  | .fsin .. => transFn 2 .f32 m a
  | .fcos .. => transFn 3 .f32 m a
  | .fdiv .. => fDiv .f32 m d a b
  | .fsqrt .. => fSqrt .f32 m d a
  | .dfma .. => fFma .f64 m d a b c
  | _ => (0, 0)

/-- Heavy scalar instructions that round, and so take one draw under RSR (R242). -/
def scalarRounds (i : Instr) : Bool :=
  match i with
  | .dadd .. | .dsub .. | .dmul .. | .ddiv .. | .dsqrt .. | .dcvt .. | .fdiv .. | .fsqrt .. | .dfma .. => true
  | _ => false

/-- Whether an instruction is one of the heavy scalar ones (R241). -/
def isScalarHeavy (i : Instr) : Bool :=
  match i with
  | .dmin .. | .dmax .. | .dcmp .. | .fexp2 .. | .flog2 .. | .fsin .. | .fcos .. => true
  | i => scalarRounds i

/-- A reply's content as every big core computes it from a request (R175, R178): the scalar result stands in word.
For VCMP, c carries the destination predicate that the sender merges under the guard (R263). -/
def heavyResult (i : Instr) (m : BitVec 12) (seed : Word) (g : Pred) (x y z : Vec) (a b c : Word) : VRes :=
  if isScalarHeavy i then
    let dr := if scalarRounds i then drawFor m seed else (0, seed)
    let r := scalarHeavy i m dr.1 a.toNat b.toNat c.toNat
    { vec := 0, pred := 0, word := BitVec.ofNat 64 r.1, writes := true, elems := [r.2], seed := dr.2 }
  else match i with
    | .vldf .. => tagShipped true g m seed x y z a
    | .vstf .. => tagShipped false g m seed x y z a
    | _ => vecCompute i m seed g x y z a b (c.setWidth 16)

/-- Where an instruction's result goes. -/
inductive Dst where
  | v (n : Fin 32) | g (n : Fin 32) | p (n : Fin 8)
deriving DecidableEq, Repr

/-- The register of a destination; g0 and p0 discard (R101). -/
def Dst.reg : Dst → Option Reg
  | .v n => some (.v n)
  | .g n => if n = 0 then none else some (.g n)
  | .p n => if n = 0 then none else some (.p n)

/-- Writes a result with a fixed latency. -/
def putDst (t : Thread) (now lat : Nat) (d : Dst) (r : VRes) : Thread :=
  match d with
  | .v n => t.putV now lat n r.vec
  | .g n => if r.writes then t.putG now lat n r.word else t
  | .p n => t.putP now lat n r.pred

/-- Writes a result as a scoreboarded one. -/
def loadDst (t : Thread) (d : Dst) (r : VRes) (why : BusyBy) : Thread :=
  match d with
  | .v n => t.loadV n r.vec why
  | .g n => if r.writes then t.loadG n r.word why else t
  | .p n => t.loadP n r.pred why

/-- Ends an instruction whose result has been computed in the core: FPE for an enabled flag, else result, flags and
generator (R224, R247). lat = 0: scoreboarded. -/
def computed (lat : Nat) (d : Dst) (z : Fin 8) (r : VRes) (s : State) : Out :=
  s.withFlags r.elems (fun fl =>
    let t := if lat = 0 then loadDst s.cur d r .unit else putDst s.cur s.cycle lat d r
    .next (s.done 4 z ((t.raise fl).seedTo r.seed)))

/-- The trap of a shipped fault: its record names the executing big core (R183, R184, R243). -/
def trapShipped (s : State) (cause : Nat) (val val2 : Word) (cluster : Nat) : State :=
  takeTrapRec s s.cur.r.pc (fun t =>
    { recordOf t t.cur cause t.cur.r.pc val val2 with shipped := true, xclu := some cluster })

/-- Reply slots in use on a core (R173). -/
def coreSlots (s : State) (core : Nat) : Nat :=
  s.threads.foldl (fun n t => if coreOf t.tid = core then n + t.slots else n) 0

/-- The lowest free reply slot of a core (R173, R174). -/
def freeSid (s : State) (core : Nat) : Nat :=
  ((List.range 16).find? (fun k => !s.ships.any (fun x => coreOf x.tid == core && x.sid == k))).getD 0

/-- Whether a thread has a reply slot to take: it holds at most 4 of its core's 16 (R154, R173). -/
def slotFree (s : State) (t : Thread) : Bool := decide (t.slots < 4 ∧ coreSlots s (coreOf t.tid) < 16)

/-- The request of the issuing thread for an instruction, with its guard and operand values (R174); an AtomicOp that the host has
performed for an earlier attempt is not asked for again (R338). -/
def requestFor (s : State) (i : Instr) (cluster : Nat) (g : Pred) (x y v : Vec) (a b c : Word) : Ship :=
  let t := s.cur
  { id := s.nextShip, tid := t.tid, asid := t.asid, fmode := t.r.fmode, seed := t.r.srseed, gen := t.ex.gen,
    seq := t.ex.count, sid := freeSid s (coreOf t.tid), since := s.cycle, instr := i, guard := g, a := a, b := b, c := c,
    x := x, y := y, z := v, cluster := cluster, admitted := false, pool := false, retryAt := 0, issued := false, cancelled := false,
    asked := t.ex.answer.isSome, hostOk := t.ex.answer.map (fun r => r.1 == 0), hostVal := BitVec.ofNat 128 (t.ex.lanes.headD 0),
    chunk := none, replied := false, status := 0, cause := 0, flags := 0, result := 0,
    writes := true, val := 0, val2 := 0 }

/-- A request leaves, and its reply slot is taken (R173). -/
def sendRequest (s : State) (k : Ship) : State :=
  { s with ships := s.ships ++ [k], nextShip := s.nextShip + 1, cur := { s.cur with slots := s.cur.slots + 1 } }

/-- Ships a heavy instruction: a reply slot is taken, the destination becomes busy, the generator advances by the
draws the instruction takes, and the request leaves with its operand values; without a free reply slot the thread is
not ready (R154, R173, R174). In serial-ship mode the thread is held until the reply (R184). -/
def shipOut (i : Instr) (d : Dst) (z : Fin 8) (g : Pred) (x y v : Vec) (a b c : Word) (seed : Word)
    (s : State) : Out :=
  if !slotFree s s.cur then .next s.stall
  else
    let id := s.nextShip
    let s := sendRequest s (requestFor s i (clusterOf s.cur.tid) g x y v a b c)
    let t := match d.reg with
      | some r => s.cur.hold r (.ship id)
      | none => s.cur
    .next (s.done 4 z { t.seedTo seed with wait := if t.ex.serialShip then .ship id else t.wait })

/-- Ships a heavy instruction that closes its chunk: the thread is held at it until the reply (R170, R173). -/
def shipClosing (i : Instr) (cluster : Nat) (x y : Vec) (a : Word) (seed : Word) (s : State) : Out :=
  if !slotFree s s.cur then .next s.stall
  else
    let id := s.nextShip
    let s := sendRequest s (requestFor s i cluster 0 x y 0 a 0 0)
    .next (s.withCur { s.cur.seedTo seed with wait := .ship id })

/-- What a 128-bit atomic or a matrix job comes to where it executes: not yet, first an AtomicOp at the host, a pinned
chunk's footprint outgrown, a fault, or its reads and writes entered in the chunk, with what goes to the destination
registers, the flags and the generator (R328, R353, R357). -/
inductive Remote where
  | later (s : State)
  | ask
  | outgrown (s : State)
  | trap (cause : Nat) (val val2 : Word)
  | nomem (pa : Nat)
  | done (s : State) (result : Vec) (fl : Flags) (seed : Word)

/-- The accesses of such an instruction, performed at once where nothing holds them back. -/
def remotely (s : State) (ps : List Probe) (k : State → Remote) : Remote :=
  match holdOf s ps with
  | some (.poison va) => .trap cPOISON va 0
  | some .outgrown => .outgrown s
  | some _ => .later s
  | none => match serialNodes s ps with
    | none => .later s
    | some s => k s

/-- The end of such an instruction in a thread of a big core itself (R163). -/
def native (o : Remote) (z : Fin 8) (put : Thread → Vec → Thread) (s : State) : Out :=
  match o with
  | .later s => .next s.stall
  | .ask => .next (s.withCur { s.cur with wait := .host })
  | .outgrown s => .next (outgrow s)
  | .trap c v w => s.trapMem c v w
  | .nomem p => .fault (.noMemory p)
  | .done s x fl seed => .next (s.closed 4 z (put ((s.cur.raise fl).seedTo seed) x))

/-- A heavy instruction: in place on a big core, else shipped to the big core of the sender's cluster (R150, R163,
R176). -/
def heavy (i : Instr) (srcs : List Reg) (d : Dst) (z : Fin 8) (g : Pred) (x y v : Vec) (a b c : Word)
    (s : State) : Out :=
  let r := heavyResult i s.cur.r.fmode s.cur.r.srseed g x y v a b c
  s.check srcs
    (if isBig s.cur.tid then computed 1 d z r s
     else shipOut i d z g x y v a b c r.seed s)

/-- A guard field as a predicate register. -/
def guardReg (g : Fin 4) : Fin 8 := ⟨g.val, by omega⟩

/-- A vector instruction: local with a fixed latency or scoreboarded (lat = 0), or heavy for f64 and where the opcode
is (R150, R157, R264). -/
def vecInstr (i : Instr) (isHeavy : Bool) (lat : Nat) (srcs : List Reg) (d : Dst) (z : Fin 8) (g : Fin 4)
    (x y v : Vec) (a b : Word) (old : Pred) (s : State) : Out :=
  let gv := s.rp (guardReg g)
  let srcs := srcs ++ [.p (guardReg g)]
  if isHeavy then heavy i srcs d z gv x y v a b (old.setWidth 64) s
  else
    s.check srcs (computed lat d z (vecCompute i s.cur.r.fmode s.cur.r.srseed gv x y v a b old) s)

end Sys2Proof.Machine
end

