-- ==== Sys2Proof/Machine/Vector.lean ====
section
/-! DEFINITION. Sys2Proof/Machine/Vector.lean: the vector instructions (R247-R262). Each names what vecCompute computes,
its latency class (R157), the registers it reads (R264) and its destination. -/

namespace Sys2Proof.Machine

/-- vd among the sources where inactive elements keep it: read unless the guard is p0 (R264). -/
def keepSrc (g : Fin 4) (d : Fin 32) : List Reg := if g = 0 then [] else [.v d]

/-- A vector instruction of two sources whose inactive elements keep vd. -/
def vec2 (i : Instr) (isHeavy : Bool) (t : Nat) (always : Bool) (lat : Nat) (g : Fin 4) (d a b : Fin 32)
    (z : Fin 8) (s : State) : Out :=
  vecInstr i (isHeavy || t == 5) lat ([.v a, .v b] ++ (if always then [.v d] else keepSrc g d)) (.v d) z g
    (s.rv a) (s.rv b) (s.rv d) 0 0 0 s

/-- A vector instruction of one source whose inactive elements keep vd. -/
def vec1 (i : Instr) (isHeavy : Bool) (keeps : Bool) (lat : Nat) (g : Fin 4) (d a : Fin 32) (z : Fin 8)
    (s : State) : Out :=
  vecInstr i isHeavy lat ([.v a] ++ (if keeps then keepSrc g d else [])) (.v d) z g (s.rv a) 0 (s.rv d) 0 0 0 s

/-- VADD (R249). -/
def execVadd (t : Fin 8) (g : Fin 4) (d a b : Fin 32) (z : Fin 8) (s : State) : Out :=
  vec2 (.vadd t g d a b z) false t.val false 6 g d a b z s

/-- VSUB (R249). -/
def execVsub (t : Fin 8) (g : Fin 4) (d a b : Fin 32) (z : Fin 8) (s : State) : Out :=
  vec2 (.vsub t g d a b z) false t.val false 6 g d a b z s

/-- VMUL (R249). -/
def execVmul (t : Fin 8) (g : Fin 4) (d a b : Fin 32) (z : Fin 8) (s : State) : Out :=
  vec2 (.vmul t g d a b z) false t.val false 6 g d a b z s

/-- VFMA (R249). -/
def execVfma (t : Fin 8) (g : Fin 4) (d a b : Fin 32) (z : Fin 8) (s : State) : Out :=
  vec2 (.vfma t g d a b z) false t.val true 6 g d a b z s

/-- VMIN (R249). -/
def execVmin (t : Fin 8) (g : Fin 4) (d a b : Fin 32) (z : Fin 8) (s : State) : Out :=
  vec2 (.vmin t g d a b z) false t.val false 6 g d a b z s

/-- VMAX (R249). -/
def execVmax (t : Fin 8) (g : Fin 4) (d a b : Fin 32) (z : Fin 8) (s : State) : Out :=
  vec2 (.vmax t g d a b z) false t.val false 6 g d a b z s

/-- VSGN (R249). -/
def execVsgn (t : Fin 8) (g : Fin 4) (d a b : Fin 32) (z : Fin 8) (s : State) : Out :=
  vec2 (.vsgn t g d a b z) false t.val false 6 g d a b z s

/-- VAND (R251). -/
def execVand (t : Fin 8) (g : Fin 4) (d a b : Fin 32) (z : Fin 8) (s : State) : Out :=
  vec2 (.vand t g d a b z) false t.val false 6 g d a b z s

/-- VOR (R251). -/
def execVor (t : Fin 8) (g : Fin 4) (d a b : Fin 32) (z : Fin 8) (s : State) : Out :=
  vec2 (.vor t g d a b z) false t.val false 6 g d a b z s

/-- VXOR (R251). -/
def execVxor (t : Fin 8) (g : Fin 4) (d a b : Fin 32) (z : Fin 8) (s : State) : Out :=
  vec2 (.vxor t g d a b z) false t.val false 6 g d a b z s

/-- VSHL (R251). -/
def execVshl (t : Fin 8) (g : Fin 4) (d a b : Fin 32) (z : Fin 8) (s : State) : Out :=
  vec2 (.vshl t g d a b z) false t.val false 6 g d a b z s

/-- VSHR (R251). -/
def execVshr (t : Fin 8) (g : Fin 4) (d a b : Fin 32) (z : Fin 8) (s : State) : Out :=
  vec2 (.vshr t g d a b z) false t.val false 6 g d a b z s

/-- VSHA (R251). -/
def execVsha (t : Fin 8) (g : Fin 4) (d a b : Fin 32) (z : Fin 8) (s : State) : Out :=
  vec2 (.vsha t g d a b z) false t.val false 6 g d a b z s

/-- VDOT (R256). -/
def execVdot (t : Fin 8) (g : Fin 4) (d a b : Fin 32) (z : Fin 8) (s : State) : Out :=
  vec2 (.vdot t g d a b z) false t.val true 0 g d a b z s

/-- VPERM (R259). -/
def execVperm (t : Fin 8) (g : Fin 4) (d a b : Fin 32) (z : Fin 8) (s : State) : Out :=
  vec2 (.vperm t g d a b z) false t.val false 8 g d a b z s

/-- VCMP (R250): pd is read where the guard may leave a bit of it. -/
def execVcmp (t : Fin 8) (c : Fin 4) (p : Fin 8) (g : Fin 4) (a b : Fin 32) (z : Fin 8) (s : State) : Out :=
  vecInstr (.vcmp t c p g a b z) (t.val == 5) 6 ([.v a, .v b] ++ (if g = 0 then [] else [.p p])) (.p p) z g
    (s.rv a) (s.rv b) 0 0 0 (s.rp p) s

/-- VSEL (R251): the guard field is the selector. -/
def execVsel (t : Fin 8) (g : Fin 4) (d a b : Fin 32) (z : Fin 8) (s : State) : Out :=
  vecInstr (.vsel t g d a b z) (t.val == 5) 6 [.v a, .v b] (.v d) z g (s.rv a) (s.rv b) (s.rv d) 0 0 0 s

/-- VIOTA (R251). -/
def execViota (t : Fin 8) (g : Fin 4) (d : Fin 32) (z : Fin 8) (s : State) : Out :=
  vecInstr (.viota t g d z) false 6 (keepSrc g d) (.v d) z g 0 0 (s.rv d) 0 0 0 s

/-- VCVT (R252): heavy from or to f64. -/
def execVcvt (t y : Fin 8) (g : Fin 4) (d a : Fin 32) (z : Fin 8) (s : State) : Out :=
  vec1 (.vcvt t y g d a z) (t.val == 5 || y.val == 5) true 6 g d a z s

/-- VQNT (R255): local in every format. -/
def execVqnt (f : Fin 8) (g : Fin 4) (d a b : Fin 32) (z : Fin 8) (s : State) : Out :=
  vecInstr (.vqnt f g d a b z) false 6 [.v a, .v b] (.v d) z g (s.rv a) (s.rv b) (s.rv d) 0 0 0 s

/-- VREDS (R257). -/
def execVreds (t o : Fin 8) (g : Fin 4) (d a : Fin 32) (z : Fin 8) (s : State) : Out :=
  vec1 (.vreds t o g d a z) (t.val == 5) false 0 g d a z s

/-- VSCAN (R258). -/
def execVscan (t o : Fin 8) (g : Fin 4) (d a : Fin 32) (z : Fin 8) (s : State) : Out :=
  vec1 (.vscan t o g d a z) (t.val == 5) true 0 g d a z s

/-- VBCST (R259). -/
def execVbcst (t : Fin 8) (g : Fin 4) (d a : Fin 32) (z : Fin 8) (s : State) : Out :=
  vecInstr (.vbcst t g d a z) (t.val == 5) 6 ([.g a] ++ keepSrc g d) (.v d) z g 0 0 (s.rv d) (s.rg a) 0 0 s

/-- VCMPR (R260). -/
def execVcmpr (t : Fin 8) (g : Fin 4) (d a : Fin 32) (z : Fin 8) (s : State) : Out :=
  vec1 (.vcmpr t g d a z) (t.val == 5) false 8 g d a z s

/-- VEXPD (R260). -/
def execVexpd (t : Fin 8) (g : Fin 4) (d a : Fin 32) (z : Fin 8) (s : State) : Out :=
  vec1 (.vexpd t g d a z) (t.val == 5) false 8 g d a z s

/-- VGETL (R261): gd is not written where the element is inactive. -/
def execVgetl (t : Fin 8) (g : Fin 4) (d a b : Fin 32) (z : Fin 8) (s : State) : Out :=
  vecInstr (.vgetl t g d a b z) (t.val == 5) 6 [.v a, .g b] (.g d) z g (s.rv a) 0 0 0 (s.rg b) 0 s

/-- VSETL (R261). -/
def execVsetl (t : Fin 8) (g : Fin 4) (d a b : Fin 32) (z : Fin 8) (s : State) : Out :=
  vecInstr (.vsetl t g d a b z) (t.val == 5) 6 [.g a, .g b, .v d] (.v d) z g 0 0 (s.rv d) (s.rg a) (s.rg b) 0 s

/-- VRCP (R262). -/
def execVrcp (t : Fin 8) (g : Fin 4) (d a : Fin 32) (z : Fin 8) (s : State) : Out :=
  vec1 (.vrcp t g d a z) (t.val == 5) true 6 g d a z s

/-- VRSQ (R262). -/
def execVrsq (t : Fin 8) (g : Fin 4) (d a : Fin 32) (z : Fin 8) (s : State) : Out :=
  vec1 (.vrsq t g d a z) (t.val == 5) true 6 g d a z s

/-- VTRN (R262): heavy for every type. -/
def execVtrn (t n : Fin 8) (g : Fin 4) (d a : Fin 32) (z : Fin 8) (s : State) : Out :=
  vec1 (.vtrn t n g d a z) true true 6 g d a z s

end Sys2Proof.Machine
end

