-- ==== Sys2Proof/Machine/Mem.lean ====
section
/-! DEFINITION. Sys2Proof/Machine/Mem.lean: the memory and copy instructions (R204, R292-R309). -/

namespace Sys2Proof.Machine

/-- A scalar load: n bytes at an address, which must be a multiple of n, go to a register (R296). -/
def loadScalar (len n : Nat) (srcs : List Reg) (ea : Word) (put : Thread → Nat → Thread) (z : Fin 8) (s : State) :
    Out :=
  s.check srcs (s.access1 ea n n .read (fun s c l => s.reading n [(ea, l)] (fun s =>
    .next (s.finish c len z (put (noteRead s.cur l) (readNum s s.cur l n))))))

/-- A scalar store of the low n bytes of a word (R296). -/
def storeScalar (len n : Nat) (srcs : List Reg) (ea x : Word) (z : Fin 8) (s : State) : Out :=
  s.check srcs (s.access1 ea n n .write (fun s c l => .next (s.finish c len z (storeNum s.cur ea l n x.toNat))))

/-- The address of a scalar access: ga plus the immediate in units of n (R296). -/
def scalarAddr (s : State) (n : Nat) (a : Fin 32) (i : BitVec 10) : Word :=
  s.rg a + i.signExtend 64 * BitVec.ofNat 64 n

/-- LD (R296). -/
def execLd (w : Fin 4) (d a : Fin 32) (i : BitVec 10) (z : Fin 8) (s : State) : Out :=
  loadScalar 4 (2 ^ w.val) [.g a] (scalarAddr s (2 ^ w.val) a i)
    (fun t x => t.loadG d (sextBytes (2 ^ w.val) x) .load) z s

/-- LDZ (R296). -/
def execLdz (w : Fin 4) (d a : Fin 32) (i : BitVec 10) (z : Fin 8) (s : State) : Out :=
  loadScalar 4 (2 ^ w.val) [.g a] (scalarAddr s (2 ^ w.val) a i)
    (fun t x => t.loadG d (BitVec.ofNat 64 x) .load) z s

/-- ST (R296): d names the source. -/
def execSt (w : Fin 4) (d a : Fin 32) (i : BitVec 10) (z : Fin 8) (s : State) : Out :=
  storeScalar 4 (2 ^ w.val) [.g a, .g d] (scalarAddr s (2 ^ w.val) a i) (s.rg d) z s

/-- LD.D.C (R146): the offset is 0 to 248. -/
def execLdDC (d a : Fin 8) (i : BitVec 5) (s : State) : Out :=
  loadScalar 2 8 [.g (r8 a)] (s.rg (r8 a) + BitVec.ofNat 64 (8 * i.toNat))
    (fun t x => t.loadG (r8 d) (BitVec.ofNat 64 x) .load) 0 s

/-- ST.D.C (R146). -/
def execStDC (d a : Fin 8) (i : BitVec 5) (s : State) : Out :=
  storeScalar 2 8 [.g (r8 a), .g (r8 d)] (s.rg (r8 a) + BitVec.ofNat 64 (8 * i.toNat)) (s.rg (r8 d)) 0 s

/-- EXTLD (R204): the access of LD with w = 3 into an extension register. -/
def execExtld (d : Fin 8) (a : Fin 32) (i : BitVec 10) (z : Fin 8) (s : State) : Out :=
  loadScalar 4 8 [.g a] (scalarAddr s 8 a i) (fun t x => t.loadE d (BitVec.ofNat 64 x) .load) z s

/-- The active 32-bit lanes of a guard, ascending (R293). -/
def lanesOn (g : Pred) : List Nat := (List.range 16).filter (fun i => g.getLsbD i)

/-- The vector whose active lanes come from a 64-byte value and whose others keep their bits (R293, R297). -/
def mergeLanes (g : Pred) (x : Nat) (old : Vec) : Vec :=
  vecOf 32 16 (fun i => if g.getLsbD i then x / 2 ^ (32 * i) else lane 32 old i)

/-- The registers that a vector access reads: its address, vd where inactive lanes keep it or it is stored, the
guard (R293). -/
def accessSrcs (addr : List Reg) (vd : List Reg) (g : Fin 4) : List Reg := addr ++ vd ++ [.p (guardReg g)]

/-- The address of VLD and VST (R297). -/
def wideAddr (s : State) (a : Fin 32) (i : BitVec 8) : Word := s.rg a + i.signExtend 64 * 64

/-- A vector load without an active lane: vd keeps its bits, and is busy until the load's place in the vector queue retires
(R293). -/
def idleLoad (t : Thread) (d : Fin 32) (old : Vec) : Thread := t.loadV d old (if isBig t.tid then .load else .slot)

/-- The bytes of a 64-byte block that active lanes cover, as byte enables (R299). -/
def laneBytes (g : Pred) : Nat := (lanesOn g).foldl (fun m i => m + 15 * 2 ^ (4 * i)) 0

/-- VLD (R297): the 64 bytes are one access; with no active lane only the alignment is checked. -/
def execVld (_h g : Fin 4) (d a : Fin 32) (i : BitVec 8) (z : Fin 8) (s : State) : Out :=
  let ea := wideAddr s a i
  let gv := s.rp (guardReg g)
  let old := s.rv d
  s.check (accessSrcs [.g a] (keepSrc g d) g)
    (if ea.toNat % 64 ≠ 0 then s.trap cALIGN ea 0
     else if gv = 0 then .next (s.done 4 z (idleLoad s.cur d old))
     else s.access1 ea 64 64 .read (fun s c l => s.readingOf 64 (laneBytes gv) [(ea, l)] (fun s =>
       .next (s.finish c 4 z ((noteRead s.cur l).loadV d (mergeLanes gv (readNum s s.cur l 64) old) .load)))))

/-- The bytes of the active lanes of a vector at their offsets in a 64-byte block (R297). -/
def laneCells (g : Pred) (x : Vec) : List Host.Cell :=
  (lanesOn g).flatMap (fun i => cellsAt (4 * i) (bytesOf 4 (lane 32 x i)))

/-- VST (R297). -/
def execVst (_h g : Fin 4) (d a : Fin 32) (i : BitVec 8) (z : Fin 8) (s : State) : Out :=
  let ea := wideAddr s a i
  let gv := s.rp (guardReg g)
  let x := s.rv d
  s.check (accessSrcs [.g a] [.v d] g)
    (if ea.toNat % 64 ≠ 0 then s.trap cALIGN ea 0
     else if gv = 0 then .next (s.done 4 z s.cur)
     else s.access1 ea 64 64 .write (fun s c l => .next (s.finish c 4 z (storeCells s.cur ea l (laneCells gv x)))))

/-- Lane addresses: base plus i strides, or base plus the signed 32-bit lane of an index vector (R298). -/
def strideAddr (base step : Word) (i : Nat) : Word := base + BitVec.ofNat 64 i * step
def indexAddr (base : Word) (x : Vec) (i : Nat) : Word := base + sext32 (lane 32 x i)

/-- The lanes of a vector with the loaded ones replaced. -/
def spread (idx vals : List Nat) (old : Vec) : Vec :=
  vecOf 32 16 (fun i => match (idx.zip vals).find? (fun e => e.1 == i) with
    | some e => e.2
    | none => lane 32 old i)

/-- The lanes on IRREV pages of a load, each read by an access of its own, in ascending order, before the instruction ends
with the others; something else may come between two of them (R299). -/
def State.laneByLane (s : State) (ls : List (Word × Loc)) (k : State → Out) : Out :=
  match (ls.filter (fun e => e.2.irrev s)).drop s.cur.ex.lanes.length with
  | [] => k s
  | e :: rest => s.reading 4 [e] (fun s =>
      let x := readNum s s.cur e.2 4
      let s := s.withCur { s.cur with ex := { s.cur.ex with lanes := s.cur.ex.lanes ++ [x], outside := [] } }
      if rest.isEmpty then k s else .next s.stall)

/-- What the lanes of a load have read: those on IRREV pages as they were performed (R299). -/
def laneVals (s : State) : List (Word × Loc) → List Nat → List Nat
  | [], _ => []
  | e :: ls, got =>
    if e.2.irrev s then got.headD 0 :: laneVals s ls got.tail else readNum s s.cur e.2 4 :: laneVals s ls got

/-- A load of 4-byte lanes at lane addresses (R298): every active lane is checked, the lowest failing one decides. -/
def loadLanes (srcs : List Reg) (addr : Nat → Word) (g : Fin 4) (d : Fin 32) (z : Fin 8) (s : State) : Out :=
  let gv := s.rp (guardReg g)
  let old := s.rv d
  let on := lanesOn gv
  s.check (accessSrcs srcs (keepSrc g d) g)
    (if on.isEmpty then .next (s.done 4 z (idleLoad s.cur d old))
     else s.access (on.map addr) 4 4 .read (fun s c ls => s.laneByLane ls (fun s =>
       let t := ls.foldl (fun t e => noteRead t e.2) s.cur
       .next (s.finish c 4 z (t.loadV d (spread on (laneVals s ls s.cur.ex.lanes) old) .load)))))

/-- A store of 4-byte lanes at lane addresses, ascending; those on IRREV pages follow the chunk's number, each an access of
its own (R294, R298, R299). -/
def storeLanes (srcs : List Reg) (addr : Nat → Word) (g : Fin 4) (d : Fin 32) (z : Fin 8) (s : State) : Out :=
  let gv := s.rp (guardReg g)
  let x := s.rv d
  let on := lanesOn gv
  s.check (accessSrcs srcs [.v d] g)
    (s.access (on.map addr) 4 4 .write (fun s c ls =>
      .next (s.finish c 4 z ((on.zip ls).foldl (fun t e =>
        let cells := cellsAt 0 (bytesOf 4 (lane 32 x e.1))
        if e.2.2.irrev s then noteLane t e.2.1 e.2.2 cells else storeCells t e.2.1 e.2.2 cells) s.cur))))

/-- VLDS (R298). -/
def execVlds (_h : Bool) (g : Fin 4) (d a b : Fin 32) (z : Fin 8) (s : State) : Out :=
  loadLanes [.g a, .g b] (strideAddr (s.rg a) (s.rg b)) g d z s

/-- VSTS (R298). -/
def execVsts (_h : Bool) (g : Fin 4) (d a b : Fin 32) (z : Fin 8) (s : State) : Out :=
  storeLanes [.g a, .g b] (strideAddr (s.rg a) (s.rg b)) g d z s

/-- VGATH (R298). -/
def execVgath (_h : Bool) (g : Fin 4) (d a b : Fin 32) (z : Fin 8) (s : State) : Out :=
  loadLanes [.g a, .v b] (indexAddr (s.rg a) (s.rv b)) g d z s

/-- VSCAT (R298). -/
def execVscat (_h : Bool) (g : Fin 4) (d a b : Fin 32) (z : Fin 8) (s : State) : Out :=
  storeLanes [.g a, .v b] (indexAddr (s.rg a) (s.rv b)) g d z s

/-- The checks of R303 on the data address of VLDF and VSTF. -/
def taggedPlace (s : State) (va : Word) (k : Access) (t : Nat) : Chk (Loc × Leaf) :=
  if va.toNat / 2 ^ 52 ≠ 0 then .trap cPROT va 1
  else if cluBase ≤ va.toNat then .trap cFMIS va 5
  else (translate s s.cur.asid va.toNat k).bind (fun l => match l.leaf with
    | none => .trap cFMIS va 5
    | some f =>
      if f.nr ≠ nrOf s.cur.r.fmode then .trap cFMIS va 1
      else if f.fmt = 0 ∨ f.fmt = 13 then .trap cFMIS va 2
      else if !tagPair t f.fmt then .trap cFMIS va 3
      else if isIntType t && f.geom != 0 then .trap cFMIS va 4
      else if va.toNat % tagSpan t f.fmt ≠ 0 then .trap cALIGN va 0
      else .ok (l, f))

/-- The elements of a type that a guard governs, ascending. -/
def elemsOn (t : Nat) (g : Pred) : List Nat := (List.range (laneCount t)).filter (active g (laneWidth t))

/-- The scale addresses of the active elements, ascending (R301). -/
def scaleAddrs (va : Word) (f : Leaf) (on : List Nat) : List Word :=
  if f.geom = 0 then [] else on.map (fun i => scaleAddr (va + BitVec.ofNat 64 (i * tagBits f.fmt / 8)) f.geom)

/-- The scale byte of each element, 0 where none is read. -/
def scalesOf (s : State) (t : Thread) (n : Nat) (on : List Nat) (ls : List (Word × Loc)) : List Nat :=
  (List.range n).map (fun i => match (on.zip ls).find? (fun e => e.1 == i) with
    | some e => (readByte s t e.2.2.key).toNat
    | none => 0)

/-- The places of a span, one to a line: a span of 256 bytes takes two lines of its page (R300). -/
def spanPlaces (s : State) (va : Word) (k : Access) (l : Loc) (n : Nat) : List (Word × Loc) :=
  if n ≤ 128 then [(va, l)]
  else match translate s s.cur.asid (va.toNat + 128) k with
    | .ok m => [(va, l), (va + 128, m)]
    | _ => [(va, l)]

/-- Whether a store to 4-bit elements keeps a nibble of some byte, which it then reads (R302). -/
def keepsNibble (w : Nat) (on : List Nat) : Bool := w = 4 && on.any (fun i => !on.contains (i ^^^ 1))

/-- How a format-aware access meets its data: a store that keeps a nibble reads too (R302). -/
def taggedKind (k : Access) (w : Nat) (on : List Nat) : Access := if k = .write && keepsNibble w on then .rmw else k

/-- The places of a format-aware access: its data, line by line, and its scale bytes. -/
def taggedProbes (k : Access) (n w : Nat) (on : List Nat) (ds ls : List (Word × Loc)) : List Probe :=
  probes ds (min n 128) (taggedKind k w on) ++ probes ls 1 .read

/-- A format-aware access: the checks of R303 on data and scale bytes, then, with what lies on a peer device received, the
body with the data's places and page and the scale places; an IRREV page makes it chunk-closing. -/
def taggedAccess (s : State) (va : Word) (k : Access) (t : Nat) (on : List Nat)
    (body : State → Bool → List (Word × Loc) → Leaf → List (Word × Loc) → Out) : Out :=
  match taggedPlace s va k t with
  | .trap c v w => s.trapMem c v w
  | .nomem p => .fault (.noMemory p)
  | .ok (l, f) =>
    match resolveAll s 1 .read (scaleAddrs va f on) with
    | .trap c v w => s.trapMem c v w
    | .nomem p => .fault (.noMemory p)
    | .ok ls =>
      let n := tagSpan t f.fmt
      let ds := spanPlaces s va k l n
      let asks := if taggedKind k (tagBits f.fmt) on = .write then [] else ds
      let go (c : Bool) (s : State) : Out := s.screenedAll (taggedProbes k n (tagBits f.fmt) on ds ls) (fun s =>
        s.reading (min n 128) asks (fun s => s.reading 1 ls (fun s => body s c ds f ls)))
      if l.irrev s || ls.any (fun e => e.2.irrev s) then s.closingLate (go true) else go false s

/-- Ends the chunk of one of an instruction that has ended in place (R170 steps 4 and 5). -/
def sealIf (closing : Bool) (o : Out) : Out :=
  match o with
  | .next s =>
    if closing && s.cur.ex.count != 0 && s.cur.place == .run then
      .next (if s.cur.ex.serial then (s.withCur s.cur.taken).performed else s.sealed)
    else .next s
  | o => o

/-- Marks data and scale places as read (R301). -/
def noteReads (t : Thread) (ls : List (Word × Loc)) : Thread := ls.foldl (fun t e => noteRead t e.2) t

/-- VLDF (R300, R301): local, but heavy for f64 lanes, whose conversion a little core ships (R179). -/
def execVldf (t : Fin 8) (g : Fin 4) (d a : Fin 32) (z : Fin 8) (s : State) : Out :=
  let ea := s.rg a
  let gv := s.rp (guardReg g)
  let old := s.rv d
  let on := elemsOn t.val gv
  s.check (accessSrcs [.g a] (keepSrc g d) g)
    (if on.isEmpty then .next (s.done 4 z (idleLoad s.cur d old))
     else taggedAccess s ea .read t.val on (fun s c ds f ls =>
       let x := ofBytes (readBytes s s.cur ((ds.map (fun e => e.2.key)).headD 0) (tagSpan t.val f.fmt))
       let w := tagBits f.fmt
       let codes := (List.range (laneCount t.val)).map (fun i => x / 2 ^ (w * i) % 2 ^ w)
       let scales := scalesOf s s.cur (laneCount t.val) on ls
       let s := s.withCur (noteReads (noteReads s.cur ds) ls)
       sealIf c (if t.val = 5 then
         heavy (.vldf t g d a z) [] (.v d) z gv (vecOf 64 8 (fun i => codes.getD i 0))
           (vecOf 64 8 (fun i => scales.getD i 0)) old (BitVec.ofNat 64 (f.fmt + 16 * f.geom)) 0 0 s
       else computed 0 (.v d) z
         (tagLoad t.val f.fmt f.geom gv s.cur.r.fmode s.cur.r.srseed codes scales old) s)))

/-- Writes the codes of the active elements at their bits of the span; a 4-bit element keeps the other nibble of its
byte, which is read where it is not written too (R302). -/
def storeElems (s : State) (va : Word) (ds : List (Word × Loc)) (w : Nat) (on : List Nat) (codes : List Nat) (t : Thread) :
    Thread :=
  match ds with
  | [] => t
  | (_, l) :: _ =>
    let t := if keepsNibble w on then noteReads t ds else t
    on.foldl (fun t i =>
      let c := codes.getD i 0
      let o := i * w / 8
      let m := ((ds[o / 128]?).map Prod.snd).getD l
      let at' := { m with key := l.key + o, peer := l.peer.map (fun p => (p.1, p.2 + o)) }
      if w = 4 then
        let old := (readByte s t at'.key).toNat
        storeNum t (va + BitVec.ofNat 64 o) at' 1 (if i % 2 = 0 then old / 16 * 16 + c % 16 else old % 16 + c % 16 * 16)
      else storeNum t (va + BitVec.ofNat 64 o) at' (w / 8) c) t

/-- VSTF (R300, R302): local, but heavy for f64 lanes; the converted bytes enter the chunk at issue, and its commit waits
for the reply of a shipped conversion (R179, R182). Where that reply will be an enabled exception, none do (R8). -/
def execVstf (t : Fin 8) (g : Fin 4) (d a : Fin 32) (z : Fin 8) (s : State) : Out :=
  let ea := s.rg a
  let gv := s.rp (guardReg g)
  let x := s.rv d
  let on := elemsOn t.val gv
  s.check (accessSrcs [.g a] [.v d] g)
    (if on.isEmpty then .next (s.done 4 z s.cur)
     else taggedAccess s ea .write t.val on (fun s c ds f ls =>
       let scales := scalesOf s s.cur (laneCount t.val) on ls
       let r := tagStore t.val f.fmt f.geom gv s.cur.r.fmode s.cur.r.srseed x scales
       let put (u : Thread) := storeElems s ea ds (tagBits f.fmt) on (r.1.map Prod.fst) u
       let bad := joinFlags (r.1.map Prod.snd) &&& enOf s.cur.r.fmode != 0
       let s := s.withCur (noteReads s.cur ls)
       sealIf c (if t.val = 5 && !isBig s.cur.tid then
         (match heavy (.vstf t g d a z) [] (.g 0) z gv x (vecOf 64 8 (fun i => scales.getD i 0)) 0
             (BitVec.ofNat 64 (f.fmt + 16 * f.geom)) 0 0 s with
           | .next u => .next (if u.cur.ex.count = s.cur.ex.count + 1 && !bad then u.withCur (put u.cur) else u)
           | o => o)
       else s.withFlags (r.1.map Prod.snd) (fun fl =>
         .next (s.done 4 z (((put s.cur).raise fl).seedTo r.2))))))

/-- PREF (R304): no architectural effect. -/
def execPref (_h : Bool) (a : Fin 32) (z : Fin 8) (s : State) : Out := s.check [.g a] (.next (s.done 4 z s.cur))

/-- DSCRD (R304): no architectural effect. -/
def execDscrd (a : Fin 32) (z : Fin 8) (s : State) : Out := s.check [.g a] (.next (s.done 4 z s.cur))

/-- Checks 2-6 of R278 on every byte of a span, block of 16 KiB by block, each block's first byte standing for it. -/
def checkSpan (s : State) (k : Access) : Nat → Word → Nat → Chk Unit
  | 0, _, _ => .ok ()
  | fuel + 1, va, n =>
    if n = 0 then .ok ()
    else (resolve s s.cur va 1 k).bind (fun _ =>
      let step := 16384 - va.toNat % 16384
      if n ≤ step then .ok () else checkSpan s k fuel (va + BitVec.ofNat 64 step) (n - step))

/-- The rows of a copy checked in order, source before destination (R306 step 2). -/
def checkRows (s : State) (c : CopyCmd) : Nat → Word → Word → Chk Unit
  | 0, _, _ => .ok ()
  | n + 1, src, dst =>
    let fuel := c.len / 16384 + 2
    let rest := (checkSpan s .write fuel dst c.len).bind (fun _ =>
      checkRows s c n (src + c.sstride) (dst + c.dstride))
    if c.fill then rest else (checkSpan s .read fuel src c.len).bind (fun _ => rest)

/-- Whether a hand-off counts towards the eight of R372. -/
def Hand.counted : Hand → Bool
  | .spawn .. | .copy _ => true
  | _ => false

/-- Buffers a hand-off; a ninth falls in a new chunk, and an IRREVOCABLE body hands off at once (R372). -/
def handing (s : State) (h : Hand) (k : State → Out) : Out :=
  if s.cur.irrev then
    (if handsFree s s.cur { Chunk.empty s.cur.r with hands := [h] } then k (handOff s s.cur s.cur.lastV h) else .next s.stall)
  else if 8 ≤ (s.cur.ex.hands.filter Hand.counted).length then .next (cutNow s)
  else k (s.withCur { s.cur with ex := { s.cur.ex with hands := s.cur.ex.hands ++ [h] } })

/-- COPY and ZFILL (R305, R306): the descriptor is read from e0-e3, every byte is checked, the command is buffered and
its number is a scoreboarded result. -/
def copying (fill : Bool) (srcs : List Reg) (d : Fin 32) (z : Fin 8) (s : State) : Out :=
  let seq := s.cur.r.copySeq + 1
  let c : CopyCmd :=
    { tid := s.cur.tid, asid := s.cur.asid, seq := seq, fill := fill, src := s.re 0, dst := s.re 1,
      len := bitsOf (s.re 2) 0 32, rows := bitsOf (s.re 2) 32 16 + 1,
      sstride := BitVec.ofNat 64 (bitsOf (s.re 3) 0 32), dstride := BitVec.ofNat 64 (bitsOf (s.re 3) 32 32),
      pc := s.cur.r.pc, launch := s.cur.launch, cv := 0, v := 0 }
  s.check srcs
    (match checkRows s c c.rows c.src c.dst with
      | .trap k v w => s.trapMem k v w
      | .nomem p => .fault (.noMemory p)
      | .ok _ => handing s (.copy c) (fun s =>
          .next (s.done 4 z ((s.cur.setR { s.cur.r with copySeq := seq }).loadG d (BitVec.ofNat 64 seq) .load))))

/-- COPY (R306). -/
def execCopy (d : Fin 32) (z : Fin 8) (s : State) : Out := copying false [.e 0, .e 1, .e 2, .e 3] d z s

/-- ZFILL (R306): it does not read e0. -/
def execZfill (d : Fin 32) (z : Fin 8) (s : State) : Out := copying true [.e 1, .e 2, .e 3] d z s

/-- Whether a hand-off is a copy numbered n or less. -/
def Hand.copyUpTo (n : Nat) : Hand → Bool
  | .copy c => decide (c.seq ≤ n)
  | _ => false

/-- COPYW (R308): it waits until the slot's copies up to a number have finished. -/
def execCopyw (a : Fin 32) (z : Fin 8) (s : State) : Out :=
  let n := min (s.rg a).toNat s.cur.r.copySeq
  s.check [.g a]
    (if s.cur.ex.hands.any (Hand.copyUpTo n) then .next (cutNow s)
     else if n ≤ s.cur.copyDone then .next (s.done 4 z s.cur)
     else .next (s.withCur { s.cur with wait := .copyw n }))

/-- COPYQ (R309): completed number and failures, latency 2. -/
def execCopyq (d : Fin 32) (z : Fin 8) (s : State) : Out :=
  .next (s.done 4 z (s.cur.putG s.cycle 2 d
    (BitVec.ofNat 64 (s.cur.copyDone % 2 ^ 48 + min s.cur.copyFailed.length 0xFFFF * 2 ^ 48))))

end Sys2Proof.Machine
end

