-- ==== Sys2Proof/Machine/Matrix.lean ====
section
/-! DEFINITION. Sys2Proof/Machine/Matrix.lean: the matrix jobs (chapter 14): descriptor, checks of registers and of
memory, block sums and drains. A job runs whole at one point, as its sender's chunk of one (R328; log 9: DEDUCED, unsafe in timing);
a little core ships it. -/

namespace Sys2Proof.Machine

/-- The five jobs (R318). -/
inductive Job where
  | mma | mmaz | mdrn | mtrn | mrsum
deriving DecidableEq, Repr

/-- A job's descriptor, read from e0-e7 (R312-R314). -/
structure Desc where
  abase : Word
  bbase : Word
  cbase : Word
  tbase : Word
  e3 : Word
  e5 : Word
  e7 : Word
  lda : Nat
  ldb : Nat
  ldc : Nat
deriving DecidableEq, Repr

/-- The descriptor in eight values. -/
def descFrom (e : Fin 8 → Word) : Desc :=
  { abase := e 0, bbase := e 1, cbase := e 2, tbase := e 6, e3 := e 3, e5 := e 5, e7 := e 7,
    lda := bitsOf (e 4) 0 32, ldb := bitsOf (e 4) 32 32, ldc := bitsOf (e 5) 0 32 }

/-- The descriptor in the extension registers. -/
def descOf (s : State) : Desc := descFrom s.re

/-- The eight extension registers as a request carries them, and the descriptor in it (R174, R312). -/
def packDesc (s : State) : Vec := vecOf 64 8 (fun i => (s.re (Fin.ofNat 8 i)).toNat)
def unpackDesc (x : Vec) : Desc := descFrom (fun i => BitVec.ofNat 64 (lane 64 x i.val))

/-- The fields of e3 (R313). -/
def Desc.m (d : Desc) : Nat := 16 * (bitsOf d.e3 0 4 + 1)
def Desc.n (d : Desc) : Nat := 16 * (bitsOf d.e3 4 4 + 1)
def Desc.k (d : Desc) : Nat := 32 * (bitsOf d.e3 8 11 + 1)
def Desc.acc (d : Desc) : Nat := bitsOf d.e3 20 2
def Desc.sa (d : Desc) : Bool := d.e3.getLsbD 22
def Desc.sb (d : Desc) : Bool := d.e3.getLsbD 23
def Desc.ta (d : Desc) : Bool := d.e3.getLsbD 24
def Desc.tb (d : Desc) : Bool := d.e3.getLsbD 25
def Desc.fa (d : Desc) : Nat := bitsOf d.e3 26 4
def Desc.fb (d : Desc) : Nat := bitsOf d.e3 30 4
def Desc.fc (d : Desc) : Nat := bitsOf d.e3 34 4
def Desc.dm (d : Desc) : Nat := bitsOf d.e3 38 2
def Desc.sc (d : Desc) : Bool := d.e3.getLsbD 40
def Desc.qr (d : Desc) : Bool := d.e3.getLsbD 41

/-- The fields of e7 (R314); a zero point is read as s8 or z8. -/
def Desc.za (d : Desc) : Int := if d.sa then (BitVec.ofNat 8 (bitsOf d.e7 0 8)).toInt else bitsOf d.e7 0 8
def Desc.zb (d : Desc) : Int := if d.sb then (BitVec.ofNat 8 (bitsOf d.e7 8 8)).toInt else bitsOf d.e7 8 8
def Desc.zo (d : Desc) : Int := if d.sc then (BitVec.ofNat 8 (bitsOf d.e7 16 8)).toInt else bitsOf d.e7 16 8
def Desc.zc (d : Desc) : Bool := d.e7.getLsbD 24
def Desc.side (d : Desc) : Bool := d.e7.getLsbD 25

/-- Element bits of a tile format: a FMT code, 13 for acc96, 0 for s32 (R315). -/
def tileBits (f : Nat) : Nat := if f = 0 then 32 else if f = 13 then 96 else tagBits f

/-- Operand classes (R317): 1 integer, 2 narrow, 3 half, 4 single, 5 double; 0 none. -/
def classOf (f : Nat) : Nat :=
  if f = 1 ∨ f = 2 then 1 else if 3 ≤ f ∧ f ≤ 8 then 2 else if f = 9 ∨ f = 10 then 3
  else if f = 11 then 4 else if f = 12 then 5 else 0

/-- The geometries that a format may have (R317). -/
def geomsOf (f : Nat) : List Nat :=
  if f = 3 then [0, 1] else if 4 ≤ f ∧ f ≤ 8 then [0, 2] else if f = 9 ∨ f = 10 then [0, 3] else [0]

/-- Reason 1: the lowest register with a nonzero reserved field, or e3 where a mode field in use is 3 (R326). -/
def reason1 (j : Job) (d : Desc) : Option Nat :=
  let modes := j = .mma || j = .mmaz || j = .mdrn
  if bitsOf d.e3 42 22 ≠ 0 || d.e3.getLsbD 19 || (modes && (d.acc == 3 || d.dm == 3)) then some 3
  else if j ≠ .mrsum && bitsOf d.e5 32 32 ≠ 0 then some 5
  else if (j = .mmaz || j = .mdrn || j = .mrsum) && bitsOf d.e7 26 38 ≠ 0 then some 7
  else none

/-- Reason 2: fa or fb breaks R317. -/
def reason2 (j : Job) (d : Desc) : Bool :=
  match j with
  | .mma | .mmaz =>
    let c := classOf d.fa
    c = 0 || c != classOf d.fb || (c = 1) != (d.acc != 2)
  | .mdrn => false
  | .mtrn => classOf d.fa == 0
  | .mrsum => classOf (if d.side then d.fb else d.fa) != 1

/-- Bytes of a stored row of A, B, C, or of the source tile (R315). -/
def rowA (j : Job) (d : Desc) : Nat :=
  match j with
  | .mdrn => d.n * 96 / 8
  | .mtrn => d.n * tileBits d.fa / 8
  | _ => (if d.ta then d.m else d.k) * tileBits d.fa / 8
def rowB (d : Desc) : Nat := (if d.tb then d.k else d.n) * tileBits d.fb / 8
def rowC (j : Job) (d : Desc) : Nat := (if j = .mtrn && d.ta then d.m else d.n) * tileBits d.fc / 8

/-- Whether a job uses A, B, C and the table's address (R318). -/
def usesA (j : Job) (d : Desc) : Bool := j != .mrsum || !d.side
def usesB (j : Job) (d : Desc) : Bool := j == .mma || j == .mmaz || (j == .mrsum && d.side)
def usesC (j : Job) : Bool := j != .mrsum
def usesT (j : Job) : Bool := j == .mmaz || j == .mdrn || j == .mrsum

/-- Reason 4: the lowest register whose base or stride breaks R315. -/
def reason4 (j : Job) (d : Desc) : Option Nat :=
  let badBase (b : Word) : Bool := b.toNat % 64 != 0
  let badLd (ld row : Nat) : Bool := ld == 0 || ld % 64 != 0 || ld < row
  if usesA j d && badBase d.abase then some 0
  else if usesB j d && badBase d.bbase then some 1
  else if usesC j && badBase d.cbase then some 2
  else if (usesA j d && badLd d.lda (rowA j d)) || (usesB j d && badLd d.ldb (rowB d)) then some 4
  else if usesC j && badLd d.ldc (rowC j d) then some 5
  else if usesT j && badBase d.tbase then some 6
  else none

/-- Drain combinations of R321, zc apart. -/
def drainOk (d : Desc) : Bool :=
  match d.dm with
  | 0 => d.fc == 13
  | 1 => if d.acc = 2 then decide (3 ≤ d.fc ∧ d.fc ≤ 12) else decide (d.fc ≤ 2)
  | _ => d.acc != 2 && (d.fc == 1 || d.fc == 2)

/-- Reason 5: the lowest register that holds a wrong dm, fc or zc. -/
def reason5 (j : Job) (d : Desc) : Option Nat :=
  match j with
  | .mma => if d.dm = 0 ∧ d.fc = 13 then none else some 3
  | .mmaz =>
    if !drainOk d then some 3 else if d.zc && (d.dm == 0 || d.acc == 2) then some 7 else none
  | .mdrn =>
    if d.dm = 0 || !drainOk d then some 3 else if d.zc && d.acc == 2 then some 7 else none
  | .mtrn => if 1 ≤ d.fc ∧ d.fc ≤ 12 then none else some 3
  | .mrsum => none

/-- Whether a zero point lies in the range of a 4-bit format. -/
def nibbleOk (signed : Bool) (z : Int) : Bool := if signed then decide (-8 ≤ z ∧ z ≤ 7) else decide (0 ≤ z ∧ z ≤ 15)

/-- Reason 6: a zero point outside the range of its 4-bit operand or output (R314). -/
def reason6 (j : Job) (d : Desc) : Bool :=
  let out := d.fc = 1 && !nibbleOk d.sc d.zo
  match j with
  | .mmaz => (d.fa = 1 && !nibbleOk d.sa d.za) || (d.fb = 1 && !nibbleOk d.sb d.zb) || out
  | .mdrn => out
  | _ => false

/-- The class that decides the kind of core: true for half, single or double (R317). -/
def wideJob (j : Job) (d : Desc) : Bool :=
  match j with
  | .mma | .mmaz => 3 ≤ classOf d.fa
  | .mdrn => d.acc == 2 && 3 ≤ classOf d.fc
  | .mtrn => 3 ≤ classOf d.fa || 3 ≤ classOf d.fc
  | .mrsum => false

/-- The clusters whose hubs serve a thread's partition (R63, R176). -/
def servedClusters (s : State) (t : Thread) : List Nat :=
  let fn := ((t.launch.bind s.launchAt).map Launch.fn).getD 0
  match partitionOf s fn with
  | none => presentClusters s
  | some p => (presentClusters s).filter (fun c => p.clusters.contains c || p.tiles.any (fun k => tileCluster k == c))

/-- The cluster of the big core that runs a job: the thread's own on a big core, else the nearest of the required kind,
lowest number first; with qr, which MDRN and MRSUM do not use, the nearer of both kinds, an F core at equal distance (R176,
R317, R318). none: reason 7. -/
def jobCluster (s : State) (j : Job) (d : Desc) : Option Nat :=
  let me := clusterOf s.cur.tid
  if isBig s.cur.tid then some me
  else
    let l := servedClusters s s.cur
    let qr := d.qr && (j == .mma || j == .mmaz || j == .mtrn)
    let near (f : Bool) := minBy (fun c => hops me c) (l.filter (fun c => isF c == f))
    if !wideJob j d then near false
    else match near true with
      | none => if qr then near false else none
      | some f => if !qr then some f
        else match near false with
          | some m => if hops me m < hops me f then some m else some f
          | none => some f

/-- The register checks of R326 in ascending order of reason: the register at fault and the reason.
What a job does not use is not checked (log 23: DEDUCED, unsafe). -/
def regFault (s : State) (j : Job) (d : Desc) : Option (Nat × Nat) :=
  match reason1 j d with
  | some r => some (r, 1)
  | none =>
    if reason2 j d then some (3, 2)
    else match reason4 j d with
      | some r => some (r, 4)
      | none => match reason5 j d with
        | some r => some (r, 5)
        | none =>
          if reason6 j d then some (7, 6)
          else if (jobCluster s j d).isNone then some (3, 7)
          else none

/-- A piece of a row in one line: address, offset in the row, bytes, place. -/
structure Piece where
  va : Word
  off : Nat
  len : Nat
  loc : Loc
deriving DecidableEq, Repr

/-- What a tile asks of its pages: the tag, none for raw bytes, and the geometries allowed (R326). -/
structure Want where
  fmt : Option Nat
  geoms : List Nat
deriving DecidableEq, Repr

/-- The checks of R327 on an address. -/
def jobPlace (s : State) (k : Access) (w : Want) (va : Word) : Chk Loc :=
  if va.toNat / 2 ^ 52 = 0 ∧ cluBase ≤ va.toNat then .trap cFMIS va 5
  else if va.toNat / 2 ^ 52 ≠ 0 then .trap cPROT va 1
  else (translate s s.cur.asid va.toNat k).bind (fun l => match l.leaf with
    | none => .trap cFMIS va 5
    | some f =>
      if f.irrev || f.loc ≠ 0 then .trap cMATRIX va 8
      else match w.fmt with
        | none => .ok l
        | some fmt =>
          if f.fmt ≠ 0 && f.nr != nrOf s.cur.r.fmode then .trap cFMIS va 1
          else if f.fmt ≠ fmt || !w.geoms.contains f.geom then .trap cMATRIX va 3
          else .ok l)

/-- The pieces of n bytes from an address, line by line, each checked. -/
def jobSpan (s : State) (k : Access) (w : Want) : Nat → Word → Nat → Nat → Chk (List Piece)
  | 0, _, _, _ => .ok []
  | fuel + 1, va, off, n =>
    if n = 0 then .ok []
    else (jobPlace s k w va).bind (fun l =>
      let step := min n (128 - va.toNat % 128)
      (jobSpan s k w fuel (va + BitVec.ofNat 64 step) (off + step) (n - step)).bind (fun ps =>
        .ok ({ va := va, off := off, len := step, loc := l } :: ps)))

/-- The rows of a tile, checked in ascending order. -/
def jobRows (s : State) (k : Access) (w : Want) (row : Nat) (ld : Nat) : Nat → Word → Chk (List (List Piece))
  | 0, _ => .ok []
  | n + 1, va => (jobSpan s k w (row / 128 + 2) va 0 row).bind (fun p =>
      (jobRows s k w row ld n (va + BitVec.ofNat 64 ld)).bind (fun ps => .ok (p :: ps)))

/-- The scale bytes of checked rows: one for each block of a piece on a page with scales (R214, R317). -/
def scalePieces (rows : List (List Piece)) : List Word :=
  rows.flatMap (fun ps => ps.flatMap (fun p => match p.loc.leaf with
    | none => []
    | some f => if f.geom = 0 then []
      else (List.range ((p.len + 15) / 16)).map (fun i => scaleAddr (p.va + BitVec.ofNat 64 (16 * i)) f.geom)))

/-- Checks scale bytes as raw reads. -/
def jobScales (s : State) : List Word → Chk (List Piece)
  | [] => .ok []
  | a :: as => (jobPlace s .read { fmt := none, geoms := [] } a).bind (fun l =>
      (jobScales s as).bind (fun ps => .ok ({ va := a, off := 0, len := 1, loc := l } :: ps)))

/-- A row's bytes as a number. -/
def rowNum (s : State) (ps : List Piece) : Nat :=
  ps.foldl (fun x p => x + readNum s s.cur p.loc p.len * 2 ^ (8 * p.off)) 0

/-- Element c of a row of w-bit elements. -/
def elemOf (w row c : Nat) : Nat := row / 2 ^ (w * c) % 2 ^ w

/-- The geometry of the page at a row's byte offset, and the byte's address. -/
def geomAt (ps : List Piece) (off : Nat) : Nat × Word :=
  match ps.find? (fun p => p.off ≤ off && off < p.off + p.len) with
  | none => (0, 0)
  | some p => ((p.loc.leaf.map Leaf.geom).getD 0, p.va + BitVec.ofNat 64 (off - p.off))

/-- The scale byte of the element at a byte offset of a row, 127 on a page without scales (R214, R317). -/
def scaleByte (s : State) (scales : List Piece) (ps : List Piece) (off : Nat) : Nat :=
  let (g, va) := geomAt ps off
  if g = 0 then 127
  else match scales.find? (fun p => p.va == scaleAddr va g) with
    | none => 127
    | some p => readNum s s.cur p.loc 1

/-- An operand tile as read: its rows' numbers and pieces, its scales, whether it is stored with K outermost. -/
structure Tile2 where
  rows : List (List Piece)
  nums : List Nat
  scales : List Piece
  bits : Nat
  fmt : Nat
  signed : Bool
  /-- rows run along the outer index of the product, elements along K -/
  kInner : Bool
deriving DecidableEq, Repr

/-- The code of element (outer index x, K index k). -/
def Tile2.code (t : Tile2) (x k : Nat) : Nat :=
  if t.kInner then elemOf t.bits (t.nums.getD x 0) k else elemOf t.bits (t.nums.getD k 0) x

/-- The integer that an element of int4 or int8 is read as. -/
def intCode (fmt : Nat) (signed : Bool) (x : Nat) : Int :=
  let w := tagBits fmt
  if signed then (BitVec.ofNat w x).toInt else ((x % 2 ^ w : Nat) : Int)

/-- The scale of a K-block of 32 elements (R317). -/
def Tile2.scale (s : State) (t : Tile2) (x kb : Nat) : Nat :=
  if t.kInner then scaleByte s t.scales (t.rows.getD x []) (32 * kb * t.bits / 8) else 127

/-- The value of a float element. -/
def Tile2.val (m : BitVec 12) (t : Tile2) (x k : Nat) : Val := fRd (tagFmt t.fmt) m (t.code x k % 2 ^ (tagFmt t.fmt).width)

/-- The exact sum of a K-block of float products, with NV (R217). -/
def blockSum (m : BitVec 12) (a b : Tile2) (i j kb : Nat) : Val × Flags :=
  (List.range 32).foldl (fun r q =>
    let x := Tile2.val m a i (32 * kb + q)
    let y := Tile2.val m b j (32 * kb + q)
    let p := mulVal x y
    let t := addVal 0 r.1 p.1
    (t.1, r.2 ||| p.2 ||| t.2 ||| flagIf (x.isNan || y.isNan) fNV)) (.fin false 0 0, 0)

/-- A zero as +0 (R217). -/
def plusZero (v : Val) : Val := if v.isZero then .fin false 0 0 else v

/-- One K-block of a float accumulation: round(acc + scaleA * scaleB * sum, acc96, RNE), only NV kept (R217). -/
def accStep (s : State) (m : BitVec 12) (a b : Tile2) (i j : Nat) (r : Nat × Flags) (kb : Nat) : Nat × Flags :=
  let sa := Tile2.scale s a i kb
  let sb := Tile2.scale s b j kb
  let q := blockSum m a b i j kb
  let bad := sa = 255 || sb = 255
  let v := if bad then .nan false else shiftVal q.1 ((sa : Int) + sb - 254)
  let t := addVal 0 (decodeRaw .acc false r.1) v
  ((pack .acc false false 0 0 (plusZero t.1)).1, r.2 ||| q.2 ||| flagIf bad fNV ||| (t.2 &&& fNV))

/-- One K-block of an integer accumulation, clamped in int-sat32 (R216, R319). -/
def intStep (sat : Bool) (a b : Tile2) (i j : Nat) (r : Int × Flags) (kb : Nat) : Int × Flags :=
  let x := (List.range 32).foldl (fun z q =>
    z + intCode a.fmt a.signed (a.code i (32 * kb + q)) * intCode b.fmt b.signed (b.code j (32 * kb + q))) r.1
  if !sat then (x, r.2)
  else if x < -(2 ^ 31) then (-(2 ^ 31), r.2 ||| fSAT)
  else if 2 ^ 31 - 1 < x then (2 ^ 31 - 1, r.2 ||| fSAT)
  else (x, r.2)

/-- The table of a job (R316): column j's fields and row i's sum. -/
def tabCol (tab : Nat) (j off n : Nat) : Nat := tab / 2 ^ (8 * (16 * j + off)) % 2 ^ (8 * n)
def tabInt (tab : Nat) (j off : Nat) : Int := (BitVec.ofNat 32 (tabCol tab j off 4)).toInt
def tabRow (tab : Nat) (n i : Nat) : Int := (BitVec.ofNat 32 (tab / 2 ^ (8 * (16 * n + 4 * i)) % 2 ^ 32)).toInt

/-- The range of an integer output (R320). -/
def outRange (fc : Nat) (signed : Bool) : Int × Int :=
  if fc = 0 then (-(2 ^ 31), 2 ^ 31 - 1)
  else
    let w := tagBits fc
    if signed then (-(2 ^ (w - 1)), 2 ^ (w - 1) - 1) else (0, 2 ^ w - 1)

/-- The drain of an integer accumulator (R320). -/
def drainInt (d : Desc) (tab : Nat) (i j : Nat) (acc : Int) : Nat × Flags :=
  let x := if d.zc then acc - d.zb * tabRow tab d.n i - d.za * tabInt tab j 12 + (d.k : Int) * d.za * d.zb else acc
  let (lo, hi) := outRange d.fc d.sc
  let w := tileBits d.fc
  if d.dm = 1 then
    let r := packInt true 0 0 lo hi (ofInt x)
    (wrap w r.1, r.2)
  else
    let p := (x + tabInt tab j 8) * tabInt tab j 0
    let y := packInt true 0 0 (-(2 ^ 200)) (2 ^ 200) (ofScaled p (-(31 + (tabCol tab j 4 1 : Int))) false)
    let r := packInt true 0 0 lo hi (ofInt (y.1 + d.zo))
    (wrap w r.1, y.2 ||| r.2)

/-- The drain of a float accumulator, with C's scale byte and a draw (R320). -/
def drainFloat (d : Desc) (m : BitVec 12) (draw' : Nat) (scale : Nat) (acc : Nat) : Nat × Flags :=
  let v := decodeRaw .acc false acc
  fRound (tagFmt d.fc) m draw' ((if scale = 127 then v else applyScale true scale v), 0)

/-- The draw of output element number e of a job under RSR (R320, R323). -/
def jobDraw (m : BitVec 12) (draws : Bool) (seed : Word) (e : Nat) : Nat :=
  if draws && rmOf m == 4 then (draw (drawN e seed)).2 else 0

/-- What a job writes: rows of C as numbers with flags by element, or nothing; the table fields of MRSUM. -/
structure JobOut where
  rows : List (List (Nat × Flags))
  seed : Word
deriving DecidableEq, Repr

/-- All elements of M rows of N, row by row. -/
def jobElems (m n : Nat) (f : Nat → Nat → Nat × Flags) : List (List (Nat × Flags)) :=
  (List.range m).map (fun i => (List.range n).map (fun j => f i j))

/-- The checked memory of a job: operands, C, table. -/
structure JobMem where
  a : Tile2
  b : Tile2
  c : List (List Piece)
  cs : List Piece
  tab : List Piece
deriving DecidableEq, Repr

/-- An operand as checked rows. -/
def tileFrom (s : State) (rows : List (List Piece)) (scales : List Piece) (fmt : Nat) (signed kInner : Bool) : Tile2 :=
  { rows := rows, nums := rows.map (rowNum s), scales := scales, bits := tileBits fmt, fmt := fmt, signed := signed,
    kInner := kInner }

/-- An operand that a job does not use. -/
def noTile : Tile2 := { rows := [], nums := [], scales := [], bits := 8, fmt := 2, signed := false, kInner := true }

/-- Whether a job reads the requantisation table. -/
def readsTable (j : Job) (d : Desc) : Bool := (j == .mmaz || j == .mdrn) && (d.dm == 2 || (d.zc && d.acc != 2))

/-- The tag that C's pages carry: 0 for s32 (R326). -/
def wantC (j : Job) (d : Desc) : Want :=
  let plain := d.fc = 0 || d.fc = 13 || (j != .mtrn && d.acc != 2)
  { fmt := some d.fc, geoms := if plain then [0] else geomsOf d.fc }

/-- The checks of R327 on a job's memory, in order, and what they find. -/
def jobMem (s : State) (j : Job) (d : Desc) : Chk JobMem :=
  let rowsA := match j with
    | .mdrn | .mtrn => d.m
    | _ => if d.ta then d.k else d.m
  let wantA : Want := match j with
    | .mdrn => { fmt := some 13, geoms := [0] }
    | .mtrn => { fmt := some d.fa, geoms := geomsOf d.fa }
    | _ => { fmt := some d.fa, geoms := if d.ta then [0] else geomsOf d.fa }
  let wantB : Want := { fmt := some d.fb, geoms := if d.tb then geomsOf d.fb else [0] }
  let a : Chk Tile2 := if usesA j d then
      (jobRows s .read wantA (rowA j d) d.lda rowsA d.abase).bind (fun rows =>
        (jobScales s (scalePieces rows)).bind (fun sc =>
          .ok (tileFrom s rows sc (if j = .mdrn then 13 else d.fa) d.sa (!d.ta || j = .mdrn || j = .mtrn))))
    else .ok noTile
  let b : Chk Tile2 := if usesB j d then
      (jobRows s .read wantB (rowB d) d.ldb (if d.tb then d.n else d.k) d.bbase).bind (fun rows =>
        (jobScales s (scalePieces rows)).bind (fun sc => .ok (tileFrom s rows sc d.fb d.sb d.tb)))
    else .ok noTile
  let c : Chk (List (List Piece)) := if usesC j then
      jobRows s (if j = .mma then .rmw else .write) (wantC j d) (rowC j d) d.ldc
        (if j = .mtrn && d.ta then d.n else d.m) d.cbase
    else .ok []
  let raw : Want := { fmt := none, geoms := [] }
  a.bind (fun a => b.bind (fun b => c.bind (fun c => (jobScales s (scalePieces c)).bind (fun cs =>
    let tab : Chk (List Piece) :=
      if j = .mrsum then
        (if d.side then
          (jobRows s .write raw 4 16 d.n (d.tbase + 12)).bind (fun l => .ok l.flatten)
         else
          (jobRows s .write raw 4 4 d.m (d.tbase + BitVec.ofNat 64 (16 * d.n))).bind (fun l => .ok l.flatten))
      else if readsTable j d then jobSpan s .read raw ((16 * d.n + 4 * d.m) / 128 + 2) d.tbase 0 (16 * d.n + 4 * d.m)
      else .ok []
    tab.bind (fun t => .ok { a := a, b := b, c := c, cs := cs, tab := t })))))

/-- The accumulator of element (i, j) after all K-blocks, with flags: 96 bits (R319). -/
def jobAcc (s : State) (j : Job) (d : Desc) (mem : JobMem) (cnums : List Nat) (i k : Nat) : Nat × Flags :=
  let start := if j = .mma then elemOf 96 (cnums.getD i 0) k else 0
  if d.acc = 2 then
    (List.range (d.k / 32)).foldl (accStep s s.cur.r.fmode mem.a mem.b i k) (start, 0)
  else
    let r := (List.range (d.k / 32)).foldl (intStep (d.acc == 1) mem.a mem.b i k) ((BitVec.ofNat 96 start).toInt, 0)
    (wrap 96 r.1, r.2)

/-- One element of MTRN, by the value rules of VLDF and VSTF (R323). -/
def trnOne (s : State) (d : Desc) (mem : JobMem) (i k : Nat) (draw' : Nat) : Nat × Flags :=
  let m := s.cur.r.fmode
  let src := elemOf (tileBits d.fa) (mem.a.nums.getD i 0) k
  let off := k * tileBits d.fa / 8
  let (r, c) := if d.ta then (k, i) else (i, k)
  let coff := c * tileBits d.fc / 8
  let ga := (geomAt (mem.a.rows.getD i []) off).1
  let gc := (geomAt (mem.c.getD r []) coff).1
  if d.fa = d.fc && ga == 0 && gc == 0 then (if d.fa = 4 ∨ d.fa = 5 then src % 64 else src, 0)
  else
    let v := if tagInt d.fa then ofInt (intCode d.fa d.sa src)
      else fRd (tagFmt d.fa) m (src % 2 ^ (tagFmt d.fa).width)
    let v := if ga = 0 then v else applyScale false (scaleByte s mem.a.scales (mem.a.rows.getD i []) off) v
    let v := if gc = 0 then v else applyScale true (scaleByte s mem.cs (mem.c.getD r []) coff) v
    if tagInt d.fc then
      let q := packInt true (rmOf m) draw' (outRange d.fc d.sc).1 (outRange d.fc d.sc).2 v
      (wrap (tagBits d.fc) q.1, q.2)
    else fRound (tagFmt d.fc) m draw' (v, 0)

/-- Whether a job takes draws under RSR, one to an element (R320, R323). -/
def jobDraws (j : Job) (d : Desc) : Bool :=
  match j with
  | .mma | .mrsum => false
  | .mmaz | .mdrn => d.acc == 2 && d.dm == 1
  | .mtrn => !(tagInt d.fa && tagInt d.fc)

/-- The generator after a job's draws, which the descriptor and RM fix (R174, R219, R325). -/
def jobSeed (m : BitVec 12) (seed : Word) (j : Job) (d : Desc) : Word :=
  if jobDraws j d && rmOf m == 4 then drawN (d.m * d.n) seed else seed

/-- The output elements of a job, rows of C in order (R319, R322, R323); for MRSUM the sums, one row (R324). -/
def jobOut (s : State) (j : Job) (d : Desc) (mem : JobMem) : JobOut :=
  let m := s.cur.r.fmode
  let seed := s.cur.r.srseed
  let tab := rowNum s mem.tab
  let cnums := mem.c.map (rowNum s)
  let draws := jobDraws j d
  let drain (i k : Nat) (acc : Nat × Flags) : Nat × Flags :=
    if d.dm = 0 then acc
    else if d.acc = 2 then
      let sc := scaleByte s mem.cs (mem.c.getD i []) (k * tileBits d.fc / 8)
      let r := drainFloat d m (jobDraw m draws seed (i * d.n + k)) sc acc.1
      (r.1, acc.2 ||| r.2)
    else
      let r := drainInt d tab i k (BitVec.ofNat 96 acc.1).toInt
      (r.1, acc.2 ||| r.2)
  let rows := match j with
    | .mma | .mmaz => jobElems d.m d.n (fun i k => drain i k (jobAcc s j d mem cnums i k))
    | .mdrn => jobElems d.m d.n (fun i k => drain i k (elemOf 96 (mem.a.nums.getD i 0) k, 0))
    | .mtrn =>
      if d.ta then jobElems d.n d.m (fun r c => trnOne s d mem c r (jobDraw m draws seed (c * d.n + r)))
      else jobElems d.m d.n (fun i k => trnOne s d mem i k (jobDraw m draws seed (i * d.n + k)))
    | .mrsum =>
      let t := if d.side then mem.b else mem.a
      [(List.range (if d.side then d.n else d.m)).map (fun x =>
        (wrap 32 ((List.range d.k).foldl (fun z q => z + intCode t.fmt t.signed (t.code x q)) 0), 0))]
  { rows := rows, seed := jobSeed m seed j d }

/-- The pieces that a job reads: A, its scales, B, its scales, C for MMA, C's scales, the table for a requantisation
(R327). -/
def jobReads (j : Job) (mem : JobMem) : List Piece :=
  mem.a.rows.flatten ++ mem.a.scales ++ mem.b.rows.flatten ++ mem.b.scales ++
  (if j = .mma then mem.c.flatten else []) ++ mem.cs ++ (if j = .mrsum then [] else mem.tab)

/-- The pieces that a job writes. -/
def jobWrites (j : Job) (mem : JobMem) : List Piece := if j = .mrsum then mem.tab else mem.c.flatten

/-- A job's accesses, each line's. -/
def jobProbes (j : Job) (mem : JobMem) : List Probe :=
  (jobReads j mem).map (fun p => ⟨p.va, p.loc, p.len, .read⟩) ++
  (jobWrites j mem).map (fun p => ⟨p.va, p.loc, p.len, .write⟩)

/-- Marks a job's reads in the chunk (R328). -/
def noteJob (t : Thread) (ps : List Piece) : Thread := ps.foldl (fun t p => noteRead t p.loc) t

/-- Writes a row's bytes. -/
def writeRow (t : Thread) (ps : List Piece) (x : Nat) : Thread :=
  ps.foldl (fun t p => storeNum t p.va p.loc p.len (x / 2 ^ (8 * p.off) % 2 ^ (8 * p.len))) t

/-- The status word (R325). -/
def jobStatus (fl : Flags) (nsat cluster : Nat) : Word :=
  BitVec.ofNat 64 (min nsat 0xFFFF * 2 ^ 32 + bitOf (isF cluster) * 2 ^ 22 + cluster * 2 ^ 16 + fl.toNat * 2 ^ 8 + 1)

/-- A matrix job where it executes, at the big core of a cluster: the memory checks, the whole computation, and every write
after every read, in the chunk; the status word is the result (R319, R325, R327, R328). -/
def jobBody (j : Job) (d : Desc) (cluster : Nat) (s : State) : Remote :=
  match jobMem s j d with
  | .nomem p => .nomem p
  | .trap c v w => .trap c v w
  | .ok mem => remotely s (jobProbes j mem) (fun s =>
      let o := jobOut s j d mem
      let fls := o.rows.flatten.map Prod.snd
      let fl := joinFlags fls
      if fl &&& enOf s.cur.r.fmode ≠ 0 then .trap cFPE (fl.setWidth 64) 1
      else
        let t := noteJob s.cur (jobReads j mem)
        let t := if j = .mrsum then
            (mem.tab.zip ((o.rows.headD []).map Prod.fst)).foldl (fun t e => writeRow t [{ e.1 with off := 0 }] e.2) t
          else (mem.c.zip o.rows).foldl (fun t e =>
            writeRow t e.1 (packList (tileBits d.fc) (e.2.map Prod.fst))) t
        let nsat := (fls.filter (fun f => f &&& fSAT != 0)).length
        .done (s.withCur t) ((jobStatus fl nsat cluster).setWidth 512) fl o.seed)

/-- The job of an instruction, if it is one. -/
def jobOf (i : Instr) : Option Job :=
  match i with
  | .mma .. => some .mma
  | .mmaz .. => some .mmaz
  | .mdrn .. => some .mdrn
  | .mtrn .. => some .mtrn
  | .mrsum .. => some .mrsum
  | _ => none

/-- A matrix job (R318-R328): register checks at the sender, then, as a chunk of one, the job itself on a big core, or its
request to one. -/
def matrixJob (i : Instr) (j : Job) (g : Fin 32) (z : Fin 8) (s : State) : Out :=
  let d := descOf s
  s.check [.e 0, .e 1, .e 2, .e 3, .e 4, .e 5, .e 6, .e 7]
    (match regFault s j d with
      | some (r, why) => s.trap cMATRIX (BitVec.ofNat 64 r) (BitVec.ofNat 64 why)
      | none => s.closing (fun s =>
        let cl := (jobCluster s j d).getD 0
        if isBig s.cur.tid then native (jobBody j d cl s) z (fun t x => t.loadG g (x.setWidth 64) .job) s
        else shipClosing i cl (packDesc s) 0 0 (jobSeed s.cur.r.fmode s.cur.r.srseed j d) s))

/-- MMA (R319). -/
def execMma (d : Fin 32) (z : Fin 8) (s : State) : Out := matrixJob (.mma d z) .mma d z s

/-- MMAZ (R319). -/
def execMmaz (d : Fin 32) (z : Fin 8) (s : State) : Out := matrixJob (.mmaz d z) .mmaz d z s

/-- MDRN (R322). -/
def execMdrn (d : Fin 32) (z : Fin 8) (s : State) : Out := matrixJob (.mdrn d z) .mdrn d z s

/-- MTRN (R323). -/
def execMtrn (d : Fin 32) (z : Fin 8) (s : State) : Out := matrixJob (.mtrn d z) .mtrn d z s

/-- MRSUM (R324). -/
def execMrsum (d : Fin 32) (z : Fin 8) (s : State) : Out := matrixJob (.mrsum d z) .mrsum d z s

end Sys2Proof.Machine
end

