-- ==== Sys2Proof/WellFormed.lean ====
section
/-! DEFINITION. Sys2Proof/WellFormed.lean: the type, width, operation and CSR codes that each instruction accepts
(R105, R110, R134, R139-R143, R148, R248). The bounds of register fields and immediates are in their types. -/

namespace Sys2Proof

/-- The CSR numbers of R105. -/
def csrExists (n : BitVec 10) : Bool :=
  [0x000, 0x001, 0x002, 0x003, 0x010, 0x011, 0x012, 0x013, 0x014, 0x020, 0x021, 0x022, 0x030, 0x031,
   0x040, 0x041, 0x042, 0x043, 0x044, 0x050, 0x051, 0x052, 0x053, 0x060].contains n.toNat

/-- The CSRs that R105 marks RO or RO-S. -/
def csrReadOnly (n : BitVec 10) : Bool :=
  [0x000, 0x001, 0x002, 0x003, 0x020, 0x022, 0x040, 0x042, 0x043, 0x050, 0x051, 0x052, 0x053].contains n.toNat

/-- FOP lane types: f32, f16, bf16 (R139). -/
def fopType (t : Fin 8) : Bool := t == 2 || t == 3 || t == 4

/-- Lane types that R248 calls Int: s32, z32, s16, s8. -/
def laneInt (t : Fin 8) : Bool := t == 0 || t == 1 || t == 6 || t == 7

/-- Lane types that R248 calls Float: f32, f16, bf16, f64. -/
def laneFloat (t : Fin 8) : Bool := t == 2 || t == 3 || t == 4 || t == 5

/-- Lane types of VRED and VBINA: s32, z32, f32, f64 (R360, R361). -/
def memLane (t : Fin 8) : Bool := t == 0 || t == 1 || t == 2 || t == 5

/-- The codes of an instruction are codes that the spec accepts (R148). -/
def Instr.wf : Instr → Bool
  | .fadd t _ _ _ _ | .fsub t _ _ _ _ | .fmul t _ _ _ _ | .fmin t _ _ _ _ | .fmax t _ _ _ _ | .fsgn t _ _ _ _
  | .fcmp t _ _ _ _ | .frfn t _ _ _ _ | .frcp t _ _ _ | .frsq t _ _ _ | .fclass t _ _ _ => fopType t
  | .fcvt x y _ _ _ => x != 5 && y != 5 && x != y && (fopType x || fopType y)
  | .dcvt x y _ _ _ => (x == 5) != (y == 5)
  | .ffma t _ _ _ _ _ => t != 3
  | .vsgn t _ _ _ _ _ => t != 1
  | .vshl t _ _ _ _ _ | .vshr t _ _ _ _ _ | .vsha t _ _ _ _ _ | .viota t _ _ _ => laneInt t
  | .vcvt t y _ _ _ _ => t != y
  | .vdot t _ _ _ _ _ => t == 3 || t == 4 || t == 6 || t == 7
  | .vreds t o _ _ _ _ | .vscan t o _ _ _ _ => o.val ≤ 2 || (o.val ≤ 5 && laneInt t)
  | .vrcp t _ _ _ _ | .vrsq t _ _ _ _ => laneFloat t
  | .vtrn t n _ _ _ _ => laneFloat t && n.val ≤ 4
  | .redf o _ _ _ | .redd o _ _ _ => o.val ≤ 2
  | .vred t _ _ _ _ _ | .vbina t _ _ _ _ => memLane t
  | .csrr n _ _ => csrExists n
  | .csrw n _ _ _ | .csrs n _ _ _ | .csrc n _ _ _ => csrExists n && !csrReadOnly n
  | _ => true

end Sys2Proof
end

