-- ==== Sys2Proof/Decode.lean ====
section
/-! DEFINITION. Sys2Proof/Decode.lean: the decoder of R126-R149 and the encoder. A word is a number whose bit 0 is
the least significant bit of its first halfword (R126). Bit 0 gives the length; the major opcode selects the group,
and the function or sub code the opcode within it (R136). Every bit that the format reserves must be 0, and every
type, width, operation or CSR code must be one the instruction accepts (WellFormed), or the word is no instruction
and decoding answers none, which traps ILL (R148, R149). encode writes the word of an instruction from the same
tables. -/

namespace Sys2Proof

/-- Bits [lo + n - 1 : lo] of a word. -/
def fld (w lo n : Nat) : Nat := w / 2 ^ lo % 2 ^ n

/-- Bit lo of a word. -/
def flag (w lo : Nat) : Bool := w / 2 ^ lo % 2 == 1

/-- The n-valued field that starts at bit lo, n a power of two. -/
def code (n : Nat) [NeZero n] (w lo : Nat) : Fin n := Fin.ofNat n (w / 2 ^ lo)

/-- Major 0x01 (R137-R144): ADD, SUB, MUL, MULH, MULHZ, DIV, DIVZ, REM, REMZ, AND, OR, XOR, ANDN, SHL, SHR, SHA, MIN, MAX, MINZ, MAXZ, CLZ, CTZ, POPC, ABS, EXTB, INSB. -/
def decodeMajor01 (w : Nat) : Option Instr :=
  if fld w 25 6 = 0 then
    some (.add (flag w 31) (code 32 w 10) (code 32 w 15) (code 32 w 20) (code 8 w 7))
  else if fld w 25 6 = 1 then
    some (.sub (flag w 31) (code 32 w 10) (code 32 w 15) (code 32 w 20) (code 8 w 7))
  else if fld w 25 6 = 2 then
    some (.mul (flag w 31) (code 32 w 10) (code 32 w 15) (code 32 w 20) (code 8 w 7))
  else if fld w 25 6 = 3 then
    some (.mulh (flag w 31) (code 32 w 10) (code 32 w 15) (code 32 w 20) (code 8 w 7))
  else if fld w 25 6 = 4 then
    some (.mulhz (flag w 31) (code 32 w 10) (code 32 w 15) (code 32 w 20) (code 8 w 7))
  else if fld w 25 6 = 5 then
    some (.div (flag w 31) (code 32 w 10) (code 32 w 15) (code 32 w 20) (code 8 w 7))
  else if fld w 25 6 = 6 then
    some (.divz (flag w 31) (code 32 w 10) (code 32 w 15) (code 32 w 20) (code 8 w 7))
  else if fld w 25 6 = 7 then
    some (.rem (flag w 31) (code 32 w 10) (code 32 w 15) (code 32 w 20) (code 8 w 7))
  else if fld w 25 6 = 8 then
    some (.remz (flag w 31) (code 32 w 10) (code 32 w 15) (code 32 w 20) (code 8 w 7))
  else if fld w 25 6 = 9 then
    some (.and (flag w 31) (code 32 w 10) (code 32 w 15) (code 32 w 20) (code 8 w 7))
  else if fld w 25 6 = 10 then
    some (.or (flag w 31) (code 32 w 10) (code 32 w 15) (code 32 w 20) (code 8 w 7))
  else if fld w 25 6 = 11 then
    some (.xor (flag w 31) (code 32 w 10) (code 32 w 15) (code 32 w 20) (code 8 w 7))
  else if fld w 25 6 = 12 then
    some (.andn (flag w 31) (code 32 w 10) (code 32 w 15) (code 32 w 20) (code 8 w 7))
  else if fld w 25 6 = 13 then
    some (.shl (flag w 31) (code 32 w 10) (code 32 w 15) (code 32 w 20) (code 8 w 7))
  else if fld w 25 6 = 14 then
    some (.shr (flag w 31) (code 32 w 10) (code 32 w 15) (code 32 w 20) (code 8 w 7))
  else if fld w 25 6 = 15 then
    some (.sha (flag w 31) (code 32 w 10) (code 32 w 15) (code 32 w 20) (code 8 w 7))
  else if fld w 25 6 = 16 then
    some (.min (flag w 31) (code 32 w 10) (code 32 w 15) (code 32 w 20) (code 8 w 7))
  else if fld w 25 6 = 17 then
    some (.max (flag w 31) (code 32 w 10) (code 32 w 15) (code 32 w 20) (code 8 w 7))
  else if fld w 25 6 = 18 then
    some (.minz (flag w 31) (code 32 w 10) (code 32 w 15) (code 32 w 20) (code 8 w 7))
  else if fld w 25 6 = 19 then
    some (.maxz (flag w 31) (code 32 w 10) (code 32 w 15) (code 32 w 20) (code 8 w 7))
  else if fld w 20 11 = 640 then
    some (.clz (flag w 31) (code 32 w 10) (code 32 w 15) (code 8 w 7))
  else if fld w 20 11 = 672 then
    some (.ctz (flag w 31) (code 32 w 10) (code 32 w 15) (code 8 w 7))
  else if fld w 20 11 = 704 then
    some (.popc (flag w 31) (code 32 w 10) (code 32 w 15) (code 8 w 7))
  else if fld w 20 11 = 736 then
    some (.abs (flag w 31) (code 32 w 10) (code 32 w 15) (code 8 w 7))
  else if fld w 25 6 = 24 then
    some (.extb (flag w 31) (code 32 w 10) (code 32 w 15) (code 32 w 20) (code 8 w 7))
  else if fld w 25 6 = 25 then
    some (.insb (flag w 31) (code 32 w 10) (code 32 w 15) (code 32 w 20) (code 8 w 7))
  else none

/-- Major 0x02 (R137-R144): SEL. -/
def decodeMajor02 (w : Nat) : Option Instr :=
  if fld w 28 4 = 0 then
    some (.sel (code 8 w 25) (code 32 w 10) (code 32 w 15) (code 32 w 20) (code 8 w 7))
  else none

/-- Major 0x03 (R137-R144): LEA. -/
def decodeMajor03 (w : Nat) : Option Instr :=
  if fld w 28 4 = 0 then
    some (.lea (code 8 w 25) (code 32 w 10) (code 32 w 15) (code 32 w 20) (code 8 w 7))
  else none

/-- Major 0x04 (R137-R144): ADDI. -/
def decodeMajor04 (w : Nat) : Option Instr :=
  some (.addi (code 32 w 10) (code 32 w 15) (BitVec.ofNat 12 (w / 2 ^ 20)) (code 8 w 7))

/-- Major 0x05 (R137-R144): ANDI. -/
def decodeMajor05 (w : Nat) : Option Instr :=
  some (.andi (code 32 w 10) (code 32 w 15) (BitVec.ofNat 12 (w / 2 ^ 20)) (code 8 w 7))

/-- Major 0x06 (R137-R144): ORI. -/
def decodeMajor06 (w : Nat) : Option Instr :=
  some (.ori (code 32 w 10) (code 32 w 15) (BitVec.ofNat 12 (w / 2 ^ 20)) (code 8 w 7))

/-- Major 0x07 (R137-R144): XORI. -/
def decodeMajor07 (w : Nat) : Option Instr :=
  some (.xori (code 32 w 10) (code 32 w 15) (BitVec.ofNat 12 (w / 2 ^ 20)) (code 8 w 7))

/-- Major 0x08 (R137-R144): SHLI. -/
def decodeMajor08 (w : Nat) : Option Instr :=
  if fld w 26 6 = 0 then
    some (.shli (BitVec.ofNat 6 (w / 2 ^ 20)) (code 32 w 10) (code 32 w 15) (code 8 w 7))
  else none

/-- Major 0x09 (R137-R144): SHRI. -/
def decodeMajor09 (w : Nat) : Option Instr :=
  if fld w 26 6 = 0 then
    some (.shri (BitVec.ofNat 6 (w / 2 ^ 20)) (code 32 w 10) (code 32 w 15) (code 8 w 7))
  else none

/-- Major 0x0A (R137-R144): SHAI. -/
def decodeMajor0A (w : Nat) : Option Instr :=
  if fld w 26 6 = 0 then
    some (.shai (BitVec.ofNat 6 (w / 2 ^ 20)) (code 32 w 10) (code 32 w 15) (code 8 w 7))
  else none

/-- Major 0x0B (R137-R144): LI. -/
def decodeMajor0B (w : Nat) : Option Instr :=
  some (.li (code 32 w 10) (BitVec.ofNat 17 (w / 2 ^ 15)) (code 8 w 7))

/-- Major 0x0C (R137-R144): LIH. -/
def decodeMajor0C (w : Nat) : Option Instr :=
  some (.lih (code 32 w 10) (BitVec.ofNat 17 (w / 2 ^ 15)) (code 8 w 7))

/-- Major 0x0D (R137-R144): CMP. -/
def decodeMajor0D (w : Nat) : Option Instr :=
  if fld w 28 3 = 0 ∧ fld w 13 2 = 0 then
    some (.cmp (flag w 31) (code 8 w 25) (code 8 w 10) (code 32 w 15) (code 32 w 20) (code 8 w 7))
  else none

/-- Major 0x0E (R137-R144): CMPI. -/
def decodeMajor0E (w : Nat) : Option Instr :=
  if fld w 13 2 = 0 then
    some (.cmpi (code 8 w 20) (code 8 w 10) (code 32 w 15) (BitVec.ofNat 9 (w / 2 ^ 23)) (code 8 w 7))
  else none

/-- Major 0x0F (R137-R144): PAND, POR, PXOR, PNOT, PGET, PPUT, PCNT. -/
def decodeMajor0F (w : Nat) : Option Instr :=
  if fld w 23 9 = 0 ∧ fld w 18 2 = 0 ∧ fld w 13 2 = 0 then
    some (.pand (code 8 w 10) (code 8 w 15) (code 8 w 20) (code 8 w 7))
  else if fld w 23 9 = 4 ∧ fld w 18 2 = 0 ∧ fld w 13 2 = 0 then
    some (.por (code 8 w 10) (code 8 w 15) (code 8 w 20) (code 8 w 7))
  else if fld w 23 9 = 8 ∧ fld w 18 2 = 0 ∧ fld w 13 2 = 0 then
    some (.pxor (code 8 w 10) (code 8 w 15) (code 8 w 20) (code 8 w 7))
  else if fld w 18 14 = 384 ∧ fld w 13 2 = 0 then
    some (.pnot (code 8 w 10) (code 8 w 15) (code 8 w 7))
  else if fld w 18 14 = 512 then
    some (.pget (code 32 w 10) (code 8 w 15) (code 8 w 7))
  else if fld w 20 12 = 160 ∧ fld w 13 2 = 0 then
    some (.pput (code 8 w 10) (code 32 w 15) (code 8 w 7))
  else if fld w 18 14 = 768 then
    some (.pcnt (code 32 w 10) (code 8 w 15) (code 8 w 7))
  else none

/-- Major 0x10 (R137-R144): BEQ. -/
def decodeMajor10 (w : Nat) : Option Instr :=
  some (.beq (BitVec.ofNat 12 (w / 2 ^ 20)) (code 32 w 10) (code 32 w 15) (code 8 w 7))

/-- Major 0x11 (R137-R144): BNE. -/
def decodeMajor11 (w : Nat) : Option Instr :=
  some (.bne (BitVec.ofNat 12 (w / 2 ^ 20)) (code 32 w 10) (code 32 w 15) (code 8 w 7))

/-- Major 0x12 (R137-R144): BLT. -/
def decodeMajor12 (w : Nat) : Option Instr :=
  some (.blt (BitVec.ofNat 12 (w / 2 ^ 20)) (code 32 w 10) (code 32 w 15) (code 8 w 7))

/-- Major 0x13 (R137-R144): BGE. -/
def decodeMajor13 (w : Nat) : Option Instr :=
  some (.bge (BitVec.ofNat 12 (w / 2 ^ 20)) (code 32 w 10) (code 32 w 15) (code 8 w 7))

/-- Major 0x14 (R137-R144): BLO. -/
def decodeMajor14 (w : Nat) : Option Instr :=
  some (.blo (BitVec.ofNat 12 (w / 2 ^ 20)) (code 32 w 10) (code 32 w 15) (code 8 w 7))

/-- Major 0x15 (R137-R144): BHS. -/
def decodeMajor15 (w : Nat) : Option Instr :=
  some (.bhs (BitVec.ofNat 12 (w / 2 ^ 20)) (code 32 w 10) (code 32 w 15) (code 8 w 7))

/-- Major 0x16 (R137-R144): BP. -/
def decodeMajor16 (w : Nat) : Option Instr :=
  if fld w 19 1 = 0 ∧ fld w 13 2 = 0 then
    some (.bp (BitVec.ofNat 12 (w / 2 ^ 20)) (code 8 w 10) (code 16 w 15) (code 8 w 7))
  else none

/-- Major 0x17 (R137-R144): BNP. -/
def decodeMajor17 (w : Nat) : Option Instr :=
  if fld w 19 1 = 0 ∧ fld w 13 2 = 0 then
    some (.bnp (BitVec.ofNat 12 (w / 2 ^ 20)) (code 8 w 10) (code 16 w 15) (code 8 w 7))
  else none

/-- Major 0x18 (R137-R144): JMP. -/
def decodeMajor18 (w : Nat) : Option Instr :=
  some (.jmp (BitVec.ofNat 22 (w / 2 ^ 10)) (code 8 w 7))

/-- Major 0x19 (R137-R144): CALL. -/
def decodeMajor19 (w : Nat) : Option Instr :=
  some (.call (BitVec.ofNat 22 (w / 2 ^ 10)) (code 8 w 7))

/-- Major 0x1A (R137-R144): JR. -/
def decodeMajor1A (w : Nat) : Option Instr :=
  if fld w 10 5 = 0 then
    some (.jr (code 32 w 15) (BitVec.ofNat 12 (w / 2 ^ 20)) (code 8 w 7))
  else none

/-- Major 0x1B (R137-R144): CALLR. -/
def decodeMajor1B (w : Nat) : Option Instr :=
  if fld w 10 5 = 0 then
    some (.callr (code 32 w 15) (BitVec.ofNat 12 (w / 2 ^ 20)) (code 8 w 7))
  else none

/-- Major 0x1C (R137-R144): LOOP. -/
def decodeMajor1C (w : Nat) : Option Instr :=
  if fld w 15 5 = 0 then
    some (.loop (BitVec.ofNat 12 (w / 2 ^ 20)) (code 32 w 10) (code 8 w 7))
  else none

/-- Major 0x1D (R137-R144): EXT, EXTGET. -/
def decodeMajor1D (w : Nat) : Option Instr :=
  if fld w 20 12 = 0 ∧ fld w 13 2 = 0 then
    some (.ext (code 8 w 10) (code 32 w 15) (code 8 w 7))
  else if fld w 18 14 = 128 then
    some (.extget (code 32 w 10) (code 8 w 15) (code 8 w 7))
  else none

/-- Major 0x1E (R137-R144): EXTI. -/
def decodeMajor1E (w : Nat) : Option Instr :=
  if fld w 13 2 = 0 then
    some (.exti (code 8 w 10) (BitVec.ofNat 17 (w / 2 ^ 15)) (code 8 w 7))
  else none

/-- Major 0x1F (R137-R144): FADD, FSUB, FMUL, FMIN, FMAX, FSGN, FCMP, FCVT, FRCP, FRSQ, FRFN, FCLASS. -/
def decodeMajor1F (w : Nat) : Option Instr :=
  if fld w 25 4 = 0 then
    some (.fadd (code 8 w 29) (code 32 w 10) (code 32 w 15) (code 32 w 20) (code 8 w 7))
  else if fld w 25 4 = 1 then
    some (.fsub (code 8 w 29) (code 32 w 10) (code 32 w 15) (code 32 w 20) (code 8 w 7))
  else if fld w 25 4 = 2 then
    some (.fmul (code 8 w 29) (code 32 w 10) (code 32 w 15) (code 32 w 20) (code 8 w 7))
  else if fld w 25 4 = 3 then
    some (.fmin (code 8 w 29) (code 32 w 10) (code 32 w 15) (code 32 w 20) (code 8 w 7))
  else if fld w 25 4 = 4 then
    some (.fmax (code 8 w 29) (code 32 w 10) (code 32 w 15) (code 32 w 20) (code 8 w 7))
  else if fld w 25 4 = 5 then
    some (.fsgn (code 8 w 29) (code 32 w 10) (code 32 w 15) (code 32 w 20) (code 8 w 7))
  else if fld w 25 4 = 6 then
    some (.fcmp (code 8 w 29) (code 32 w 10) (code 32 w 15) (code 32 w 20) (code 8 w 7))
  else if fld w 23 6 = 28 then
    some (.fcvt (code 8 w 29) (code 8 w 20) (code 32 w 10) (code 32 w 15) (code 8 w 7))
  else if fld w 20 9 = 256 then
    some (.frcp (code 8 w 29) (code 32 w 10) (code 32 w 15) (code 8 w 7))
  else if fld w 20 9 = 288 then
    some (.frsq (code 8 w 29) (code 32 w 10) (code 32 w 15) (code 8 w 7))
  else if fld w 25 4 = 10 then
    some (.frfn (code 8 w 29) (code 32 w 10) (code 32 w 15) (code 32 w 20) (code 8 w 7))
  else if fld w 20 9 = 352 then
    some (.fclass (code 8 w 29) (code 32 w 10) (code 32 w 15) (code 8 w 7))
  else none

/-- Major 0x20 (R137-R144): FFMA. -/
def decodeMajor20 (w : Nat) : Option Instr :=
  some (.ffma (code 4 w 30) (code 32 w 25) (code 32 w 10) (code 32 w 15) (code 32 w 20) (code 8 w 7))

/-- Major 0x21 (R137-R144): DADD, DSUB, DMUL, DDIV, DSQRT, DMIN, DMAX, DCMP, DCVT, FEXP2, FLOG2, FSIN, FCOS, FDIV, FSQRT. -/
def decodeMajor21 (w : Nat) : Option Instr :=
  if fld w 25 7 = 0 then
    some (.dadd (code 32 w 10) (code 32 w 15) (code 32 w 20) (code 8 w 7))
  else if fld w 25 7 = 1 then
    some (.dsub (code 32 w 10) (code 32 w 15) (code 32 w 20) (code 8 w 7))
  else if fld w 25 7 = 2 then
    some (.dmul (code 32 w 10) (code 32 w 15) (code 32 w 20) (code 8 w 7))
  else if fld w 25 7 = 3 then
    some (.ddiv (code 32 w 10) (code 32 w 15) (code 32 w 20) (code 8 w 7))
  else if fld w 20 12 = 128 then
    some (.dsqrt (code 32 w 10) (code 32 w 15) (code 8 w 7))
  else if fld w 25 7 = 5 then
    some (.dmin (code 32 w 10) (code 32 w 15) (code 32 w 20) (code 8 w 7))
  else if fld w 25 7 = 6 then
    some (.dmax (code 32 w 10) (code 32 w 15) (code 32 w 20) (code 8 w 7))
  else if fld w 25 7 = 7 then
    some (.dcmp (code 32 w 10) (code 32 w 15) (code 32 w 20) (code 8 w 7))
  else if fld w 23 6 = 32 then
    some (.dcvt (code 8 w 29) (code 8 w 20) (code 32 w 10) (code 32 w 15) (code 8 w 7))
  else if fld w 20 12 = 288 then
    some (.fexp2 (code 32 w 10) (code 32 w 15) (code 8 w 7))
  else if fld w 20 12 = 320 then
    some (.flog2 (code 32 w 10) (code 32 w 15) (code 8 w 7))
  else if fld w 20 12 = 352 then
    some (.fsin (code 32 w 10) (code 32 w 15) (code 8 w 7))
  else if fld w 20 12 = 384 then
    some (.fcos (code 32 w 10) (code 32 w 15) (code 8 w 7))
  else if fld w 25 7 = 13 then
    some (.fdiv (code 32 w 10) (code 32 w 15) (code 32 w 20) (code 8 w 7))
  else if fld w 20 12 = 448 then
    some (.fsqrt (code 32 w 10) (code 32 w 15) (code 8 w 7))
  else none

/-- Major 0x22 (R137-R144): DFMA. -/
def decodeMajor22 (w : Nat) : Option Instr :=
  if fld w 30 2 = 0 then
    some (.dfma (code 32 w 25) (code 32 w 10) (code 32 w 15) (code 32 w 20) (code 8 w 7))
  else none

/-- Major 0x23 (R137-R144): VADD, VSUB, VMUL, VFMA. -/
def decodeMajor23 (w : Nat) : Option Instr :=
  if fld w 30 2 = 0 then
    some (.vadd (code 8 w 27) (code 4 w 25) (code 32 w 10) (code 32 w 15) (code 32 w 20) (code 8 w 7))
  else if fld w 30 2 = 1 then
    some (.vsub (code 8 w 27) (code 4 w 25) (code 32 w 10) (code 32 w 15) (code 32 w 20) (code 8 w 7))
  else if fld w 30 2 = 2 then
    some (.vmul (code 8 w 27) (code 4 w 25) (code 32 w 10) (code 32 w 15) (code 32 w 20) (code 8 w 7))
  else if fld w 30 2 = 3 then
    some (.vfma (code 8 w 27) (code 4 w 25) (code 32 w 10) (code 32 w 15) (code 32 w 20) (code 8 w 7))
  else none

/-- Major 0x24 (R137-R144): VMIN, VMAX, VSGN, VCMP. -/
def decodeMajor24 (w : Nat) : Option Instr :=
  if fld w 30 2 = 0 then
    some (.vmin (code 8 w 27) (code 4 w 25) (code 32 w 10) (code 32 w 15) (code 32 w 20) (code 8 w 7))
  else if fld w 30 2 = 1 then
    some (.vmax (code 8 w 27) (code 4 w 25) (code 32 w 10) (code 32 w 15) (code 32 w 20) (code 8 w 7))
  else if fld w 30 2 = 2 then
    some (.vsgn (code 8 w 27) (code 4 w 25) (code 32 w 10) (code 32 w 15) (code 32 w 20) (code 8 w 7))
  else if fld w 30 2 = 3 then
    some (.vcmp (code 8 w 27) (code 4 w 13) (code 8 w 10) (code 4 w 25) (code 32 w 15) (code 32 w 20) (code 8 w 7))
  else none

/-- Major 0x25 (R137-R144): VAND, VOR, VXOR, VSEL. -/
def decodeMajor25 (w : Nat) : Option Instr :=
  if fld w 30 2 = 0 then
    some (.vand (code 8 w 27) (code 4 w 25) (code 32 w 10) (code 32 w 15) (code 32 w 20) (code 8 w 7))
  else if fld w 30 2 = 1 then
    some (.vor (code 8 w 27) (code 4 w 25) (code 32 w 10) (code 32 w 15) (code 32 w 20) (code 8 w 7))
  else if fld w 30 2 = 2 then
    some (.vxor (code 8 w 27) (code 4 w 25) (code 32 w 10) (code 32 w 15) (code 32 w 20) (code 8 w 7))
  else if fld w 30 2 = 3 then
    some (.vsel (code 8 w 27) (code 4 w 25) (code 32 w 10) (code 32 w 15) (code 32 w 20) (code 8 w 7))
  else none

/-- Major 0x26 (R137-R144): VSHL, VSHR, VSHA, VIOTA. -/
def decodeMajor26 (w : Nat) : Option Instr :=
  if fld w 30 2 = 0 then
    some (.vshl (code 8 w 27) (code 4 w 25) (code 32 w 10) (code 32 w 15) (code 32 w 20) (code 8 w 7))
  else if fld w 30 2 = 1 then
    some (.vshr (code 8 w 27) (code 4 w 25) (code 32 w 10) (code 32 w 15) (code 32 w 20) (code 8 w 7))
  else if fld w 30 2 = 2 then
    some (.vsha (code 8 w 27) (code 4 w 25) (code 32 w 10) (code 32 w 15) (code 32 w 20) (code 8 w 7))
  else if fld w 30 2 = 3 ∧ fld w 15 10 = 0 then
    some (.viota (code 8 w 27) (code 4 w 25) (code 32 w 10) (code 8 w 7))
  else none

/-- Major 0x27 (R137-R144): VCVT, VQNT, VSCX, VDOT. -/
def decodeMajor27 (w : Nat) : Option Instr :=
  if fld w 30 2 = 0 ∧ fld w 23 2 = 0 then
    some (.vcvt (code 8 w 27) (code 8 w 20) (code 4 w 25) (code 32 w 10) (code 32 w 15) (code 8 w 7))
  else if fld w 30 2 = 1 then
    some (.vqnt (code 8 w 27) (code 4 w 25) (code 32 w 10) (code 32 w 15) (code 32 w 20) (code 8 w 7))
  else if fld w 27 5 = 18 ∧ fld w 20 5 = 0 then
    some (.vscx (code 4 w 25) (code 32 w 10) (code 32 w 15) (code 8 w 7))
  else if fld w 30 2 = 3 then
    some (.vdot (code 8 w 27) (code 4 w 25) (code 32 w 10) (code 32 w 15) (code 32 w 20) (code 8 w 7))
  else none

/-- Major 0x28 (R137-R144): VREDS, VSCAN, VPERM, VBCST. -/
def decodeMajor28 (w : Nat) : Option Instr :=
  if fld w 30 2 = 0 ∧ fld w 23 2 = 0 then
    some (.vreds (code 8 w 27) (code 8 w 20) (code 4 w 25) (code 32 w 10) (code 32 w 15) (code 8 w 7))
  else if fld w 30 2 = 1 ∧ fld w 23 2 = 0 then
    some (.vscan (code 8 w 27) (code 8 w 20) (code 4 w 25) (code 32 w 10) (code 32 w 15) (code 8 w 7))
  else if fld w 30 2 = 2 then
    some (.vperm (code 8 w 27) (code 4 w 25) (code 32 w 10) (code 32 w 15) (code 32 w 20) (code 8 w 7))
  else if fld w 30 2 = 3 ∧ fld w 20 5 = 0 then
    some (.vbcst (code 8 w 27) (code 4 w 25) (code 32 w 10) (code 32 w 15) (code 8 w 7))
  else none

/-- Major 0x29 (R137-R144): VCMPR, VEXPD, VGETL, VSETL. -/
def decodeMajor29 (w : Nat) : Option Instr :=
  if fld w 30 2 = 0 ∧ fld w 20 5 = 0 then
    some (.vcmpr (code 8 w 27) (code 4 w 25) (code 32 w 10) (code 32 w 15) (code 8 w 7))
  else if fld w 30 2 = 1 ∧ fld w 20 5 = 0 then
    some (.vexpd (code 8 w 27) (code 4 w 25) (code 32 w 10) (code 32 w 15) (code 8 w 7))
  else if fld w 30 2 = 2 then
    some (.vgetl (code 8 w 27) (code 4 w 25) (code 32 w 10) (code 32 w 15) (code 32 w 20) (code 8 w 7))
  else if fld w 30 2 = 3 then
    some (.vsetl (code 8 w 27) (code 4 w 25) (code 32 w 10) (code 32 w 15) (code 32 w 20) (code 8 w 7))
  else none

/-- Major 0x2A (R137-R144): VRCP, VRSQ, VTRN. -/
def decodeMajor2A (w : Nat) : Option Instr :=
  if fld w 30 2 = 0 ∧ fld w 20 5 = 0 then
    some (.vrcp (code 8 w 27) (code 4 w 25) (code 32 w 10) (code 32 w 15) (code 8 w 7))
  else if fld w 30 2 = 1 ∧ fld w 20 5 = 0 then
    some (.vrsq (code 8 w 27) (code 4 w 25) (code 32 w 10) (code 32 w 15) (code 8 w 7))
  else if fld w 30 2 = 2 ∧ fld w 23 2 = 0 then
    some (.vtrn (code 8 w 27) (code 8 w 20) (code 4 w 25) (code 32 w 10) (code 32 w 15) (code 8 w 7))
  else none

/-- Major 0x2B (R137-R144): LD. -/
def decodeMajor2B (w : Nat) : Option Instr :=
  some (.ld (code 4 w 20) (code 32 w 10) (code 32 w 15) (BitVec.ofNat 10 (w / 2 ^ 22)) (code 8 w 7))

/-- Major 0x2C (R137-R144): LDZ. -/
def decodeMajor2C (w : Nat) : Option Instr :=
  some (.ldz (code 4 w 20) (code 32 w 10) (code 32 w 15) (BitVec.ofNat 10 (w / 2 ^ 22)) (code 8 w 7))

/-- Major 0x2D (R137-R144): ST. -/
def decodeMajor2D (w : Nat) : Option Instr :=
  some (.st (code 4 w 20) (code 32 w 10) (code 32 w 15) (BitVec.ofNat 10 (w / 2 ^ 22)) (code 8 w 7))

/-- Major 0x2E (R137-R144): EXTLD. -/
def decodeMajor2E (w : Nat) : Option Instr :=
  if fld w 20 2 = 3 ∧ fld w 13 2 = 0 then
    some (.extld (code 8 w 10) (code 32 w 15) (BitVec.ofNat 10 (w / 2 ^ 22)) (code 8 w 7))
  else none

/-- Major 0x2F (R137-R144): VLD. -/
def decodeMajor2F (w : Nat) : Option Instr :=
  some (.vld (code 4 w 22) (code 4 w 20) (code 32 w 10) (code 32 w 15) (BitVec.ofNat 8 (w / 2 ^ 24)) (code 8 w 7))

/-- Major 0x30 (R137-R144): VST. -/
def decodeMajor30 (w : Nat) : Option Instr :=
  some (.vst (code 4 w 22) (code 4 w 20) (code 32 w 10) (code 32 w 15) (BitVec.ofNat 8 (w / 2 ^ 24)) (code 8 w 7))

/-- Major 0x31 (R137-R144): VLDS, VSTS, VGATH, VSCAT, VLDF, VSTF, PREF, DSCRD, COPY, COPYW, COPYQ, ZFILL. -/
def decodeMajor31 (w : Nat) : Option Instr :=
  if fld w 28 4 = 0 then
    some (.vlds (flag w 25) (code 4 w 26) (code 32 w 10) (code 32 w 15) (code 32 w 20) (code 8 w 7))
  else if fld w 28 4 = 1 then
    some (.vsts (flag w 25) (code 4 w 26) (code 32 w 10) (code 32 w 15) (code 32 w 20) (code 8 w 7))
  else if fld w 28 4 = 2 then
    some (.vgath (flag w 25) (code 4 w 26) (code 32 w 10) (code 32 w 15) (code 32 w 20) (code 8 w 7))
  else if fld w 28 4 = 3 then
    some (.vscat (flag w 25) (code 4 w 26) (code 32 w 10) (code 32 w 15) (code 32 w 20) (code 8 w 7))
  else if fld w 28 4 = 4 ∧ fld w 22 3 = 0 then
    some (.vldf (code 8 w 25) (code 4 w 20) (code 32 w 10) (code 32 w 15) (code 8 w 7))
  else if fld w 28 4 = 5 ∧ fld w 22 3 = 0 then
    some (.vstf (code 8 w 25) (code 4 w 20) (code 32 w 10) (code 32 w 15) (code 8 w 7))
  else if fld w 26 6 = 24 ∧ fld w 20 5 = 0 ∧ fld w 10 5 = 0 then
    some (.pref (flag w 25) (code 32 w 15) (code 8 w 7))
  else if fld w 20 12 = 1792 ∧ fld w 10 5 = 0 then
    some (.dscrd (code 32 w 15) (code 8 w 7))
  else if fld w 15 17 = 65536 then
    some (.copy (code 32 w 10) (code 8 w 7))
  else if fld w 20 12 = 2304 ∧ fld w 10 5 = 0 then
    some (.copyw (code 32 w 15) (code 8 w 7))
  else if fld w 15 17 = 81920 then
    some (.copyq (code 32 w 10) (code 8 w 7))
  else if fld w 15 17 = 90112 then
    some (.zfill (code 32 w 10) (code 8 w 7))
  else none

/-- Major 0x32 (R137-R144): MMA, MMAZ, MDRN, MTRN, MRSUM. -/
def decodeMajor32 (w : Nat) : Option Instr :=
  if fld w 15 17 = 0 then
    some (.mma (code 32 w 10) (code 8 w 7))
  else if fld w 15 17 = 1024 then
    some (.mmaz (code 32 w 10) (code 8 w 7))
  else if fld w 15 17 = 2048 then
    some (.mdrn (code 32 w 10) (code 8 w 7))
  else if fld w 15 17 = 3072 then
    some (.mtrn (code 32 w 10) (code 8 w 7))
  else if fld w 15 17 = 4096 then
    some (.mrsum (code 32 w 10) (code 8 w 7))
  else none

/-- Major 0x33 (R137-R144): AMO, AMOW, RED, REDF, REDD. -/
def decodeMajor33 (w : Nat) : Option Instr :=
  if fld w 29 3 = 0 then
    some (.amo (flag w 28) (code 8 w 25) (code 32 w 10) (code 32 w 15) (code 32 w 20) (code 8 w 7))
  else if fld w 28 4 = 2 ∧ fld w 20 1 = 0 ∧ fld w 10 1 = 0 then
    some (.amow (code 8 w 25) (code 16 w 11) (code 32 w 15) (code 16 w 21) (code 8 w 7))
  else if fld w 29 3 = 2 ∧ fld w 10 5 = 0 then
    some (.red (flag w 28) (code 8 w 25) (code 32 w 15) (code 32 w 20) (code 8 w 7))
  else if fld w 28 4 = 6 ∧ fld w 10 5 = 0 then
    some (.redf (code 8 w 25) (code 32 w 15) (code 32 w 20) (code 8 w 7))
  else if fld w 28 4 = 8 ∧ fld w 10 5 = 0 then
    some (.redd (code 8 w 25) (code 32 w 15) (code 32 w 20) (code 8 w 7))
  else none

/-- Major 0x34 (R137-R144): AMOCAS. -/
def decodeMajor34 (w : Nat) : Option Instr :=
  if fld w 31 1 = 0 then
    some (.amocas (flag w 30) (code 32 w 25) (code 32 w 10) (code 32 w 15) (code 32 w 20) (code 8 w 7))
  else none

/-- Major 0x35 (R137-R144): AMOWCAS. -/
def decodeMajor35 (w : Nat) : Option Instr :=
  if fld w 30 2 = 0 ∧ fld w 25 1 = 0 ∧ fld w 20 1 = 0 ∧ fld w 10 1 = 0 then
    some (.amowcas (code 16 w 26) (code 16 w 11) (code 32 w 15) (code 16 w 21) (code 8 w 7))
  else none

/-- Major 0x36 (R137-R144): VRED, VBINA. -/
def decodeMajor36 (w : Nat) : Option Instr :=
  if fld w 30 2 = 0 then
    some (.vred (code 8 w 27) (code 4 w 25) (code 32 w 10) (code 32 w 15) (code 32 w 20) (code 8 w 7))
  else if fld w 30 2 = 1 ∧ fld w 10 5 = 0 then
    some (.vbina (code 8 w 27) (code 4 w 25) (code 32 w 15) (code 32 w 20) (code 8 w 7))
  else none

/-- Major 0x37 (R137-R144): CHEND, CHID, BAR, BARA, BARW, WAITV, FENCE, WAITW, SPAWN, OSPAWN, WEND, YIELD. -/
def decodeMajor37 (w : Nat) : Option Instr :=
  if fld w 10 22 = 0 then
    some (.chend (code 8 w 7))
  else if fld w 15 17 = 1024 then
    some (.chid (code 32 w 10) (code 8 w 7))
  else if fld w 18 14 = 256 ∧ fld w 10 5 = 0 then
    some (.bar (code 8 w 15) (code 8 w 7))
  else if fld w 18 14 = 384 ∧ fld w 10 5 = 0 then
    some (.bara (code 8 w 15) (code 8 w 7))
  else if fld w 18 14 = 512 ∧ fld w 10 5 = 0 then
    some (.barw (code 8 w 15) (code 8 w 7))
  else if fld w 20 12 = 160 then
    some (.waitv (code 32 w 10) (code 32 w 15) (code 8 w 7))
  else if fld w 21 11 = 96 ∧ fld w 10 10 = 0 then
    some (.fence (flag w 20) (code 8 w 7))
  else if fld w 10 22 = 229376 then
    some (.waitw (code 8 w 7))
  else if fld w 25 7 = 8 ∧ fld w 10 5 = 0 then
    some (.spawn (code 32 w 15) (code 32 w 20) (code 8 w 7))
  else if fld w 25 7 = 9 ∧ fld w 10 5 = 0 then
    some (.ospawn (code 32 w 15) (code 32 w 20) (code 8 w 7))
  else if fld w 10 22 = 327680 then
    some (.wend (code 8 w 7))
  else if fld w 10 22 = 360448 then
    some (.yield (code 8 w 7))
  else none

/-- Major 0x38 (R137-R144): CSRR, CSRW, CSRS, CSRC. -/
def decodeMajor38 (w : Nat) : Option Instr :=
  if fld w 15 7 = 0 then
    some (.csrr (BitVec.ofNat 10 (w / 2 ^ 22)) (code 32 w 10) (code 8 w 7))
  else if fld w 20 2 = 1 then
    some (.csrw (BitVec.ofNat 10 (w / 2 ^ 22)) (code 32 w 10) (code 32 w 15) (code 8 w 7))
  else if fld w 20 2 = 2 then
    some (.csrs (BitVec.ofNat 10 (w / 2 ^ 22)) (code 32 w 10) (code 32 w 15) (code 8 w 7))
  else if fld w 20 2 = 3 then
    some (.csrc (BitVec.ofNat 10 (w / 2 ^ 22)) (code 32 w 10) (code 32 w 15) (code 8 w 7))
  else none

/-- Major 0x39 (R137-R144): TRAP, BRK, ERET, PARK, NOP. -/
def decodeMajor39 (w : Nat) : Option Instr :=
  if fld w 25 7 = 0 then
    some (.trap (BitVec.ofNat 15 (w / 2 ^ 10)) (code 8 w 7))
  else if fld w 25 7 = 1 then
    some (.brk (BitVec.ofNat 15 (w / 2 ^ 10)) (code 8 w 7))
  else if fld w 10 22 = 65536 then
    some (.eret (code 8 w 7))
  else if fld w 10 22 = 98304 then
    some (.park (code 8 w 7))
  else if fld w 10 22 = 131072 then
    some (.nop (code 8 w 7))
  else none

/-- The instruction that a 32-bit word spells, before the type, width and operation codes are checked. -/
def decodeRaw32 (w : Nat) : Option Instr :=
  match w / 2 % 64 with
  | 0x01 => decodeMajor01 w
  | 0x02 => decodeMajor02 w
  | 0x03 => decodeMajor03 w
  | 0x04 => decodeMajor04 w
  | 0x05 => decodeMajor05 w
  | 0x06 => decodeMajor06 w
  | 0x07 => decodeMajor07 w
  | 0x08 => decodeMajor08 w
  | 0x09 => decodeMajor09 w
  | 0x0A => decodeMajor0A w
  | 0x0B => decodeMajor0B w
  | 0x0C => decodeMajor0C w
  | 0x0D => decodeMajor0D w
  | 0x0E => decodeMajor0E w
  | 0x0F => decodeMajor0F w
  | 0x10 => decodeMajor10 w
  | 0x11 => decodeMajor11 w
  | 0x12 => decodeMajor12 w
  | 0x13 => decodeMajor13 w
  | 0x14 => decodeMajor14 w
  | 0x15 => decodeMajor15 w
  | 0x16 => decodeMajor16 w
  | 0x17 => decodeMajor17 w
  | 0x18 => decodeMajor18 w
  | 0x19 => decodeMajor19 w
  | 0x1A => decodeMajor1A w
  | 0x1B => decodeMajor1B w
  | 0x1C => decodeMajor1C w
  | 0x1D => decodeMajor1D w
  | 0x1E => decodeMajor1E w
  | 0x1F => decodeMajor1F w
  | 0x20 => decodeMajor20 w
  | 0x21 => decodeMajor21 w
  | 0x22 => decodeMajor22 w
  | 0x23 => decodeMajor23 w
  | 0x24 => decodeMajor24 w
  | 0x25 => decodeMajor25 w
  | 0x26 => decodeMajor26 w
  | 0x27 => decodeMajor27 w
  | 0x28 => decodeMajor28 w
  | 0x29 => decodeMajor29 w
  | 0x2A => decodeMajor2A w
  | 0x2B => decodeMajor2B w
  | 0x2C => decodeMajor2C w
  | 0x2D => decodeMajor2D w
  | 0x2E => decodeMajor2E w
  | 0x2F => decodeMajor2F w
  | 0x30 => decodeMajor30 w
  | 0x31 => decodeMajor31 w
  | 0x32 => decodeMajor32 w
  | 0x33 => decodeMajor33 w
  | 0x34 => decodeMajor34 w
  | 0x35 => decodeMajor35 w
  | 0x36 => decodeMajor36 w
  | 0x37 => decodeMajor37 w
  | 0x38 => decodeMajor38 w
  | 0x39 => decodeMajor39 w
  | _ => none

/-- The instruction that a halfword with bit 0 clear spells (R145, R146). op4 = 0 is ILL for any upper bits (R148), and
only the halfword 0x0000 is the instruction ILL of R391. -/
def decodeRaw16 (w : Nat) : Option Instr :=
  match w / 2 % 16 with
  | 0 => if w / 2 ^ 5 % 2 ^ 11 = 0 then some (.ill) else none
  | 1 => if fld w 14 2 = 0 then some (.addC (code 8 w 5) (code 8 w 8) (code 8 w 11)) else none
  | 2 => if fld w 14 2 = 0 then some (.subC (code 8 w 5) (code 8 w 8) (code 8 w 11)) else none
  | 3 => if fld w 14 2 = 0 then some (.andC (code 8 w 5) (code 8 w 8) (code 8 w 11)) else none
  | 4 => if fld w 14 2 = 0 then some (.orC (code 8 w 5) (code 8 w 8) (code 8 w 11)) else none
  | 5 => some (.addiC (code 8 w 5) (code 8 w 8) (BitVec.ofNat 5 (w / 2 ^ 11)))
  | 6 => some (.shliC (BitVec.ofNat 5 (w / 2 ^ 11)) (code 8 w 5) (code 8 w 8))
  | 7 => some (.shriC (BitVec.ofNat 5 (w / 2 ^ 11)) (code 8 w 5) (code 8 w 8))
  | 8 => some (.shaiC (BitVec.ofNat 5 (w / 2 ^ 11)) (code 8 w 5) (code 8 w 8))
  | 9 => some (.liC (code 8 w 5) (BitVec.ofNat 8 (w / 2 ^ 8)))
  | 10 => some (.ldDC (code 8 w 5) (code 8 w 8) (BitVec.ofNat 5 (w / 2 ^ 11)))
  | 11 => some (.stDC (code 8 w 5) (code 8 w 8) (BitVec.ofNat 5 (w / 2 ^ 11)))
  | 12 => some (.beqC (BitVec.ofNat 8 (w / 2 ^ 8)) (code 8 w 5))
  | 13 => some (.bneC (BitVec.ofNat 8 (w / 2 ^ 8)) (code 8 w 5))
  | 14 => some (.jmpC (BitVec.ofNat 11 (w / 2 ^ 5)))
  | 15 => if w / 2 ^ 5 % 2 ^ 11 = 0 then some (.jrC) else none
  | _ => none

/-- Keeps an instruction whose codes the spec accepts (R148). -/
def accept (o : Option Instr) : Option Instr :=
  match o with
  | some i => if i.wf then some i else none
  | none => none

/-- Decodes the word that starts with bit 0 clear (16 bits) or set (32 bits): R126, R148. -/
def decode (w : Nat) : Option Instr :=
  if w % 2 = 0 then accept (decodeRaw16 w) else accept (decodeRaw32 w)

/-- The length of the word in bytes (R126). -/
def wordBytes (w : Nat) : Nat := if w % 2 = 0 then 2 else 4

/-- A word with the field v added at bit lo. -/
def put (v lo w : Nat) : Nat := w + v * 2 ^ lo

/-- The word of an instruction (R129-R146); a device step has none. -/
def encode : Instr → Option Nat
  | .add w d a b s => some (put w.toNat 31 (put d.val 10 (put a.val 15 (put b.val 20 (put s.val 7 0x00000003)))))
  | .sub w d a b s => some (put w.toNat 31 (put d.val 10 (put a.val 15 (put b.val 20 (put s.val 7 0x02000003)))))
  | .mul w d a b s => some (put w.toNat 31 (put d.val 10 (put a.val 15 (put b.val 20 (put s.val 7 0x04000003)))))
  | .mulh w d a b s => some (put w.toNat 31 (put d.val 10 (put a.val 15 (put b.val 20 (put s.val 7 0x06000003)))))
  | .mulhz w d a b s => some (put w.toNat 31 (put d.val 10 (put a.val 15 (put b.val 20 (put s.val 7 0x08000003)))))
  | .div w d a b s => some (put w.toNat 31 (put d.val 10 (put a.val 15 (put b.val 20 (put s.val 7 0x0A000003)))))
  | .divz w d a b s => some (put w.toNat 31 (put d.val 10 (put a.val 15 (put b.val 20 (put s.val 7 0x0C000003)))))
  | .rem w d a b s => some (put w.toNat 31 (put d.val 10 (put a.val 15 (put b.val 20 (put s.val 7 0x0E000003)))))
  | .remz w d a b s => some (put w.toNat 31 (put d.val 10 (put a.val 15 (put b.val 20 (put s.val 7 0x10000003)))))
  | .and w d a b s => some (put w.toNat 31 (put d.val 10 (put a.val 15 (put b.val 20 (put s.val 7 0x12000003)))))
  | .or w d a b s => some (put w.toNat 31 (put d.val 10 (put a.val 15 (put b.val 20 (put s.val 7 0x14000003)))))
  | .xor w d a b s => some (put w.toNat 31 (put d.val 10 (put a.val 15 (put b.val 20 (put s.val 7 0x16000003)))))
  | .andn w d a b s => some (put w.toNat 31 (put d.val 10 (put a.val 15 (put b.val 20 (put s.val 7 0x18000003)))))
  | .shl w d a b s => some (put w.toNat 31 (put d.val 10 (put a.val 15 (put b.val 20 (put s.val 7 0x1A000003)))))
  | .shr w d a b s => some (put w.toNat 31 (put d.val 10 (put a.val 15 (put b.val 20 (put s.val 7 0x1C000003)))))
  | .sha w d a b s => some (put w.toNat 31 (put d.val 10 (put a.val 15 (put b.val 20 (put s.val 7 0x1E000003)))))
  | .min w d a b s => some (put w.toNat 31 (put d.val 10 (put a.val 15 (put b.val 20 (put s.val 7 0x20000003)))))
  | .max w d a b s => some (put w.toNat 31 (put d.val 10 (put a.val 15 (put b.val 20 (put s.val 7 0x22000003)))))
  | .minz w d a b s => some (put w.toNat 31 (put d.val 10 (put a.val 15 (put b.val 20 (put s.val 7 0x24000003)))))
  | .maxz w d a b s => some (put w.toNat 31 (put d.val 10 (put a.val 15 (put b.val 20 (put s.val 7 0x26000003)))))
  | .clz w d a s => some (put w.toNat 31 (put d.val 10 (put a.val 15 (put s.val 7 0x28000003))))
  | .ctz w d a s => some (put w.toNat 31 (put d.val 10 (put a.val 15 (put s.val 7 0x2A000003))))
  | .popc w d a s => some (put w.toNat 31 (put d.val 10 (put a.val 15 (put s.val 7 0x2C000003))))
  | .abs w d a s => some (put w.toNat 31 (put d.val 10 (put a.val 15 (put s.val 7 0x2E000003))))
  | .extb w d a b s => some (put w.toNat 31 (put d.val 10 (put a.val 15 (put b.val 20 (put s.val 7 0x30000003)))))
  | .insb w d a b s => some (put w.toNat 31 (put d.val 10 (put a.val 15 (put b.val 20 (put s.val 7 0x32000003)))))
  | .sel p d a b s => some (put p.val 25 (put d.val 10 (put a.val 15 (put b.val 20 (put s.val 7 0x00000005)))))
  | .lea h d a b s => some (put h.val 25 (put d.val 10 (put a.val 15 (put b.val 20 (put s.val 7 0x00000007)))))
  | .addi d a i s => some (put d.val 10 (put a.val 15 (put i.toNat 20 (put s.val 7 0x00000009))))
  | .andi d a i s => some (put d.val 10 (put a.val 15 (put i.toNat 20 (put s.val 7 0x0000000B))))
  | .ori d a i s => some (put d.val 10 (put a.val 15 (put i.toNat 20 (put s.val 7 0x0000000D))))
  | .xori d a i s => some (put d.val 10 (put a.val 15 (put i.toNat 20 (put s.val 7 0x0000000F))))
  | .shli n d a s => some (put n.toNat 20 (put d.val 10 (put a.val 15 (put s.val 7 0x00000011))))
  | .shri n d a s => some (put n.toNat 20 (put d.val 10 (put a.val 15 (put s.val 7 0x00000013))))
  | .shai n d a s => some (put n.toNat 20 (put d.val 10 (put a.val 15 (put s.val 7 0x00000015))))
  | .li d i s => some (put d.val 10 (put i.toNat 15 (put s.val 7 0x00000017)))
  | .lih d i s => some (put d.val 10 (put i.toNat 15 (put s.val 7 0x00000019)))
  | .cmp w c p a b s => some (put w.toNat 31 (put c.val 25 (put p.val 10 (put a.val 15 (put b.val 20 (put s.val 7 0x0000001B))))))
  | .cmpi c p a i s => some (put c.val 20 (put p.val 10 (put a.val 15 (put i.toNat 23 (put s.val 7 0x0000001D)))))
  | .pand d a b s => some (put d.val 10 (put a.val 15 (put b.val 20 (put s.val 7 0x0000001F))))
  | .por d a b s => some (put d.val 10 (put a.val 15 (put b.val 20 (put s.val 7 0x0200001F))))
  | .pxor d a b s => some (put d.val 10 (put a.val 15 (put b.val 20 (put s.val 7 0x0400001F))))
  | .pnot d a s => some (put d.val 10 (put a.val 15 (put s.val 7 0x0600001F)))
  | .pget d a s => some (put d.val 10 (put a.val 15 (put s.val 7 0x0800001F)))
  | .pput d a s => some (put d.val 10 (put a.val 15 (put s.val 7 0x0A00001F)))
  | .pcnt d a s => some (put d.val 10 (put a.val 15 (put s.val 7 0x0C00001F)))
  | .beq o a b s => some (put o.toNat 20 (put a.val 10 (put b.val 15 (put s.val 7 0x00000021))))
  | .bne o a b s => some (put o.toNat 20 (put a.val 10 (put b.val 15 (put s.val 7 0x00000023))))
  | .blt o a b s => some (put o.toNat 20 (put a.val 10 (put b.val 15 (put s.val 7 0x00000025))))
  | .bge o a b s => some (put o.toNat 20 (put a.val 10 (put b.val 15 (put s.val 7 0x00000027))))
  | .blo o a b s => some (put o.toNat 20 (put a.val 10 (put b.val 15 (put s.val 7 0x00000029))))
  | .bhs o a b s => some (put o.toNat 20 (put a.val 10 (put b.val 15 (put s.val 7 0x0000002B))))
  | .bp o p i s => some (put o.toNat 20 (put p.val 10 (put i.val 15 (put s.val 7 0x0000002D))))
  | .bnp o p i s => some (put o.toNat 20 (put p.val 10 (put i.val 15 (put s.val 7 0x0000002F))))
  | .jmp o s => some (put o.toNat 10 (put s.val 7 0x00000031))
  | .call o s => some (put o.toNat 10 (put s.val 7 0x00000033))
  | .jr a i s => some (put a.val 15 (put i.toNat 20 (put s.val 7 0x00000035)))
  | .callr a i s => some (put a.val 15 (put i.toNat 20 (put s.val 7 0x00000037)))
  | .loop o a s => some (put o.toNat 20 (put a.val 10 (put s.val 7 0x00000039)))
  | .ext d a s => some (put d.val 10 (put a.val 15 (put s.val 7 0x0000003B)))
  | .extget d a s => some (put d.val 10 (put a.val 15 (put s.val 7 0x0200003B)))
  | .exti d i s => some (put d.val 10 (put i.toNat 15 (put s.val 7 0x0000003D)))
  | .extld d a i s => some (put d.val 10 (put a.val 15 (put i.toNat 22 (put s.val 7 0x0030005D))))
  | .fadd t d a b s => some (put t.val 29 (put d.val 10 (put a.val 15 (put b.val 20 (put s.val 7 0x0000003F)))))
  | .fsub t d a b s => some (put t.val 29 (put d.val 10 (put a.val 15 (put b.val 20 (put s.val 7 0x0200003F)))))
  | .fmul t d a b s => some (put t.val 29 (put d.val 10 (put a.val 15 (put b.val 20 (put s.val 7 0x0400003F)))))
  | .fmin t d a b s => some (put t.val 29 (put d.val 10 (put a.val 15 (put b.val 20 (put s.val 7 0x0600003F)))))
  | .fmax t d a b s => some (put t.val 29 (put d.val 10 (put a.val 15 (put b.val 20 (put s.val 7 0x0800003F)))))
  | .fsgn t d a b s => some (put t.val 29 (put d.val 10 (put a.val 15 (put b.val 20 (put s.val 7 0x0A00003F)))))
  | .fcmp t d a b s => some (put t.val 29 (put d.val 10 (put a.val 15 (put b.val 20 (put s.val 7 0x0C00003F)))))
  | .fcvt x y d a s => some (put x.val 29 (put y.val 20 (put d.val 10 (put a.val 15 (put s.val 7 0x0E00003F)))))
  | .frcp t d a s => some (put t.val 29 (put d.val 10 (put a.val 15 (put s.val 7 0x1000003F))))
  | .frsq t d a s => some (put t.val 29 (put d.val 10 (put a.val 15 (put s.val 7 0x1200003F))))
  | .frfn t d a b s => some (put t.val 29 (put d.val 10 (put a.val 15 (put b.val 20 (put s.val 7 0x1400003F)))))
  | .fclass t d a s => some (put t.val 29 (put d.val 10 (put a.val 15 (put s.val 7 0x1600003F))))
  | .ffma t c d a b s => some (put t.val 30 (put c.val 25 (put d.val 10 (put a.val 15 (put b.val 20 (put s.val 7 0x00000041))))))
  | .dadd d a b s => some (put d.val 10 (put a.val 15 (put b.val 20 (put s.val 7 0x00000043))))
  | .dsub d a b s => some (put d.val 10 (put a.val 15 (put b.val 20 (put s.val 7 0x02000043))))
  | .dmul d a b s => some (put d.val 10 (put a.val 15 (put b.val 20 (put s.val 7 0x04000043))))
  | .ddiv d a b s => some (put d.val 10 (put a.val 15 (put b.val 20 (put s.val 7 0x06000043))))
  | .dsqrt d a s => some (put d.val 10 (put a.val 15 (put s.val 7 0x08000043)))
  | .dmin d a b s => some (put d.val 10 (put a.val 15 (put b.val 20 (put s.val 7 0x0A000043))))
  | .dmax d a b s => some (put d.val 10 (put a.val 15 (put b.val 20 (put s.val 7 0x0C000043))))
  | .dcmp d a b s => some (put d.val 10 (put a.val 15 (put b.val 20 (put s.val 7 0x0E000043))))
  | .dcvt x y d a s => some (put x.val 29 (put y.val 20 (put d.val 10 (put a.val 15 (put s.val 7 0x10000043)))))
  | .fexp2 d a s => some (put d.val 10 (put a.val 15 (put s.val 7 0x12000043)))
  | .flog2 d a s => some (put d.val 10 (put a.val 15 (put s.val 7 0x14000043)))
  | .fsin d a s => some (put d.val 10 (put a.val 15 (put s.val 7 0x16000043)))
  | .fcos d a s => some (put d.val 10 (put a.val 15 (put s.val 7 0x18000043)))
  | .fdiv d a b s => some (put d.val 10 (put a.val 15 (put b.val 20 (put s.val 7 0x1A000043))))
  | .fsqrt d a s => some (put d.val 10 (put a.val 15 (put s.val 7 0x1C000043)))
  | .dfma c d a b s => some (put c.val 25 (put d.val 10 (put a.val 15 (put b.val 20 (put s.val 7 0x00000045)))))
  | .vadd t g d a b s => some (put t.val 27 (put g.val 25 (put d.val 10 (put a.val 15 (put b.val 20 (put s.val 7 0x00000047))))))
  | .vsub t g d a b s => some (put t.val 27 (put g.val 25 (put d.val 10 (put a.val 15 (put b.val 20 (put s.val 7 0x40000047))))))
  | .vmul t g d a b s => some (put t.val 27 (put g.val 25 (put d.val 10 (put a.val 15 (put b.val 20 (put s.val 7 0x80000047))))))
  | .vfma t g d a b s => some (put t.val 27 (put g.val 25 (put d.val 10 (put a.val 15 (put b.val 20 (put s.val 7 0xC0000047))))))
  | .vmin t g d a b s => some (put t.val 27 (put g.val 25 (put d.val 10 (put a.val 15 (put b.val 20 (put s.val 7 0x00000049))))))
  | .vmax t g d a b s => some (put t.val 27 (put g.val 25 (put d.val 10 (put a.val 15 (put b.val 20 (put s.val 7 0x40000049))))))
  | .vsgn t g d a b s => some (put t.val 27 (put g.val 25 (put d.val 10 (put a.val 15 (put b.val 20 (put s.val 7 0x80000049))))))
  | .vcmp t c p g a b s => some (put t.val 27 (put c.val 13 (put p.val 10 (put g.val 25 (put a.val 15 (put b.val 20 (put s.val 7 0xC0000049)))))))
  | .vand t g d a b s => some (put t.val 27 (put g.val 25 (put d.val 10 (put a.val 15 (put b.val 20 (put s.val 7 0x0000004B))))))
  | .vor t g d a b s => some (put t.val 27 (put g.val 25 (put d.val 10 (put a.val 15 (put b.val 20 (put s.val 7 0x4000004B))))))
  | .vxor t g d a b s => some (put t.val 27 (put g.val 25 (put d.val 10 (put a.val 15 (put b.val 20 (put s.val 7 0x8000004B))))))
  | .vsel t g d a b s => some (put t.val 27 (put g.val 25 (put d.val 10 (put a.val 15 (put b.val 20 (put s.val 7 0xC000004B))))))
  | .vshl t g d a b s => some (put t.val 27 (put g.val 25 (put d.val 10 (put a.val 15 (put b.val 20 (put s.val 7 0x0000004D))))))
  | .vshr t g d a b s => some (put t.val 27 (put g.val 25 (put d.val 10 (put a.val 15 (put b.val 20 (put s.val 7 0x4000004D))))))
  | .vsha t g d a b s => some (put t.val 27 (put g.val 25 (put d.val 10 (put a.val 15 (put b.val 20 (put s.val 7 0x8000004D))))))
  | .viota t g d s => some (put t.val 27 (put g.val 25 (put d.val 10 (put s.val 7 0xC000004D))))
  | .vcvt t y g d a s => some (put t.val 27 (put y.val 20 (put g.val 25 (put d.val 10 (put a.val 15 (put s.val 7 0x0000004F))))))
  | .vqnt f g d a b s => some (put f.val 27 (put g.val 25 (put d.val 10 (put a.val 15 (put b.val 20 (put s.val 7 0x4000004F))))))
  | .vscx g d a s => some (put g.val 25 (put d.val 10 (put a.val 15 (put s.val 7 0x9000004F))))
  | .vdot t g d a b s => some (put t.val 27 (put g.val 25 (put d.val 10 (put a.val 15 (put b.val 20 (put s.val 7 0xC000004F))))))
  | .vreds t o g d a s => some (put t.val 27 (put o.val 20 (put g.val 25 (put d.val 10 (put a.val 15 (put s.val 7 0x00000051))))))
  | .vscan t o g d a s => some (put t.val 27 (put o.val 20 (put g.val 25 (put d.val 10 (put a.val 15 (put s.val 7 0x40000051))))))
  | .vperm t g d a b s => some (put t.val 27 (put g.val 25 (put d.val 10 (put a.val 15 (put b.val 20 (put s.val 7 0x80000051))))))
  | .vbcst t g d a s => some (put t.val 27 (put g.val 25 (put d.val 10 (put a.val 15 (put s.val 7 0xC0000051)))))
  | .vcmpr t g d a s => some (put t.val 27 (put g.val 25 (put d.val 10 (put a.val 15 (put s.val 7 0x00000053)))))
  | .vexpd t g d a s => some (put t.val 27 (put g.val 25 (put d.val 10 (put a.val 15 (put s.val 7 0x40000053)))))
  | .vgetl t g d a b s => some (put t.val 27 (put g.val 25 (put d.val 10 (put a.val 15 (put b.val 20 (put s.val 7 0x80000053))))))
  | .vsetl t g d a b s => some (put t.val 27 (put g.val 25 (put d.val 10 (put a.val 15 (put b.val 20 (put s.val 7 0xC0000053))))))
  | .vrcp t g d a s => some (put t.val 27 (put g.val 25 (put d.val 10 (put a.val 15 (put s.val 7 0x00000055)))))
  | .vrsq t g d a s => some (put t.val 27 (put g.val 25 (put d.val 10 (put a.val 15 (put s.val 7 0x40000055)))))
  | .vtrn t n g d a s => some (put t.val 27 (put n.val 20 (put g.val 25 (put d.val 10 (put a.val 15 (put s.val 7 0x80000055))))))
  | .ld w d a i s => some (put w.val 20 (put d.val 10 (put a.val 15 (put i.toNat 22 (put s.val 7 0x00000057)))))
  | .ldz w d a i s => some (put w.val 20 (put d.val 10 (put a.val 15 (put i.toNat 22 (put s.val 7 0x00000059)))))
  | .st w d a i s => some (put w.val 20 (put d.val 10 (put a.val 15 (put i.toNat 22 (put s.val 7 0x0000005B)))))
  | .vld h g d a i s => some (put h.val 22 (put g.val 20 (put d.val 10 (put a.val 15 (put i.toNat 24 (put s.val 7 0x0000005F))))))
  | .vst h g d a i s => some (put h.val 22 (put g.val 20 (put d.val 10 (put a.val 15 (put i.toNat 24 (put s.val 7 0x00000061))))))
  | .vlds h g d a b s => some (put h.toNat 25 (put g.val 26 (put d.val 10 (put a.val 15 (put b.val 20 (put s.val 7 0x00000063))))))
  | .vsts h g d a b s => some (put h.toNat 25 (put g.val 26 (put d.val 10 (put a.val 15 (put b.val 20 (put s.val 7 0x10000063))))))
  | .vgath h g d a b s => some (put h.toNat 25 (put g.val 26 (put d.val 10 (put a.val 15 (put b.val 20 (put s.val 7 0x20000063))))))
  | .vscat h g d a b s => some (put h.toNat 25 (put g.val 26 (put d.val 10 (put a.val 15 (put b.val 20 (put s.val 7 0x30000063))))))
  | .vldf t g d a s => some (put t.val 25 (put g.val 20 (put d.val 10 (put a.val 15 (put s.val 7 0x40000063)))))
  | .vstf t g d a s => some (put t.val 25 (put g.val 20 (put d.val 10 (put a.val 15 (put s.val 7 0x50000063)))))
  | .pref h a s => some (put h.toNat 25 (put a.val 15 (put s.val 7 0x60000063)))
  | .dscrd a s => some (put a.val 15 (put s.val 7 0x70000063))
  | .copy d s => some (put d.val 10 (put s.val 7 0x80000063))
  | .copyw a s => some (put a.val 15 (put s.val 7 0x90000063))
  | .copyq d s => some (put d.val 10 (put s.val 7 0xA0000063))
  | .zfill d s => some (put d.val 10 (put s.val 7 0xB0000063))
  | .mma d s => some (put d.val 10 (put s.val 7 0x00000065))
  | .mmaz d s => some (put d.val 10 (put s.val 7 0x02000065))
  | .mdrn d s => some (put d.val 10 (put s.val 7 0x04000065))
  | .mtrn d s => some (put d.val 10 (put s.val 7 0x06000065))
  | .mrsum d s => some (put d.val 10 (put s.val 7 0x08000065))
  | .amo w o d a b s => some (put w.toNat 28 (put o.val 25 (put d.val 10 (put a.val 15 (put b.val 20 (put s.val 7 0x00000067))))))
  | .amow o d a b s => some (put o.val 25 (put d.val 11 (put a.val 15 (put b.val 21 (put s.val 7 0x20000067)))))
  | .red w o a b s => some (put w.toNat 28 (put o.val 25 (put a.val 15 (put b.val 20 (put s.val 7 0x40000067)))))
  | .redf o a b s => some (put o.val 25 (put a.val 15 (put b.val 20 (put s.val 7 0x60000067))))
  | .redd o a b s => some (put o.val 25 (put a.val 15 (put b.val 20 (put s.val 7 0x80000067))))
  | .amocas t c d a b s => some (put t.toNat 30 (put c.val 25 (put d.val 10 (put a.val 15 (put b.val 20 (put s.val 7 0x00000069))))))
  | .amowcas c d a b s => some (put c.val 26 (put d.val 11 (put a.val 15 (put b.val 21 (put s.val 7 0x0000006B)))))
  | .vred t g d a b s => some (put t.val 27 (put g.val 25 (put d.val 10 (put a.val 15 (put b.val 20 (put s.val 7 0x0000006D))))))
  | .vbina t g a b s => some (put t.val 27 (put g.val 25 (put a.val 15 (put b.val 20 (put s.val 7 0x4000006D)))))
  | .chend s => some (put s.val 7 0x0000006F)
  | .chid d s => some (put d.val 10 (put s.val 7 0x0200006F))
  | .bar n s => some (put n.val 15 (put s.val 7 0x0400006F))
  | .bara n s => some (put n.val 15 (put s.val 7 0x0600006F))
  | .barw n s => some (put n.val 15 (put s.val 7 0x0800006F))
  | .waitv d a s => some (put d.val 10 (put a.val 15 (put s.val 7 0x0A00006F)))
  | .fence e s => some (put e.toNat 20 (put s.val 7 0x0C00006F))
  | .waitw s => some (put s.val 7 0x0E00006F)
  | .spawn a b s => some (put a.val 15 (put b.val 20 (put s.val 7 0x1000006F)))
  | .ospawn a b s => some (put a.val 15 (put b.val 20 (put s.val 7 0x1200006F)))
  | .wend s => some (put s.val 7 0x1400006F)
  | .yield s => some (put s.val 7 0x1600006F)
  | .csrr n d s => some (put n.toNat 22 (put d.val 10 (put s.val 7 0x00000071)))
  | .csrw n d a s => some (put n.toNat 22 (put d.val 10 (put a.val 15 (put s.val 7 0x00100071))))
  | .csrs n d a s => some (put n.toNat 22 (put d.val 10 (put a.val 15 (put s.val 7 0x00200071))))
  | .csrc n d a s => some (put n.toNat 22 (put d.val 10 (put a.val 15 (put s.val 7 0x00300071))))
  | .trap c s => some (put c.toNat 10 (put s.val 7 0x00000073))
  | .brk c s => some (put c.toNat 10 (put s.val 7 0x02000073))
  | .eret s => some (put s.val 7 0x04000073)
  | .park s => some (put s.val 7 0x06000073)
  | .nop s => some (put s.val 7 0x08000073)
  | .ill => some 0x0000
  | .addC d a b => some (put d.val 5 (put a.val 8 (put b.val 11 0x0002)))
  | .subC d a b => some (put d.val 5 (put a.val 8 (put b.val 11 0x0004)))
  | .andC d a b => some (put d.val 5 (put a.val 8 (put b.val 11 0x0006)))
  | .orC d a b => some (put d.val 5 (put a.val 8 (put b.val 11 0x0008)))
  | .addiC d a i => some (put d.val 5 (put a.val 8 (put i.toNat 11 0x000A)))
  | .shliC n d a => some (put n.toNat 11 (put d.val 5 (put a.val 8 0x000C)))
  | .shriC n d a => some (put n.toNat 11 (put d.val 5 (put a.val 8 0x000E)))
  | .shaiC n d a => some (put n.toNat 11 (put d.val 5 (put a.val 8 0x0010)))
  | .liC d i => some (put d.val 5 (put i.toNat 8 0x0012))
  | .ldDC d a i => some (put d.val 5 (put a.val 8 (put i.toNat 11 0x0014)))
  | .stDC d a i => some (put d.val 5 (put a.val 8 (put i.toNat 11 0x0016)))
  | .beqC o a => some (put o.toNat 8 (put a.val 5 0x0018))
  | .bneC o a => some (put o.toNat 8 (put a.val 5 0x001A))
  | .jmpC o => some (put o.toNat 5 0x001C)
  | .jrC => some 0x001E
  | .lcbaseWrite _ _ => none
  | .lcctlEnable _ _ => none
  | .lcctlDisable _ _ => none
  | .lctailWrite _ _ => none
  | .lcstatStoppedClear _ => none
  | .lcstatFlagClear _ _ _ => none
  | .registerWrite _ _ _ => none
  | .recordTake _ _ => none
  | .cpItemDeliver _ => none
  | .launchAcknowledge _ => none
  | .launchComplete _ => none
  | .lockstepMismatch => none
  | .firmwareRestartComplete => none
  | .coreTake _ => none
  | .nocluCoreRelease _ => none
  | .zeroingComplete _ => none
  | .shoeDispatch _ => none
  | .slotLoadComplete _ => none
  | .shoeItemArrive _ => none
  | .shoeRefill _ => none
  | .itemAging _ => none
  | .gangSlotReserve _ => none
  | .itemWalkHop => none
  | .balancingStep _ => none
  | .fantailBatchArrive _ => none
  | .sluiceAccept _ => none
  | .sluiceRefill _ => none
  | .sluiceGrant _ => none
  | .sluiceMinimaExchange _ => none
  | .leaveToCommit _ => none
  | .orderedTaskRetire _ => none
  | .gvtSample => none
  | .chunkBoundary _ _ => none
  | .resultWriteback _ => none
  | .memoryReply _ => none
  | .penstockAdmit _ => none
  | .shipRetry _ => none
  | .guestExecute _ => none
  | .matrixJobComplete _ => none
  | .shipReply _ => none
  | .cancelNotice _ => none
  | .vscxTimeout _ => none
  | .chunkCommitRequest _ => none
  | .weirNodeGrant _ => none
  | .writeSignatureReceive _ _ => none
  | .commitRelease _ => none
  | .pinAcquire _ => none
  | .serialTokenGrant => none
  | .appendElementAck _ => none
  | .hoistCopyStart _ => none
  | .hoistPiece _ _ => none
  | .barrierRelease _ => none
  | .waitvWake _ => none
  | .waitvTimeout _ => none
  | .tailracePost _ => none
  | .hostAtomicCompletion _ _ => none
  | .peerResponse _ _ _ => none
  | .peerTimeout _ => none
  | .watchdogExpiry _ _ => none
  | .eccUncorrectable _ _ _ => none
  | .scrub _ _ => none
  | .pondAbsorb _ => none
  | .packetForward _ => none
  | .forwardEntryFree _ => none
  | .saveComplete _ => none
  | .restoreLoaded _ => none
  | .hostWrite _ _ _ => none
  | .hostRead _ _ _ => none
  | .hostAtomicop _ _ _ _ _ _ => none
  | .hostWriteAck _ => none
  | .cxlSnoop _ => none
  | .cxlBiResponse _ => none
  | .peerAccessArrive _ _ _ _ _ => none
  | .peerPortDown _ => none
  | .functionLevelReset _ => none
  | .moduleReset => none
  | .thermalTrip _ _ _ => none
  | .thermalCritical => none
  | .powerVoltageSettled => none
  | .mailboxCompletion _ => none
  | .mapFillComplete => none
  | .mailboxUnknownCommand _ _ => none
  | .info _ => none
  | .fwload _ _ _ _ => none
  | .start _ _ => none
  | .part _ _ _ _ => none
  | .ascreate _ _ _ _ _ => none
  | .asretire _ _ => none
  | .quota _ _ _ => none
  | .map _ _ _ _ _ => none
  | .unmap _ _ _ => none
  | .protect _ _ _ _ => none
  | .areg _ _ _ _ _ _ => none
  | .adel _ _ _ => none
  | .freeze _ _ => none
  | .save _ _ _ _ => none
  | .thaw _ _ => none
  | .vacate _ _ => none
  | .restore _ _ _ _ => none
  | .discard _ _ => none
  | .place _ _ _ _ => none
  | .gridmap _ _ _ => none
  | .abort _ _ _ => none
  | .share _ _ _ => none
  | .aperture _ _ _ _ => none
  | .trcb _ _ _ _ _ => none
  | .peercfg _ _ _ _ => none
  | .power _ _ _ => none
  | .therm _ _ => none
  | .telem _ _ => none
  | .errlog _ _ => none
  | .doorbellWhileBusy _ => none
  | .hostOwnershipGrant _ => none
  | .supervisorRestart _ _ => none
  | .linkTrainingComplete _ _ => none

/-- The instruction this decoder reads from an instruction whose bits are w, numbered from the least significant bit
of the first halfword. The word is laid out as two little-endian halfwords (R126); nbits is its length in bits, and
the bits above it are 0. -/
def decodeTableWord (nbits w : Nat) : Option Instr :=
  let bytes := w % 2 ^ nbits
  decode (if bytes % 2 = 0 then bytes % 2 ^ 16 else bytes % 2 ^ 32)

end Sys2Proof
end

