-- ==== Sys2Proof/Machine/Safepoint.lean ====
section
/-! DEFINITION. Sys2Proof/Machine/Safepoint.lean: the safe-point and live-mask tables (R32-R36), and boundaries that fall
between instructions (R164-R171). No other section of an object file is read (log 21: DEDUCED, safe). -/

namespace Sys2Proof.Machine

/-- A 64-bit word read from an address space without a chunk; none where the read fails (R36). -/
def readQuiet (s : State) (asid : Nat) (va n : Nat) : Option Nat :=
  match translate s asid va .read with
  | .ok l => if poisoned s l n then none else some (Memory.num s.mem l.key n)
  | _ => none

/-- The safe-point entry of a code offset by binary search over count entries from index lo (R34): found mask index,
no entry, or a failed read. The order of the search, and so which entries of an unsorted table go unrecognised and which
unreadable ones set TABLE, is the model's choice (log 27: DESIGN CHOICE, unsafe). -/
def findSafe (s : State) (asid base off : Nat) : Nat → Nat → Nat → Option (Option Nat)
  | 0, _, _ => some none
  | fuel + 1, lo, n =>
    if n = 0 then some none
    else
      let mid := lo + n / 2
      match readQuiet s asid (base + 8 * mid) 8 with
      | none => none
      | some e =>
        if e % 2 ^ 32 = off then some (some (e / 2 ^ 32 % 65536))
        else if e % 2 ^ 32 < off then findSafe s asid base off fuel (mid + 1) (n - n / 2 - 1)
        else findSafe s asid base off fuel lo (n / 2)

/-- A live mask from its table entry; g0 and p0 keep their fixed values (R33, R35). -/
def liveMask (e : Nat) : LiveMask :=
  { g := BitVec.ofNat 32 e, p := BitVec.ofNat 8 (e / 2 ^ 32), e := BitVec.ofNat 8 (e / 2 ^ 40),
    v := BitVec.ofNat 32 (e / 2 ^ 64) }

/-- What the safe-point and live-mask tables say of a thread's PC (R34-R36). -/
inductive SafePoint where
  | no | failed | full
  | masked (m : LiveMask)
deriving DecidableEq, Repr

/-- The safe point at a thread's PC, if any. -/
def safePointAt (s : State) (t : Thread) : SafePoint :=
  match t.launch.bind s.launchAt with
  | none => .no
  | some l =>
    let off := t.r.pc - l.codebase
    if l.spcount = 0 ∨ 2 ^ 32 ≤ off.toNat then .no
    else match findSafe s l.asid l.spbase.toNat off.toNat 33 0 l.spcount with
      | none => .failed
      | some none => .no
      | some (some k) =>
        if l.lmcount ≤ k then .full
        else match readQuiet s l.asid (l.lmbase.toNat + 16 * k) 16 with
          | none => .failed
          | some e => .masked (liveMask e)

/-- Marks the TABLE flag of a thread's launch (R36). -/
def markTable (s : State) (t : Thread) : State := s.mapOwnLaunch t (fun l => { l with table := true })

/-- A boundary falls before the next instruction of a thread, once its older context has committed; without that the
thread waits (R164, R166, R168). -/
def cutThread (s : State) (tid : Nat) (mask : Option LiveMask) : State :=
  let s := match (s.thread tid).bind Thread.com with
    | some _ => commitOlder s tid
    | none => s
  match s.thread tid with
  | none => s
  | some t =>
    if t.com.isSome then s.setThread { t with wait := .commit } else s.setThread (boundary t s.cycle mask)

/-- CHUNK_BOUNDARY (R36, R166, R169, R171): kind 1 is a safe point, 2 capacity, 3 truncation, 4 forced, all but the first
with a full checkpoint; the start of an item (0) is its dispatch. A body that is not IRREVOCABLE overflows, an IRREVOCABLE
one has no boundary. -/
def execChunkBoundary (tid : Nat) (kind : Fin 5) (s : State) : Out :=
  match s.thread tid with
  | none => .next s
  | some t =>
    if t.place ≠ .run ∨ t.ex.count = 0 ∨ t.irrev ∨ kind = 0 ∨ tileFrozen s (tileOf tid) then .next s
    else if t.inBody then .next (if kind = 1 then s else squash s tid false 7)
    else if kind = 1 then
      (match safePointAt s t with
        | .no => .next s
        | .failed => .next (markTable s t)
        | .full => .next (cutThread s tid none)
        | .masked m => .next (cutThread s tid (some m)))
    else .next (cutThread s tid none)

end Sys2Proof.Machine
end

