-- ==== Sys2Proof/Machine/Sync.lean ====
section
/-! DEFINITION. Sys2Proof/Machine/Sync.lean: atomics, reductions, appends, and the synchronisation and work
instructions (chapter 16, and VSCX of R253). -/

namespace Sys2Proof.Machine

/-- The kinds of operation that R353 tells apart. -/
inductive Atom where
  | amo (op : Nat) | cas | wide | wideCas
  | red (op size : Nat) | redf | vred | vbina
deriving DecidableEq, Repr

/-- Where an operation is performed (R353): in the chunk or at the home at commit, as a chunk of one at the coherent
home, as an AtomicOp at the host, at a peer. -/
inductive Spot where
  | here | one | host | peer
deriving DecidableEq, Repr

/-- Whether the bank ALUs of a window perform an operation (R269, R353). -/
def bankAlu (k : Atom) (clu : Bool) : Bool :=
  match k with
  | .red op size => (op == 0 && size == 4) || (1 ≤ op && op ≤ 4)
  | .wide | .wideCas => clu
  | _ => true

/-- Whether an operation is a reduction. -/
def Atom.isRed : Atom → Bool
  | .red .. | .redf | .vred => true
  | _ => false

/-- Whether an operation can go to the host as a requester AtomicOp (R353). -/
def Atom.hostOp : Atom → Bool
  | .amo op => op == 0 || op == 1
  | .cas | .wideCas => true
  | .red op _ => op == 0
  | _ => false

/-- Check 8 of R278 by page kind: the table of R353. -/
def spotOf (s : State) (va : Word) (l : Loc) (k : Atom) : Chk Spot :=
  match l.leaf with
  | none =>
    let clu := match l.line with
      | .clu .. => true
      | _ => false
    if bankAlu k clu then .ok .here else .trap cPROT va 5
  | some f =>
    if f.loc = 0 then (if f.irrev then .trap cSCOPE va 3 else .ok .here)
    else if f.loc = 1 then
      if !f.sys then .trap cSCOPE va 1
      else if s.links.cxl then
        (match k with
          | .vbina => .trap cSCOPE va 4
          | .amo _ | .cas | .wide | .wideCas => .ok .one
          | _ => .ok .here)
      else if k.hostOp then .ok .host
      else .trap cSCOPE va 4
    else if k.isRed then .ok .peer
    else .trap cSCOPE va 2

/-- Checks 1-8 on one location that an operation reads and writes. -/
def atomPlace (s : State) (va : Word) (align : Nat) (k : Atom) : Chk (Loc × Spot) :=
  (resolve s s.cur va align .rmw).bind (fun l => (spotOf s va l k).bind (fun p => .ok (l, p)))

/-- An atomic that runs in the chunk, as a chunk of one, or at the host: a host AtomicOp is sent, and the instruction
goes on, with the old value that its completion carries, once that has come; a failed one traps HAOP with memory unchanged (R353,
R354, R428). While the core holds an unposted record, none is sent (R383). -/
def atomAccess (s : State) (va : Word) (n : Nat) (k : Atom) (body : State → Bool → Option Nat → Loc → Out) : Out :=
  match atomPlace s va n k with
  | .trap c v w => s.trapMem c v w
  | .nomem p => .fault (.noMemory p)
  | .ok (l, .here) => s.screened [(va, l)] n .rmw (fun s => body s false none l)
  | .ok (l, .host) => s.closingLate (fun s => s.screened [(va, l)] n .rmw (fun s => match s.cur.ex.answer with
    | none => if coreHolds s (coreOf s.cur.tid) then .next s.stall else .next (s.withCur { s.cur with wait := .host })
    | some (0, _) => body s true s.cur.ex.lanes.head? l
    | some _ => (s.withCur { s.cur with ex := { s.cur.ex with answer := none } }).trap cHAOP va 0))
  | .ok (l, _) => s.closingLate (fun s => s.screened [(va, l)] n .rmw (fun s => body s true none l))

/-- An atomic's write: buffered in the chunk; an AtomicOp at the host is no posted write of the thread. -/
def atomStore (t : Thread) (host : Bool) (va : Word) (l : Loc) (n x : Nat) : Thread :=
  let u := storeNum t va l n x
  if host then { u with ex := { u.ex with hostOut := t.ex.hostOut, sysLines := t.ex.sysLines } } else u

/-- AMO (R354): size 4 or 8. -/
def execAmo (w : Bool) (o : Fin 8) (d a b : Fin 32) (z : Fin 8) (s : State) : Out :=
  let n := if w then 8 else 4
  let ea := s.rg a
  let y := (s.rg b).toNat % 2 ^ (8 * n)
  s.check [.g a, .g b] (atomAccess s ea n (.amo o.val) (fun s c got l =>
    let old := got.getD (readNum s s.cur l n) % 2 ^ (8 * n)
    let t := atomStore (noteRead s.cur l) got.isSome ea l n (memInt o.val n old y)
    .next (s.finish c 4 z (t.loadG d (sextBytes n old) .load))))

/-- AMOCAS (R354): a failing compare writes nothing. -/
def execAmocas (t : Bool) (c d a b : Fin 32) (z : Fin 8) (s : State) : Out :=
  let n := if t then 8 else 4
  let ea := s.rg a
  let y := (s.rg b).toNat % 2 ^ (8 * n)
  let x := (s.rg c).toNat % 2 ^ (8 * n)
  s.check [.g a, .g b, .g c] (atomAccess s ea n .cas (fun s cl got l =>
    let old := got.getD (readNum s s.cur l n) % 2 ^ (8 * n)
    let u := noteRead s.cur l
    let u := if old = y then atomStore u got.isSome ea l n x else u
    .next (s.finish cl 4 z (u.loadG d (sextBytes n old) .load))))

/-- The even register that a pair field names, and its odd one (R143, R356). -/
def evenReg (n : Fin 16) : Fin 32 := ⟨2 * n.val, by omega⟩
def oddReg (n : Fin 16) : Fin 32 := ⟨2 * n.val + 1, by omega⟩

/-- A pair's 128-bit value (R356). -/
def pairVal (s : State) (n : Fin 16) : Nat := (s.rg (evenReg n)).toNat + (s.rg (oddReg n)).toNat * 2 ^ 64

/-- The registers of a pair. -/
def pairRegs (n : Fin 16) : List Reg := [.g (evenReg n), .g (oddReg n)]

/-- The big core that performs a 128-bit atomic: the home cluster's, or the sender's own for a window (R176, R353). -/
def wideCluster (s : State) (va : Word) : Nat :=
  if cluBase ≤ va.toNat then clusterOf s.cur.tid
  else
    let (ca, cva) := (aliasIn s.maps.aliases s.cur.asid va.toNat).getD (s.cur.asid, va.toNat)
    homeSlice s ca cva / 2

/-- The kind of a 128-bit atomic, and the value that it writes over an old one, if any: x is the operand or the expected
value, y the new one (R356). -/
def wideOp (i : Instr) (x y : Nat) : Atom × (Nat → Option Nat) :=
  match i with
  | .amow o _ _ _ _ => (.wide, fun old => some (memInt o.val 16 old x))
  | _ => (.wideCas, fun old => if old = x then some y else none)

/-- A 128-bit atomic where it executes: checks 4-8, then, with the host's AtomicOp done where it takes one, the operation in
the chunk; the old value is the result, at the host the one that the completion carries (R353, R354, R357). host is none until
that has come, then the value, if the host has performed it. -/
def wideBody (i : Instr) (ea : Word) (x y : Nat) (host : Option (Option Nat)) (s : State) : Remote :=
  let op := wideOp i x y
  match atomPlace s ea 16 op.1 with
  | .trap c v w => .trap c v w
  | .nomem p => .nomem p
  | .ok (l, p) =>
    if p = .host ∧ host = none then .ask
    else if p = .host ∧ host = some none then .trap cHAOP ea 0
    else remotely s [⟨ea, l, 16, .rmw⟩] (fun s =>
      let got := if p = .host then host.join else none
      let old := got.getD (readNum s s.cur l 16) % 2 ^ 128
      let t := noteRead s.cur l
      let t := match op.2 old with
        | none => t
        | some v => atomStore t got.isSome ea l 16 v
      .done (s.withCur t) (BitVec.ofNat 512 old) 0 s.cur.r.srseed)

/-- Writes a pair of registers as scoreboarded results (R101, R356). -/
def loadPair (d : Fin 16) (t : Thread) (x : Vec) : Thread :=
  (t.loadG (evenReg d) (x.setWidth 64) .load).loadG (oddReg d) ((x >>> 64).setWidth 64) .load

/-- Whether a check of R278 is one of the first three, which the sender of a 128-bit atomic makes (R357). -/
def senderCheck (cause : Nat) (val2 : Word) : Bool := cause == cALIGN || (cause == cPROT && (val2 == 1 || val2 == 2))

/-- AMOW and AMOWCAS (R356, R357): a big core performs them as a chunk of one; a little core makes checks 1-3, takes the
forced boundary, and ships them with their operand pairs. -/
def wideAtom (i : Instr) (srcs : List Reg) (d : Fin 16) (a : Fin 32) (x y : Nat) (z : Fin 8) (s : State) : Out :=
  let ea := s.rg a
  s.check srcs
    (if isBig s.cur.tid then
      s.closing (fun s => native (wideBody i ea x y (s.cur.ex.answer.map (fun r =>
        if r.1 = 0 then s.cur.ex.lanes.head? else none)) s) z (loadPair d) s)
    else
      let ship := s.closing (fun s => shipClosing i (wideCluster s ea) (BitVec.ofNat 512 x) (BitVec.ofNat 512 y) ea
        s.cur.r.srseed s)
      match atomPlace s ea 16 (wideOp i x y).1 with
      | .trap c v w => if senderCheck c w then s.trapMem c v w else ship
      | _ => ship)

/-- AMOW (R356). -/
def execAmow (o : Fin 8) (d : Fin 16) (a : Fin 32) (b : Fin 16) (z : Fin 8) (s : State) : Out :=
  wideAtom (.amow o d a b z) ([.g a] ++ pairRegs b) d a (pairVal s b) 0 z s

/-- AMOWCAS (R356). -/
def execAmowcas (c d : Fin 16) (a : Fin 32) (b : Fin 16) (z : Fin 8) (s : State) : Out :=
  wideAtom (.amowcas c d a b z) ([.g a] ++ pairRegs b ++ pairRegs c) d a (pairVal s b) (pairVal s c) z s

/-- Buffers a reduction on a checked place (R334, R353, R358): at the home, as a FetchAdd at the host, or at a peer.
code is the operation that a remote reduction carries: that of R142, with 16 added for f32 and f64. -/
def bufferRed (t : Thread) (va : Word) (l : Loc) (p : Spot) (e : Effect) (code size : Nat) (x : Word) : Thread :=
  match p with
  | .peer =>
    let m : PeerMsg := { tid := t.tid, asid := t.asid, dev := (l.peer.getD (0, 0)).1, off := (l.peer.getD (0, 0)).2,
                         va := va, pc := t.r.pc, act := .reduce code size x, since := 0, launch := t.launch }
    let u := noteReduce t l
    { u with ex := { u.ex with hands := u.ex.hands ++ [.peer m] } }
  | .host =>
    let h : HostAdd := { tid := t.tid, asid := t.asid, key := l.key, size := size, x := x, va := va, pc := t.r.pc, launch := t.launch }
    let u := noteReduce t l
    { u with ex := { u.ex with hands := u.ex.hands ++ [.hostAdd h], sysLines := t.ex.sysLines } }
  | _ =>
    let t := noteReduce t l
    { t with ex := { t.ex with effects := t.ex.effects ++ [e] } }

/-- RED, REDF and REDD on one location. -/
def reduce (n : Nat) (k : Atom) (a b : Fin 32) (code : Nat) (e : Nat → Word → Effect) (z : Fin 8) (s : State) :
    Out :=
  let ea := s.rg a
  let x := s.rg b
  s.check [.g a, .g b]
    (match atomPlace s ea n k with
      | .trap c v w => s.trapMem c v w
      | .nomem p => .fault (.noMemory p)
      | .ok (l, p) => s.screened [(ea, l)] n .reduce (fun s =>
          .next (s.done 4 z (bufferRed s.cur ea l p (e l.key x) code n x))))

/-- RED (R358). -/
def execRed (w : Bool) (o : Fin 8) (a b : Fin 32) (z : Fin 8) (s : State) : Out :=
  let n := if w then 8 else 4
  reduce n (.red o.val n) a b o.val (fun key x => .int o.val n key x) z s

/-- REDF (R358). -/
def execRedf (o : Fin 8) (a b : Fin 32) (z : Fin 8) (s : State) : Out :=
  reduce 4 .redf a b (16 + o.val) (fun key x => .flt o.val false key x) z s

/-- REDD (R358). -/
def execRedd (o : Fin 8) (a b : Fin 32) (z : Fin 8) (s : State) : Out :=
  reduce 8 .redf a b (16 + o.val) (fun key x => .flt o.val true key x) z s

/-- The places of the lanes of VRED: the lowest failing active lane decides (R360). -/
def redPlaces (s : State) (es : Nat) : List (Nat × Word) → Chk (List (Nat × Word × Loc × Spot))
  | [] => .ok []
  | (i, va) :: l => (atomPlace s va es .vred).bind (fun p =>
      (redPlaces s es l).bind (fun ps => .ok ((i, va, p.1, p.2) :: ps)))

/-- VRED (R360): vd names the base. -/
def execVred (t : Fin 8) (g : Fin 4) (d a b : Fin 32) (z : Fin 8) (s : State) : Out :=
  let es := if t.val = 5 then 8 else 4
  let gv := s.rp (guardReg g)
  let x := s.rv a
  let on := elemsOn (if t.val = 5 then 5 else 0) gv
  let at' (i : Nat) : Word := indexAddr (s.rg d) (s.rv b) i
  s.check [.g d, .v a, .v b, .p (guardReg g)]
    (match redPlaces s es (on.map (fun i => (i, at' i))) with
      | .trap c v w => s.trapMem c v w
      | .nomem p => .fault (.noMemory p)
      | .ok ps => s.screened (ps.map (fun e => (e.2.1, e.2.2.1))) es .reduce (fun s =>
          .next (s.done 4 z (ps.foldl (fun u e =>
            let v := BitVec.ofNat 64 (lane (8 * es) x e.1)
            let key := e.2.2.1.key
            let eff : Effect := if t.val = 0 || t.val = 1 then .int 0 4 key v else .flt 0 (t.val = 5) key v
            bufferRed u e.2.1 e.2.2.1 e.2.2.2 eff (if t.val = 0 || t.val = 1 then 0 else 16) es v) s.cur))))

/-- Checks 1-8 on every byte of a cell of bins, block of 16 KiB by block (R362). -/
def checkBins (s : State) : Nat → Word → Nat → Chk Unit
  | 0, _, _ => .ok ()
  | fuel + 1, va, n =>
    if n = 0 then .ok ()
    else (atomPlace s va 1 .vbina).bind (fun _ =>
      let step := 16384 - va.toNat % 16384
      if n ≤ step then .ok () else checkBins s fuel (va + BitVec.ofNat 64 step) (n - step))

/-- The counts places of the active lanes of VBINA, each checked with its cell of bins, in ascending lane order
(R362). bins is a multiple of the element size, or ALIGN. -/
def binPlaces (s : State) (es ncell cap : Nat) (cnts bins : Word) : List (Nat × Nat) →
    Chk (List (Nat × Option (Word × Loc)))
  | [] => .ok []
  | (i, c) :: l =>
    let rest := binPlaces s es ncell cap cnts bins l
    if ncell ≤ c then rest.bind (fun ps => .ok ((i, none) :: ps))
    else
      let va := cnts + BitVec.ofNat 64 (4 * c)
      let cell := bins + BitVec.ofNat 64 (c * cap * es)
      (atomPlace s va 4 .vbina).bind (fun p =>
        (if cap ≠ 0 ∧ bins.toNat % es ≠ 0 then .trap cALIGN cell 0
         else checkBins s (cap * es / 16384 + 2) cell (cap * es)).bind (fun _ =>
          rest.bind (fun ps => .ok ((i, some (va, p.1)) :: ps))))

/-- The places that the appends of VBINA mark in the chunk: counts words, and the overflow counter where a lane has no cell
(R335, R342). -/
def binProbes (ps : List (Nat × Option (Word × Loc))) (ovf : Word) (o : Loc) : List Probe :=
  probes (ps.filterMap (fun e => e.2)) 4 .reduce ++
  (if ps.any (fun e => e.2.isNone) then [⟨ovf, o, 8, .reduce⟩] else [])

/-- VBINA (R361, R362). -/
def execVbina (t : Fin 8) (g : Fin 4) (a b : Fin 32) (z : Fin 8) (s : State) : Out :=
  let es := if t.val = 5 then 8 else 4
  let gv := s.rp (guardReg g)
  let x := s.rv a
  let y := s.rv b
  let on := elemsOn (if t.val = 5 then 5 else 0) gv
  let cap := bitsOf (s.re 2) 0 32
  let ncell := bitsOf (s.re 2) 32 32
  let bins := s.re 1
  let ovf := s.re 3
  s.check [.v a, .v b, .p (guardReg g), .e 0, .e 1, .e 2, .e 3]
    (if on.isEmpty then .next (s.done 4 z s.cur)
     else match binPlaces s es ncell cap (s.re 0) bins (on.map (fun i => (i, lane 32 y i))) with
      | .trap c v w => s.trapMem c v w
      | .nomem p => .fault (.noMemory p)
      | .ok ps => (match atomPlace s ovf 8 .vbina with
        | .trap c v w => s.trapMem c v w
        | .nomem p => .fault (.noMemory p)
        | .ok (o, _) =>
          let cell (e : Nat × Option (Word × Loc)) : Word := bins + BitVec.ofNat 64 (lane 32 y e.1 * cap * es)
          if rangeStall s ovf 8 true || ps.any (fun e => e.2.isSome && rangeStall s (cell e) (cap * es) true) then
            .next s.stall
          else s.screenedAll (binProbes ps ovf o) (fun s =>
            .next (s.done 4 z (ps.foldl (fun u e =>
                let eff : Effect := .append (e.2.map (fun q => (q.2.key, q.2.line))) cap
                  (cell e) es (BitVec.ofNat 64 (lane (8 * es) x e.1)) o.key o.line ovf
                let u := noteReduce u ((e.2.map Prod.snd).getD o)
                { u with ex := { u.ex with effects := u.ex.effects ++ [eff] } }) s.cur)))))

/-- CHEND (R363): a chunk of one that touches no memory. -/
def execChend (z : Fin 8) (s : State) : Out := s.closing (fun s => .next (s.closed 4 z s.cur))

/-- CHID (R364): chunks of the item before the current one, and the position in the chunk; latency 2. -/
def execChid (d : Fin 32) (z : Fin 8) (s : State) : Out :=
  let t := s.cur
  let before := t.sinceDispatch + (match t.com with
    | some c => if c.task.isSome then 0 else 1
    | none => 0)
  let hi := if t.ordered then 0 else before % 2 ^ 52
  .next (s.done 4 z (t.putG s.cycle 2 d (BitVec.ofNat 64 (hi * 4096 + t.ex.count % 4096))))

/-- The check of the barrier instructions: n is the item's level, and the level has a barrier (R44, R365). -/
def barCheck (n : Fin 8) (s : State) (k : State → Out) : Out :=
  if n.val = s.cur.r.level.toNat ∧ (levelOf s s.cur).bscope ≠ 0 then s.closing k
  else s.trap cSCOPE (BitVec.ofNat 64 n.val) (s.cur.r.level.setWidth 64)

/-- The thread waits for its pending phase where that has not completed yet (R365). -/
def awaitPhase (s : State) : State :=
  match openPhase s s.cur with
  | some p => s.withCur { s.cur with wait := .barrier p.1 p.2 }
  | none => s

/-- BARA, and the wait of BAR: first the pending phase completes; the arrival is made at the point of the chunk of one, and by
an IRREVOCABLE body in place (R171, R365). -/
def arriving (waits : Bool) (z : Fin 8) (s : State) : State :=
  if (openPhase s s.cur).isSome then awaitPhase s
  else if s.cur.irrev then
    let s := arriveAt s s.cur.tid s.cur.lastV
    let s := s.closed 4 z s.cur
    if waits then awaitPhase s else s
  else s.closed 4 z { s.cur with ex := { s.cur.ex with hands := s.cur.ex.hands ++ [.arrive waits] } }

/-- BARA (R365). -/
def execBara (n z : Fin 8) (s : State) : Out := barCheck n s (fun s => .next (arriving false z s))

/-- BARW (R365). -/
def execBarw (n z : Fin 8) (s : State) : Out :=
  barCheck n s (fun s =>
    if (openPhase s s.cur).isSome then .next (awaitPhase s) else .next (s.closed 4 z { s.cur with pending := none }))

/-- BAR (R365): BARA, then the wait of BARW, which ends when the phase completes. -/
def execBar (n z : Fin 8) (s : State) : Out := barCheck n s (fun s => .next (arriving true z s))

/-- Sleepers at a Weir node (R367). -/
def watchesAt (s : State) (node : Nat) : Nat :=
  (s.threads.filter (fun t => match t.wait with
    | .waitv _ n _ _ => n == node
    | _ => false)).length

/-- Whether a commit after an order has touched a line (R367). -/
def touchedSince (s : State) (line : Line) (seen : Nat) : Bool :=
  s.weir.touched.any (fun e => e.1 == line && decide (seen < e.2))

/-- The largest v of what has written a line: that of its node, and of commits that have not released it yet (R339, R341). -/
def writerV (s : State) (line : Line) (node : Nat) : Nat :=
  s.threads.foldl (fun m t => match t.com with
    | some c => if c.phase == .numbered && (c.wlines ++ c.dlines).contains line then max m (c.num / 65536) else m
    | none => m) (s.node node).v

/-- WAITV (R367): the watch covers commits after the thread's last one; the wake's result comes back in answer. A write that has
come already is joined at once (R339). -/
def execWaitv (d a : Fin 32) (z : Fin 8) (s : State) : Out :=
  let va := s.rg a
  s.check [.g a] (s.closing (fun s =>
    let ends (s : State) (r : Nat) : Out := .next (s.closed 4 z (s.cur.loadG d (BitVec.ofNat 64 r) .load))
    match s.cur.ex.answer with
    | some (r, _) => ends s r
    | none => match resolve s s.cur va 1 .read with
      | .trap c v w => s.trapMem c v w
      | .nomem p => .fault (.noMemory p)
      | .ok l =>
        if (match l.leaf with
            | some f => f.irrev || f.loc != 0
            | none => false) then s.trapMem cSCOPE va 3
        else if touchedSince s l.line s.cur.lastOrder then
          ends (s.withCur { s.cur with lastV := max s.cur.lastV (writerV s l.line l.node) }) 0
        else if 1024 ≤ watchesAt s l.node then ends s 3
        else .next (s.withCur { s.cur with
          wait := .waitv l.line l.node s.cur.lastOrder (s.cycle + s.cur.r.waitto.toNat) })))

/-- Whether every host- and peer-directed write of a thread's chunks has been acknowledged; its copies' pieces are not among them
(R340, R368). -/
def writesAcked (s : State) (tid : Nat) : Bool :=
  !s.links.hostWrites.any (fun h => h.tid == tid && !h.copy) && !s.links.peerOut.any (fun m => m.tid == tid && !m.copy) &&
  !s.links.hostAdds.any (fun h => h.tid == tid)

/-- FENCE (R340, R368). -/
def execFence (e : Bool) (z : Fin 8) (s : State) : Out :=
  s.closing (fun s =>
    if e && !writesAcked s s.cur.tid then .next (s.withCur { s.cur with wait := .fence })
    else .next (s.closed 4 z s.cur))

/-- The GVT task of a launch by its last sample (R92). -/
def gvtTask (s : State) (idx : Nat) : Option Task :=
  (s.work.gvt.find? (fun g => g.launch == idx)).bind (fun g => s.task (idx, g.task))

/-- FINISHED ordered chunks of a core (R90). -/
def finishedOn (s : State) (core : Nat) : Nat :=
  (s.threads.filter (fun t => coreOf t.tid = core)).foldl (fun n t => n + t.openTasks.length) 0

/-- Whether an ordered body may finish: what it has shipped is answered, its trailing thread has run, and its core holds
fewer than four FINISHED chunks, unless its task is the GVT task (R90, R182, R418; log 24: DEDUCED, unsafe). -/
def mayFinish (s : State) (t : Thread) : Bool :=
  repliesIn s t.tid t.ex.gen && t.trailDone t.ex.gen &&
  (finishedOn s (coreOf t.tid) < 4 || (match t.ex.task with
    | some (l, k) => (gvtTask s l).map Task.id == some k
    | none => false))

/-- The end of an ordered body that is not IRREVOCABLE: its chunk is complete, the task is FINISHED, and the slot takes
other work (R88, R369). -/
def finishBody (z : Fin 8) (s : State) : Out :=
  if !mayFinish s s.cur then .next s.stall
  else
    let s := s.done 4 z s.cur
    let c := { s.cur.ex with phase := .ended }
    let s := match s.cur.ex.task with
      | some key => s.mapTask key (fun k => { k with state := .finished })
      | none => s
    .next (leaveBarriers (s.withCur { s.cur.toWaiting with fins := s.cur.fins ++ [c] }) s.cur.tid)

/-- The retirement by WEND or WAITW of a plain item, or of an IRREVOCABLE body: the chunk of one, or the body's chunk,
commits, then the item retires; while that commit cannot go, the instruction is tried again. -/
def retire (keeps : Bool) (z : Fin 8) (s : State) : Out :=
  let t := s.cur
  let u := s.done 4 z t
  let c := { u.cur.ex with phase := .ended, serial := u.cur.ex.serial || t.irrev }
  let u := match t.ex.task with
    | some key => u.mapTask key (fun k => { k with state := .finished, leave := true })
    | none => u
  let u := commitOlder (u.withCur { u.cur with com := some c }) t.tid
  if u.cur.com.isSome then .next s.stall
  else if t.ordered then .next { leaveBarriers u t.tid with cur := { u.cur.toWaiting with keeps := keeps } }
  else .next (retireItem u u.cur keeps)

/-- WEND (R369): ILL in the supervisor slot. -/
def execWend (z : Fin 8) (s : State) : Out :=
  if s.cur.super then s.trap cILL (BitVec.ofNat 64 ((encode (.wend z)).getD 0)) 0
  else if s.cur.inBody then finishBody z s
  else s.closing (retire false z)

/-- WAITW (R369): retires the item and keeps the registers; in the supervisor slot it sleeps until a post or a mailbox
signal, or returns at once where one is pending. -/
def execWaitw (z : Fin 8) (s : State) : Out :=
  s.closing (fun s =>
    if s.cur.super then
      (if s.cur.wakePending then .next (s.closed 4 z { s.cur with wakePending := false })
       else .next (s.withCur { s.cur with wait := .sleep }))
    else retire true z s)

/-- The continuation that YIELD writes (R51). -/
def continuation (s : State) : Item :=
  let t := s.cur
  let base := ((t.launch.bind s.launchAt).map (fun l => l.codebase)).getD 0
  let entry := bitsOf (t.r.pc + 4 - base) 0 32
  let w0 := BitVec.ofNat 64 (bitsOf t.item0.w0 32 32 * 2 ^ 32 + entry)
  { t.item0 with words := [w0, s.rg 1, s.rg 2, s.rg 3, s.rg 4, s.rg 5, s.rg 6, s.rg 7], cont := true, moves := 0, aged := 0 }

/-- YIELD (R51, R370). A slot without an item has nothing to continue and only ends its chunk (log 22: DESIGN CHOICE, unsafe). A
participant of an open phase of a domain instance leaves it as one that retires does; in a barrier of its group the continuation
stays a member (log 28: DESIGN CHOICE, unsafe). -/
def execYield (z : Fin 8) (s : State) : Out :=
  s.check [.g 1, .g 2, .g 3, .g 4, .g 5, .g 6, .g 7]
    (if s.cur.gang.isSome then s.trap cSCOPE 0 0
     else if s.cur.ordered then s.trap cORDER 0 0
     else s.closing (fun s =>
       if s.cur.launch.isNone then .next (s.closed 4 z s.cur)
       else
         let item := continuation s
         let u := s.done 4 z s.cur
         let c := { u.cur.ex with phase := .ended }
         let u := commitOlder (u.withCur { u.cur with com := some c }) s.cur.tid
         if u.cur.com.isSome then .next s.stall
         else
           let u := leaveBarriers u u.cur.tid
           let item := { item with v := u.cur.lastV, since := u.cycle }
           .next { u with cur := u.cur.toWaiting
                          work := { u.work with arriving := u.work.arriving ++ [(clusterOf u.cur.tid, item)] } }))

/-- The words of a template (R371). -/
def templateWords (x : Nat) : List Word := (List.range 8).map (fun i => BitVec.ofNat 64 (x / 2 ^ (64 * i)))

/-- The checks of R371 on a count and a template, in order; none: they pass. A slot without a launch has no level
(log 22: DESIGN CHOICE, unsafe). -/
def spawnCheck (s : State) (ordered : Bool) (n : Word) (ws : List Word) : Option (Nat × Word × Word) :=
  let lev := bitsOf (ws.headD 0) 32 3
  let bad := some (cSCOPE, n, BitVec.ofNat 64 lev)
  match s.cur.launch.bind s.launchAt with
  | none => bad
  | some l =>
    let d := l.levelAt lev
    if n = 0 ∨ 65536 < n.toNat ∨ l.nlev < lev ∨ lev < s.cur.r.level.toNat then bad
    else if d.bscope ≠ 0 ∧ gangCapacity s l d < n.toNat then bad
    else if ordered ∧ !l.ord then some (cORDER, 0, 0)
    else if ordered ∧ s.cur.ordered ∧ (ws.getD 1 0).toNat < s.cur.ts.toNat then some (cORDER, ws.getD 1 0, s.cur.ts)
    else none

/-- SPAWN and OSPAWN (R371, R372). -/
def spawning (ordered : Bool) (a b : Fin 32) (z : Fin 8) (s : State) : Out :=
  let va := s.rg a
  let n := s.rg b
  s.check [.g a, .g b] (s.access1 va 64 64 .read (fun s c l => s.reading 64 [(va, l)] (fun s =>
    let ws := templateWords (readNum s s.cur l 64)
    match spawnCheck s ordered n ws with
    | some (k, v, w) => s.trap k v w
    | none => handing s (.spawn ordered ws n.toNat) (fun s => .next (s.finish c 4 z (noteRead s.cur l))))))

/-- SPAWN (R371). -/
def execSpawn (a b : Fin 32) (z : Fin 8) (s : State) : Out := spawning false a b z s

/-- OSPAWN (R371). -/
def execOspawn (a b : Fin 32) (z : Fin 8) (s : State) : Out := spawning true a b z s

/-- A thread's own maximum of VSCX as an f32 code, with its flag (R253). -/
def scxOwn (m : BitVec 12) (g : Pred) (x : Vec) : Nat × Flags :=
  let l := (lanesOn g).map (fun i => dazBits .f32 m (lane 32 x i))
  (maxOf (l.map (fun c => if (fRd .f32 m c).isNan then Fmt.nan (nrOf m) .f32 else c % 2 ^ 31)),
   flagIf (l.any (fun c => (fRd .f32 m c).isSig)) fNV)

/-- The vector that VSCX writes: the maximum in lanes 0-14, k and to in lane 15 (R253). -/
def scxVec (k m : Nat) : Vec := vecOf 32 16 (fun i => if i = 15 then k else m)

/-- Whether a waiting thread is in the exchange group of size g of a little slot (R253). -/
def sameExchange (t : Thread) (g : Nat) (u : Thread) : Bool :=
  u.tid != t.tid && !isBig u.tid && u.tid % 8 == t.tid % 8 && tileOf u.tid == tileOf t.tid &&
  u.tid / 8 % 8 / g == t.tid / 8 % 8 / g && u.launch == t.launch &&
  (match u.wait with
    | .vscx h _ _ _ => h == g
    | _ => false)

/-- The opening cycle of a waiting member, its own maximum, and the flags of its elements. -/
def scxSince (u : Thread) : Nat := match u.wait with
  | .vscx _ since _ _ => since
  | _ => 0
def scxValue (u : Thread) : Nat := match u.wait with
  | .vscx _ _ own _ => own
  | _ => 0
def scxFlags (u : Thread) : Flags := match u.wait with
  | .vscx _ _ _ fl => fl
  | _ => 0

/-- A waiting member learns the outcome of its exchange, 2 * k + to and the maximum, and goes on; its flags are those that it
found when it issued (R253). -/
def scxEnd (u : Thread) (k m : Nat) : Thread :=
  { u.raise (scxFlags u) with wait := .none, ex := { u.ex with answer := some (k, BitVec.ofNat 64 m) } }

/-- Whether an open exchange of VSCX has run for 4,096 cycles of its tile (R253, R254). -/
def scxOver (s : State) (t : Thread) : Bool :=
  match t.wait with
  | .vscx _ since _ _ => decide (since + 4096 ≤ s.cycle) && !tileFrozen s (tileOf t.tid)
  | _ => false

/-- VSCX (R253, R254): the thread joins its group's open exchange or opens one; the last member closes it. A member whose
exchange has run out takes no part any more. Operands are read once, when it issues (R160). -/
def execVscx (g : Fin 4) (d a : Fin 32) (z : Fin 8) (s : State) : Out :=
  let gv := s.rp (guardReg g)
  let x := s.rv a
  s.check [.v a, .p (guardReg g)] (s.closing (fun s =>
    let ends (s : State) (fl : Flags) (k m : Nat) : Out :=
      .next (s.closed 4 z ((s.cur.raise fl).loadV d (scxVec k m) .unit))
    match s.cur.ex.answer with
    | some (k, m) => ends s 0 k m.toNat
    | none =>
      let own := scxOwn s.cur.r.fmode gv x
      s.withFlags (sigElems 2 gv s.cur.r.fmode x) (fun fl =>
        let n := if isBig s.cur.tid then 1 else 2 ^ s.cur.r.scxg.toNat
        let member (u : Thread) : Bool := sameExchange s.cur n u && !scxOver s u
        let others := s.others.filter member
        if n ≤ others.length + 1 then
          let m := maxOf (own.1 :: others.map scxValue)
          ends { s with others := s.others.map (fun u => if member u then scxEnd u (2 * n) m else u) } fl (2 * n) m
        else
          let since := match others with
            | [] => s.cycle
            | u :: _ => scxSince u
          .next (s.withCur { s.cur with wait := .vscx n since own.1 fl }))))

end Sys2Proof.Machine
end

