-- ==== Sys2Proof/Machine/Scoreboard.lean ====
section
/-! DEFINITION. Sys2Proof/Machine/Scoreboard.lean: the registers that each instruction reads and writes, and when a busy one
holds it (R154, R157, R158). -/

namespace Sys2Proof.Machine

/-- All e registers. -/
def allE : List Reg := [.e 0, .e 1, .e 2, .e 3, .e 4, .e 5, .e 6, .e 7]

/-- A register of a 16-bit form (R145). -/
def gc (n : Fin 8) : Reg := .g (r8 n)

/-- The guard of a vector instruction. -/
def guardOf (g : Fin 4) : Reg := .p (guardReg g)

/-- The registers that an instruction reads or writes (R158). A device step has none. -/
def instrRegs (i : Instr) : List Reg :=
  match i with
  | .add _ d a b _ | .sub _ d a b _ | .mul _ d a b _ | .mulh _ d a b _ | .mulhz _ d a b _ | .div _ d a b _ | .divz _ d a b _
  | .rem _ d a b _ | .remz _ d a b _ | .and _ d a b _ | .or _ d a b _ | .xor _ d a b _ | .andn _ d a b _ | .shl _ d a b _
  | .shr _ d a b _ | .sha _ d a b _ | .min _ d a b _ | .max _ d a b _ | .minz _ d a b _ | .maxz _ d a b _ | .extb _ d a b _
  | .insb _ d a b _ | .lea _ d a b _ | .fadd _ d a b _ | .fsub _ d a b _ | .fmul _ d a b _ | .fmin _ d a b _
  | .fmax _ d a b _ | .fsgn _ d a b _ | .fcmp _ d a b _ | .frfn _ d a b _ | .dadd d a b _ | .dsub d a b _ | .dmul d a b _
  | .ddiv d a b _ | .dmin d a b _ | .dmax d a b _ | .dcmp d a b _ | .fdiv d a b _ | .amo _ _ d a b _ =>
    [.g d, .g a, .g b]
  | .clz _ d a _ | .ctz _ d a _ | .popc _ d a _ | .abs _ d a _ | .addi d a _ _ | .andi d a _ _ | .ori d a _ _ | .xori d a _ _
  | .shli _ d a _ | .shri _ d a _ | .shai _ d a _ | .fcvt _ _ d a _ | .frcp _ d a _ | .frsq _ d a _ | .fclass _ d a _
  | .dsqrt d a _ | .dcvt _ _ d a _ | .fexp2 d a _ | .flog2 d a _ | .fsin d a _ | .fcos d a _ | .fsqrt d a _ | .ld _ d a _ _
  | .ldz _ d a _ _ | .st _ d a _ _ | .waitv d a _ | .csrw _ d a _ | .csrs _ d a _ | .csrc _ d a _ => [.g d, .g a]
  | .ffma _ c d a b _ | .dfma c d a b _ | .amocas _ c d a b _ => [.g d, .g a, .g b, .g c]
  | .sel p d a b _ => [.g d, .g a, .g b, .p p]
  | .li d _ _ | .lih d _ _ | .copyq d _ | .chid d _ | .csrr _ d _ => [.g d]
  | .cmp _ _ p a b _ => [.p p, .g a, .g b]
  | .cmpi _ p a _ _ => [.p p, .g a]
  | .pand d a b _ | .por d a b _ | .pxor d a b _ => [.p d, .p a, .p b]
  | .pnot d a _ => [.p d, .p a]
  | .pget d a _ | .pcnt d a _ => [.g d, .p a]
  | .pput d a _ => [.p d, .g a]
  | .beq _ a b _ | .bne _ a b _ | .blt _ a b _ | .bge _ a b _ | .blo _ a b _ | .bhs _ a b _ | .red _ _ a b _ | .redf _ a b _
  | .redd _ a b _ | .spawn a b _ | .ospawn a b _ => [.g a, .g b]
  | .bp _ p _ _ | .bnp _ p _ _ => [.p p]
  | .call _ _ => [.g 31]
  | .callr a _ _ => [.g 31, .g a]
  | .jr a _ _ | .loop _ a _ | .pref _ a _ | .dscrd a _ | .copyw a _ => [.g a]
  | .ext d a _ | .extld d a _ _ => [.e d, .g a]
  | .extget d a _ => [.g d, .e a]
  | .exti d _ _ => [.e d]
  | .vadd _ g d a b _ | .vsub _ g d a b _ | .vmul _ g d a b _ | .vfma _ g d a b _ | .vmin _ g d a b _ | .vmax _ g d a b _
  | .vsgn _ g d a b _ | .vand _ g d a b _ | .vor _ g d a b _ | .vxor _ g d a b _ | .vsel _ g d a b _ | .vshl _ g d a b _
  | .vshr _ g d a b _ | .vsha _ g d a b _ | .vqnt _ g d a b _ | .vdot _ g d a b _ | .vperm _ g d a b _ =>
    [.v d, .v a, .v b, guardOf g]
  | .vcmp _ _ p g a b _ => [.p p, .v a, .v b, guardOf g]
  | .viota _ g d _ => [.v d, guardOf g]
  | .vcvt _ _ g d a _ | .vscx g d a _ | .vreds _ _ g d a _ | .vscan _ _ g d a _ | .vcmpr _ g d a _ | .vexpd _ g d a _
  | .vrcp _ g d a _ | .vrsq _ g d a _ | .vtrn _ _ g d a _ => [.v d, .v a, guardOf g]
  | .vbcst _ g d a _ | .vld _ g d a _ _ | .vst _ g d a _ _ | .vldf _ g d a _ | .vstf _ g d a _ => [.v d, .g a, guardOf g]
  | .vgetl _ g d a b _ => [.g d, .v a, .g b, guardOf g]
  | .vsetl _ g d a b _ => [.v d, .g a, .g b, guardOf g]
  | .vlds _ g d a b _ | .vsts _ g d a b _ => [.v d, .g a, .g b, guardOf g]
  | .vgath _ g d a b _ | .vscat _ g d a b _ => [.v d, .g a, .v b, guardOf g]
  | .copy d _ => [.g d, .e 0, .e 1, .e 2, .e 3]
  | .zfill d _ => [.g d, .e 1, .e 2, .e 3]
  | .mma d _ | .mmaz d _ | .mdrn d _ | .mtrn d _ | .mrsum d _ => .g d :: allE
  | .amow _ d a b _ => .g a :: (pairRegs d ++ pairRegs b)
  | .amowcas c d a b _ => .g a :: (pairRegs c ++ pairRegs d ++ pairRegs b)
  | .vred _ g d a b _ => [.g d, .v a, .v b, guardOf g]
  | .vbina _ g a b _ => [.v a, .v b, guardOf g, .e 0, .e 1, .e 2, .e 3]
  | .trap .. => [.g 1]
  | .yield .. => [.g 1, .g 2, .g 3, .g 4, .g 5, .g 6, .g 7]
  | .addC d a b | .subC d a b | .andC d a b | .orC d a b => [gc d, gc a, gc b]
  | .addiC d a _ | .shliC _ d a | .shriC _ d a | .shaiC _ d a | .ldDC d a _ | .stDC d a _ => [gc d, gc a]
  | .liC d _ => [gc d]
  | .beqC _ a | .bneC _ a => [gc a]
  | .jrC => [.g 31]
  | _ => []

/-- The register that an instruction writes with a fixed latency on a little core, and the latency (R157). -/
def fixedDst (i : Instr) : Option (Reg × Nat) :=
  match i with
  | .mul _ d _ _ _ | .mulh _ d _ _ _ | .mulhz _ d _ _ _ => some (.g d, 4)
  | .fadd _ d _ _ _ | .fsub _ d _ _ _ | .fmul _ d _ _ _ | .fmin _ d _ _ _ | .fmax _ d _ _ _ | .fsgn _ d _ _ _
  | .fcmp _ d _ _ _ | .frfn _ d _ _ _ | .fcvt _ _ d _ _ | .frcp _ d _ _ | .frsq _ d _ _ | .fclass _ d _ _
  | .ffma _ _ d _ _ _ => some (.g d, 4)
  | .add _ d _ _ _ | .sub _ d _ _ _ | .and _ d _ _ _ | .or _ d _ _ _ | .xor _ d _ _ _ | .andn _ d _ _ _ | .shl _ d _ _ _
  | .shr _ d _ _ _ | .sha _ d _ _ _ | .min _ d _ _ _ | .max _ d _ _ _ | .minz _ d _ _ _ | .maxz _ d _ _ _ | .extb _ d _ _ _
  | .insb _ d _ _ _ | .lea _ d _ _ _ | .sel _ d _ _ _ | .clz _ d _ _ | .ctz _ d _ _ | .popc _ d _ _ | .abs _ d _ _
  | .addi d _ _ _ | .andi d _ _ _ | .ori d _ _ _ | .xori d _ _ _ | .shli _ d _ _ | .shri _ d _ _ | .shai _ d _ _ | .li d _ _
  | .lih d _ _ | .copyq d _ | .chid d _ | .csrr _ d _ | .csrw _ d _ _ | .csrs _ d _ _ | .csrc _ d _ _ | .pget d _ _
  | .pcnt d _ _ | .extget d _ _ => some (.g d, 2)
  | .loop _ a _ => some (.g a, 2)
  | .call .. | .callr .. => some (.g 31, 2)
  | .cmp _ _ p _ _ _ | .cmpi _ p _ _ _ => some (.p p, 2)
  | .pand d _ _ _ | .por d _ _ _ | .pxor d _ _ _ | .pnot d _ _ | .pput d _ _ => some (.p d, 2)
  | .ext d _ _ | .exti d _ _ => some (.e d, 2)
  | .addC d _ _ | .subC d _ _ | .andC d _ _ | .orC d _ _ | .addiC d _ _ | .shliC _ d _ | .shriC _ d _ | .shaiC _ d _
  | .liC d _ => some (gc d, 2)
  | .vadd _ _ d _ _ _ | .vsub _ _ d _ _ _ | .vmul _ _ d _ _ _ | .vfma _ _ d _ _ _ | .vmin _ _ d _ _ _ | .vmax _ _ d _ _ _
  | .vsgn _ _ d _ _ _ | .vand _ _ d _ _ _ | .vor _ _ d _ _ _ | .vxor _ _ d _ _ _ | .vsel _ _ d _ _ _ | .vshl _ _ d _ _ _
  | .vshr _ _ d _ _ _ | .vsha _ _ d _ _ _ | .viota _ _ d _ | .vcvt _ _ _ d _ _ | .vqnt _ _ d _ _ _ | .vbcst _ _ d _ _
  | .vsetl _ _ d _ _ _ | .vrcp _ _ d _ _ | .vrsq _ _ d _ _ => some (.v d, 6)
  | .vcmp _ _ p _ _ _ _ => some (.p p, 6)
  | .vgetl _ _ d _ _ _ => some (.g d, 6)
  | .vperm _ _ d _ _ _ | .vcmpr _ _ d _ _ | .vexpd _ _ d _ _ => some (.v d, 8)
  | _ => none

/-- The element type that makes a vector instruction heavy or not, and its destination register; a load's and a store's
have none here. VSCX is no command of the queue (R150, R161, R247, R253, log 25: DEDUCED, safe). -/
def vectorForm (i : Instr) : Option (Fin 8 × Option Reg) :=
  match i with
  | .vadd t _ d _ _ _ | .vsub t _ d _ _ _ | .vmul t _ d _ _ _ | .vfma t _ d _ _ _ | .vmin t _ d _ _ _ | .vmax t _ d _ _ _
  | .vsgn t _ d _ _ _ | .vand t _ d _ _ _ | .vor t _ d _ _ _ | .vxor t _ d _ _ _ | .vsel t _ d _ _ _ | .vshl t _ d _ _ _
  | .vshr t _ d _ _ _ | .vsha t _ d _ _ _ | .vdot t _ d _ _ _ | .vperm t _ d _ _ _ | .vsetl t _ d _ _ _ => some (t, some (.v d))
  | .vreds t _ _ d _ _ | .vscan t _ _ d _ _ => some (t, some (.v d))
  | .vbcst t _ d _ _ | .vcmpr t _ d _ _ | .vexpd t _ d _ _ | .vrcp t _ d _ _ | .vrsq t _ d _ _ => some (t, some (.v d))
  | .vcmp t _ p _ _ _ _ => some (t, some (.p p))
  | .vgetl t _ d _ _ _ => some (t, some (.g d))
  | .viota _ _ d _ | .vqnt _ _ d _ _ _ => some (0, some (.v d))
  | .vcvt t y _ d _ _ => some (if t = 5 ∨ y = 5 then 5 else 0, some (.v d))
  | .vtrn _ _ _ d _ _ => some (5, some (.v d))
  | .vld .. | .vst .. | .vlds .. | .vsts .. | .vgath .. | .vscat .. => some (0, none)
  | .vldf t .. | .vstf t .. => some (t, none)
  | _ => none

/-- The destination register of a vector command, which a little core passes to its vector unit. -/
def vectorCommand (i : Instr) : Option (Option Reg) :=
  match vectorForm i with
  | none => none
  | some (t, r) => if t = 5 then none else some r

/-- The register of a vector load, for which a load without an active lane holds its place in the queue (R293). -/
def loadSlot? (i : Instr) : Option Reg :=
  match i with
  | .vld _ _ d _ _ _ | .vlds _ _ d _ _ _ | .vgath _ _ d _ _ _ | .vldf _ _ d _ _ => some (.v d)
  | _ => none

/-- Whether an instruction is heavy (R150): on a little core it is shipped. -/
def shipsOff (i : Instr) : Bool := isScalarHeavy i || (vectorForm i).any (fun f => f.1 == 5)

/-- Whether an instruction is heavy and closes its chunk (R150, R170). -/
def shipsClosing (i : Instr) : Bool :=
  match i with
  | .amow .. | .amowcas .. | .mma .. | .mmaz .. | .mdrn .. | .mtrn .. | .mrsum .. => true
  | _ => false

/-- How many values the trailing thread of a pair takes from the load-value queue for an instruction; a shipped one's enters
with its reply (R417). -/
def takenValues (i : Instr) : Nat :=
  match i with
  | .ld .. | .ldz .. | .ldDC .. | .extld .. | .vld .. | .vlds .. | .vgath .. | .vldf .. | .amo .. | .amocas .. | .amow ..
  | .amowcas .. | .vscx .. | .waitv .. | .copy .. | .zfill .. | .copyq .. => 1
  | .csrr n .. | .csrw n .. | .csrs n .. | .csrc n .. =>
    bitOf ([0x003, 0x020, 0x022, 0x050, 0x051, 0x052, 0x053].contains n.toNat)
  | _ => 0

/-- Whether a busy register holds an instruction of a thread (R156, R158): a pending scoreboarded write, one that has landed
in this cycle, or an earlier fixed-latency write of its destination that would land after its own. -/
def heldByRegs (t : Thread) (now : Nat) (i : Instr) : Bool :=
  t.busy.any (fun b => (instrRegs i).contains b.reg) ||
  t.landed.any (fun e => e.2 == now && (instrRegs i).contains e.1) ||
  (match (if shipsOff i && !isBig t.tid then none else fixedDst i) with
    | none => false
    | some (r, lat) => t.stale.any (fun e => e.reg == r && decide (now + lat < e.due)))

end Sys2Proof.Machine
end

