-- ==== Sys2Proof/Machine/Ready.lean ====
section
/-! DEFINITION. Sys2Proof/Machine/Ready.lean: fetching an instruction (R126-R128), the boundaries that fall before it
(R34-R36, R166-R169), what holds it back (R154, R158, R161, R417), and which thread or guest entry a core issues next (R96,
R97, R154). -/

namespace Sys2Proof.Machine

/-- The place of a halfword of code, with the fetch checks 2-4 of R127. -/
def fetchLoc (s : State) (t : Thread) (a : Word) : Chk Loc :=
  if a.toNat / 2 ^ 52 ≠ 0 ∨ cluBase ≤ a.toNat then .trap cPROT a 0
  else match translate s t.asid a.toNat .fetch with
    | .trap c _ _ => .trap c a 0
    | x => x

/-- The word at a thread's PC: 16 bits when bit 0 is clear, else 32 (R126, R127). Code is committed memory (R128),
as it stands now (log 15: DEDUCED, unsafe). -/
def fetchWord (s : State) (t : Thread) : Chk Nat :=
  let pc := t.r.pc
  if pc.toNat % 2 = 1 then .trap cALIGN pc 0
  else (fetchLoc s t pc).bind (fun l =>
    let h := Memory.num s.mem l.key 2
    if h % 2 = 0 then
      if poisoned s l 2 then .trap cPOISON pc 0 else .ok h
    else (fetchLoc s t (pc + 2)).bind (fun l2 =>
      if poisoned s l 2 then .trap cPOISON pc 0
      else if poisoned s l2 2 then .trap cPOISON (pc + 2) 0
      else .ok (h + 65536 * Memory.num s.mem l2.key 2)))

/-- Which boundary falls before a thread's next instruction, whatever that is: 0 none, 1 a safe point, 2 capacity, 3 where a
truncated rerun stops (R166, R169); the kinds that an instruction itself calls for are taken in its meaning. -/
def boundaryBefore (s : State) (t : Thread) : Nat :=
  if t.ex.count = 0 || t.irrev then 0
  else if t.stopAt.any (fun n => decide (n ≤ t.ex.count)) then 3
  else if 4096 ≤ t.ex.count then 2
  else if !t.inBody && t.r.chmin.toNat ≤ t.ex.count then
    match safePointAt s t with
    | .no => 0
    | .failed => 0
    | _ => 1
  else 0

/-- Whether the trap that a thread owes is reached: everything before it has committed, or will where the thread stands at the
trap without a rerun (R184, R377). -/
def Thread.owing (t : Thread) : Bool :=
  t.owed.any (fun r => r.pc == t.r.pc) && (t.ex.count == 0 || !t.truncates) && t.stopAt.isNone

/-- Whether a thread waits only for its turn (R154): it runs, waits for nothing, has its pins or the serial token where
its rerun needs them and, with the token, its older chunk committed (R348, R349), and its tile's clock runs. -/
def runnable (s : State) (t : Thread) : Bool :=
  t.place == .run && t.wait == .none && decide (t.ready ≤ s.cycle) && !(t.mustPin && !t.ex.pinned) &&
  !(t.mustSerial && !t.ex.serial) && (!t.ex.serial || t.irrev || t.com.isNone) && tileTakes s (tileOf t.tid)

/-- The vector queue of a core (R161). -/
def State.queueOf (s : State) (core : Nat) : List VecCmd := Tbl.at s.queues core []

/-- Whether a little core has no reply slot for a heavy instruction; one that closes its chunk needs its slot once it is
alone (R154, R170, R173). -/
def slotLess (s : State) (t : Thread) (i : Instr) : Bool :=
  !isBig t.tid && (shipsOff i || (shipsClosing i && t.clean)) && !slotFree s t

/-- Whether the load-value queue of a pair has no room for what the leader takes: room is kept for the replies on the way, one
more, and a boundary's decision (R417, log 29: DESIGN CHOICE, safe). -/
def valuesFull (t : Thread) (i : Instr) : Bool :=
  t.trail.any (fun x => decide (64 < x.queue.length + t.slots + 2 + takenValues i))

/-- Whether a register, a full vector queue, a missing reply slot, or a full load-value queue holds an instruction of a
thread (R154, R158, R161, R417). -/
def holdsBack (s : State) (t : Thread) (i : Instr) : Bool :=
  heldByRegs t s.cycle i || slotLess s t i || valuesFull t i ||
  (!isBig t.tid && (vectorCommand i).isSome && decide (8 ≤ (s.queueOf (coreOf t.tid)).length))

/-- Whether a thread's next instruction is held back. A boundary or a trap that comes before it is not. -/
def heldBack (s : State) (t : Thread) : Bool :=
  if t.stepOwed.isSome || t.owing || boundaryBefore s t != 0 then false
  else match fetchWord s t with
    | .ok w => match decode w with
      | some i => holdsBack s t i
      | none => false
    | _ => false

/-- Whether a slot is ready (R154). -/
def ready (s : State) (t : Thread) : Bool := runnable s t && !heldBack s t

/-- How far a slot lies from its core's rotation pointer (R154). -/
def turnsAway (s : State) (t : Thread) : Nat :=
  let n := if isBig t.tid then 4 else 8
  (t.tid % 8 + n - Tbl.at s.barrel (coreOf t.tid) 0) % n

/-- Penstock entries of a cluster's big core, in the order of their admission (R96). -/
def entriesAt (s : State) (c : Nat) : List Ship :=
  s.ships.filter (fun x => x.admitted && !x.issued && !x.replied && x.cluster == c)

/-- The guest entry that a big core issues next: first in, first out for each source core, round robin among source
cores (R96). An entry whose AtomicOp the host has not answered is passed by, and one that has been held back stands. A cancelled one is
passed by, but an arithmetic one may issue before the notice that a frozen big tile has refused comes again (R181, R475). -/
def nextGuest (s : State) (c : Nat) : Option Ship :=
  let waiting := (entriesAt s c).filter (fun x =>
    (!x.cancelled || (decide (s.cycle < x.noticeAt) && !shipsClosing x.instr)) && !(x.asked && x.hostOk.isNone))
  let cores := waiting.foldl (fun l x => insertAsc (coreOf x.tid) l) []
  let heads := cores.filterMap (fun k =>
    (waiting.find? (fun x => coreOf x.tid == k)).bind (fun x => if x.retryAt ≤ s.cycle then some x else none))
  let last := Tbl.at s.rot c 0
  match heads.find? (fun x => decide (last < coreOf x.tid)) with
  | some x => some x
  | none => heads.head?

/-- Whether the present cycle is a guest cycle of a cluster's big core: windows of 16 cycles, SHARE guest cycles in each,
and a SHARE of 0 counts as 1 (R97). -/
def guestCycle (s : State) (c : Nat) : Bool :=
  let w := max 1 (Tbl.at s.shares c (8 : BitVec 4)).toNat
  let i := s.cycle % 16
  decide (i * w / 16 < (i + 1) * w / 16)

/-- Instructions that a core may still issue in this cycle: of one on a little core, of four on a big one (R154, R163). -/
def issuesLeft (s : State) (core : Nat) : Nat := (if core < 8192 then 1 else 4) - s.turn.count core

/-- Whether guests come before natives on a core in this cycle and one is ready (R97). -/
def guestsFirst (s : State) (core : Nat) : Bool :=
  8192 ≤ core && guestCycle s (core - 8192) && !tileFrozen s (1024 + (core - 8192)) && (nextGuest s (core - 8192)).isSome

/-- Whether a thread issues next on its core in this cycle: the core has issue width left, which no guest takes first, and
of its ready slots this is the first at or after the pointer (R97, R154). -/
def elected (s : State) (t : Thread) : Bool :=
  ready s t && issuesLeft s (coreOf t.tid) != 0 && !guestsFirst s (coreOf t.tid) &&
  s.threads.all (fun u => coreOf u.tid != coreOf t.tid || decide (turnsAway s t ≤ turnsAway s u) || !ready s u)

/-- Whether a big core issues a guest entry now: in a guest cycle first, else in what its ready native threads leave (R97). -/
def guestTurn (s : State) (c : Nat) : Bool :=
  !tileFrozen s (1024 + c) && issuesLeft s (8192 + c) != 0 &&
  (guestCycle s c || s.threads.all (fun t => coreOf t.tid != 8192 + c || !ready s t))

end Sys2Proof.Machine
end

