-- ==== Sys2Proof/Machine/Ship.lean ====
section
/-! DEFINITION. Sys2Proof/Machine/Ship.lean: results that become available (R156, R158, R161, R279) and the way of a shipped
instruction through the Penstock and back (R172-R186, R328, R357), with the timeout of VSCX (R253). -/

namespace Sys2Proof.Machine

/-- A thread changed by a device step, where its tile's core takes it. -/
def State.atCore (s : State) (tid : Nat) (f : Thread → Thread) : State :=
  match s.thread tid with
  | none => s
  | some t => if tileFrozen s (tileOf tid) then s else s.setThread (f t)

/-- The oldest busy register of a kind lands (R156). -/
def landFirst (now : Nat) (p : Busy → Bool) (t : Thread) : Thread :=
  match t.busy.find? p with
  | none => t
  | some b => t.land now b

/-- A reply reaches a thread whose tile runs: the oldest register that waits for it becomes readable. -/
def wakeReg (tid : Nat) (why : BusyBy) (s : State) : State :=
  s.atCore tid (landFirst s.cycle (fun b => b.why == why))

/-- Whether a busy register waits for a command of the vector queue: a long vector result, or a vector load's place (R161,
R293). -/
def Busy.queued (b : Busy) : Bool := b.why == .unit || b.why == .slot

/-- Whether a local result of a thread is available now: one that no command of its core's queue writes, or that of a
division, 20 cycles after its issue at the earliest (R157, R161). -/
def localDone (s : State) (t : Thread) (b : Busy) : Bool :=
  (b.queued && !(s.queueOf (coreOf t.tid)).contains ⟨t.tid, some b.reg⟩) || (b.why == .div && decide (b.since + 20 ≤ s.cycle))

/-- The vector unit retires the command at the head of its queue; its register is written unless a later command of the
thread writes it too (R161). -/
def retireCommand (core : Nat) (s : State) : State :=
  match s.queueOf core with
  | [] => s
  | c :: q =>
    let s := { s with queues := Tbl.put s.queues core q }
    match c.reg with
    | none => s
    | some r => if q.contains c then s else s.atCore c.tid (landFirst s.cycle (fun b => b.queued && b.reg == r))

/-- RESULT_WRITEBACK (R156-R158, R160, R161): the thread's command at the head of the vector queue retires, or else its
oldest other local result is available; and so are the fixed-latency results whose cycles have passed. -/
def execResultWriteback (tid : Nat) (s : State) : Out :=
  if tileFrozen s (tileOf tid) then .next s
  else
    let q := s.queueOf (coreOf tid)
    let s := if q.head?.map VecCmd.tid = some tid then retireCommand (coreOf tid) s
      else s.atCore tid (fun t => landFirst s.cycle (localDone s t) t)
    .next (s.mapThreads (fun t => if t.tid = tid then { t with stale := t.stale.filter (fun e => s.cycle < e.due) } else t))

/-- MEMORY_REPLY (R158, R279): the oldest outstanding load's register is written. Its value is the
one at the issue (log 6: DEDUCED, safe). -/
def execMemoryReply (tid : Nat) (s : State) : Out := .next (wakeReg tid .load s)

/-- A shipped instruction by its number. -/
def State.ship (s : State) (k : Nat) : Option Ship := s.ships.find? (fun x => x.id == k)

/-- The state with a shipped instruction changed, or gone. -/
def State.mapShip (s : State) (k : Nat) (f : Ship → Ship) : State :=
  { s with ships := s.ships.map (fun x => if x.id = k then f x else x) }
def State.dropShip (s : State) (k : Nat) : State := { s with ships := s.ships.filter (fun x => x.id != k) }

/-- The cluster whose big core serves a sender's cluster: a moved big tile serves its old cluster, until an image is restored
there (R411). -/
def routeCluster (s : State) (c : Nat) : Nat := Tbl.at s.freeze.hubs c c

/-- Whether one of the two entries that a Penstock reserves for the sender's core is free to it: those are for cores of the
same cluster (R96, R177). -/
def reservedFree (s : State) (x : Ship) (c : Nat) : Bool :=
  clusterOf x.tid == c && decide (((entriesAt s c).filter (fun y => !y.pool && coreOf y.tid == coreOf x.tid)).length < 2)

/-- Whether a Penstock has a free entry in its pool of 64 (R96, R177). -/
def poolFree (s : State) (c : Nat) : Bool := decide (((entriesAt s c).filter Ship.pool).length < 64)

/-- Whether the Penstock of a cluster has an entry for a request (R177). -/
def hasEntry (s : State) (x : Ship) (c : Nat) : Bool :=
  !tileFrozen s (1024 + c) && (reservedFree s x c || poolFree s c)

/-- PENSTOCK_ADMIT (R177): a request is admitted behind every earlier one, or, where it finds no entry, refused and goes again
16 cycles later. -/
def execPenstockAdmit (k : Nat) (s : State) : Out :=
  match s.ship k with
  | none => .next s
  | some x =>
    if x.admitted ∨ x.replied ∨ x.retryAt ≠ 0 then .next s
    else
      let c := routeCluster s x.cluster
      if hasEntry s x c then
        let s' := s.dropShip k
        .next { s' with ships := s'.ships ++ [{ x with admitted := true, pool := !reservedFree s x c, cluster := c }] }
      else .next (s.mapShip k (fun x => { x with retryAt := s.cycle + 16 }))

/-- SHIP_RETRY (R177, R397): the sender, its clock running, sends a refused request again. -/
def execShipRetry (k : Nat) (s : State) : Out :=
  match s.ship k with
  | none => .next s
  | some x =>
    if x.admitted ∨ x.retryAt = 0 ∨ s.cycle < x.retryAt ∨ tileFrozen s (tileOf x.tid) then .next s
    else .next (s.mapShip k (fun x => { x with retryAt := 0 }))

/-- What a big core answers to a request of arithmetic (R175, R178): the result, or an enabled exception. A result stands in
the low bits. -/
def guestReply (x : Ship) : Ship :=
  let r := heavyResult x.instr x.fmode x.seed x.guard x.x x.y x.z x.a x.b x.c
  let fl := joinFlags r.elems
  let en := enOf x.fmode
  let word := if isScalarHeavy x.instr then r.word.setWidth 512 else (match x.instr with
    | .vcmp .. => r.pred.setWidth 512
    | .vgetl .. => r.word.setWidth 512
    | _ => r.vec)
  if fl &&& en = 0 then
    { x with issued := true, replied := true, status := 0, flags := fl, result := word, writes := r.writes }
  else
    { x with issued := true, replied := true, status := 2, cause := cFPE, flags := fl, val := fl.setWidth 64,
             val2 := BitVec.ofNat 64 (enabledMask en r.elems) }

/-- The context in which a big core executes what a request asks of memory: the sender's chunk of one, in the request's
address space, with its mode and generator, and nothing of the big core's own (R178). -/
def guestThread (s : State) (x : Ship) : Thread :=
  let t := match s.thread x.tid with
    | some t => t
    | none => ((s.freeze.images.flatMap Image.threads).find? (fun (t : Thread) => t.tid == x.tid)).getD (Thread.fresh x.tid false)
  { t with asid := x.asid, r := { t.r with fmode := x.fmode, srseed := x.seed } }

/-- The state in which it does: that context has the turn. -/
def guestState (s : State) (x : Ship) : State := { s with cur := guestThread s x, others := s.threads }

/-- The module's threads again after a guest's execution, which has left the sender's own alone. -/
def State.afterGuest (s : State) (u : State) : State :=
  match u.others with
  | [] => { u with cur := s.cur, others := s.others }
  | t :: ts => { u with cur := t, others := ts }

/-- What a request comes to that accesses memory: a 128-bit atomic or a matrix job (R319, R357). none: arithmetic. -/
def remoteBody (x : Ship) : Option (State → Remote) :=
  match x.instr with
  | .amow .. | .amowcas .. => some (wideBody x.instr x.a (x.x.toNat % 2 ^ 128) (x.y.toNat % 2 ^ 128) (x.hostOk.map (fun ok =>
      if ok then some x.hostVal.toNat else none)))
  | i => (jobOf i).map (fun j => jobBody j (unpackDesc x.x) x.cluster)

/-- A request that accesses memory is executed where it is (R178, R328, R357): it is held back, or asks the host, or outgrows
its sender's pins, or its fault is the reply, or its reads and writes are held until the sender's commit. A matrix job's
reply waits for its end. -/
def guestRun (x : Ship) (body : State → Remote) (s : State) : Out :=
  let set (u : State) (f : Ship → Ship) : Out := .next ((s.afterGuest u).mapShip x.id f)
  let fails (c : Nat) (v w : Word) (x : Ship) : Ship :=
    { x with issued := true, replied := true, status := if c = cFPE then 2 else 1, cause := c, val := v, val2 := w }
  match body (guestState s x) with
  | .later u => set u (fun x => { x with retryAt := s.cycle + 1 })
  | .ask => .next (s.mapShip x.id (fun x => { x with asked := true }))
  | .outgrown _ => .next (s.onThread x.tid outgrow)
  | .trap c v w => .next (s.mapShip x.id (fails c v w))
  | .nomem p => .fault (.noMemory p)
  | .done u r fl _ =>
    let c := u.cur.ex
    set (u.share x.cluster (c.rlines ++ c.wlines)) (fun x => { x with
      issued := true, replied := (jobOf x.instr).isNone, status := 0, flags := fl, result := r, chunk := some c })

/-- A request executes at its big core. -/
def guestExecute (x : Ship) (s : State) : Out :=
  match remoteBody x with
  | none => .next (s.mapShip x.id guestReply)
  | some body => guestRun x body s

/-- A big core has issued a guest entry: one more of the cycle's four, and the next source core's turn (R96, R97). -/
def State.guestSpent (s : State) (c core : Nat) : State :=
  { s with turn := (8192 + c) :: s.turn, rot := Tbl.put s.rot c core }

/-- GUEST_EXECUTE (R97, R178): the big core of a cluster issues a guest entry in its turn. -/
def execGuestExecute (c : Nat) (s : State) : Out :=
  if !guestTurn s c then .next s
  else match nextGuest s c with
    | none => .next s
    | some x => guestExecute x (s.guestSpent c (coreOf x.tid))

/-- A shipped matrix job that is under way. -/
def runningJob (s : State) (tid : Nat) : Option Ship :=
  s.ships.find? (fun x => x.tid == tid && (jobOf x.instr).isSome && x.issued && !x.replied)

/-- MATRIX_JOB_COMPLETE (R328, R329): the job of a thread ends; one that a write signature has squashed begins again, and on a
frozen big tile none goes on. On a big core its status register becomes readable. -/
def execMatrixJobComplete (tid : Nat) (s : State) : Out :=
  match runningJob s tid with
  | none => .next (wakeReg tid .job s)
  | some x =>
    if tileFrozen s (1024 + x.cluster) then .next s
    else if x.cancelled then .next (s.mapShip x.id (fun x => { x with replied := true, status := 4 }))
    else match x.chunk, remoteBody x with
      | none, some body => guestRun x body s
      | _, _ => .next (s.mapShip x.id (fun x => { x with replied := true, status := 0 }))

/-- Writes a reply's result into a register file (R180). -/
def replyRegs (r : Regs) (reg : Option Reg) (x : Ship) : Regs :=
  let r := { r with fflags := r.fflags ||| x.flags }
  if !x.writes then r
  else match reg with
    | some (.g n) => { r with g := r.g.set n (x.result.setWidth 64) }
    | some (.p n) => { r with p := r.p.set n (x.result.setWidth 16) }
    | some (.v n) => { r with v := r.v.set n x.result }
    | some (.e n) => { r with e := r.e.set n (x.result.setWidth 64) }
    | none => r

/-- A reply of status 0 for an instruction whose chunk still stands: destination, flags, busy state; readers are ready in the
next cycle, and a thread held for it goes on (R180, R184). For the committing chunk, the checkpoint of the executing one holds
the result too. -/
def deliverReply (now : Nat) (t : Thread) (x : Ship) : Thread :=
  let b := t.busy.find? (fun b => b.why == .ship x.id)
  let reg := b.map Busy.reg
  let t := match b with
    | none => t
    | some b => t.land now b
  let t : Thread := { t with r := replyRegs t.r reg x, wait := if t.wait = Wait.ship x.id then .none else t.wait }
  let t := t.leads x.gen [x.result]
  if x.gen = t.ex.gen then t else { t with ex := { t.ex with ckpt := replyRegs t.ex.ckpt reg x } }

/-- The result of a chunk-closing shipped instruction reaches the issuing thread's registers: the pair of a 128-bit atomic,
the status word of a job (R325, R356). -/
def replyPut (i : Instr) (now : Nat) (t : Thread) (x : Vec) : Thread :=
  let put (t : Thread) (n : Fin 32) (x : Word) : Thread :=
    if n = 0 then t
    else { t with r := { t.r with g := t.r.g.set n x }, stale := t.stale.filter (fun e => e.reg ≠ .g n)
                  landed := (.g n, now) :: t.landed.filter (fun e => e.2 = now) }
  match i with
  | .amow _ d .. | .amowcas _ d .. => put (put t (evenReg d) (x.setWidth 64)) (oddReg d) ((x >>> 64).setWidth 64)
  | .mma d _ | .mmaz d _ | .mdrn d _ | .mtrn d _ | .mrsum d _ => put t d (x.setWidth 64)
  | _ => t

/-- The stall field of a chunk-closing shipped instruction. -/
def replyStall (i : Instr) : Fin 8 :=
  match i with
  | .amow _ _ _ _ z | .amowcas _ _ _ _ z | .mma _ z | .mmaz _ z | .mdrn _ z | .mtrn _ z | .mrsum _ z => z
  | _ => 0

/-- A chunk-closing shipped instruction ends with its reply of status 0: the chunk of one holds what its executing core has
read and written, and it commits (R170, R328, R357). -/
def finishShip (x : Ship) (s : State) : State :=
  let t := s.cur
  let c := x.chunk.getD t.ex
  let s := s.share (clusterOf t.tid) (c.rlines ++ c.wlines)
  let asked := x.asked && x.hostOk == some true
  let t := { t with wait := .none, ex := { c with doomed := c.doomed || t.ex.doomed
                                                  answer := if asked then some (0, 0) else c.answer
                                                  lanes := if asked then [x.hostVal.toNat] else c.lanes } }
  let t := (replyPut x.instr s.cycle t x.result).raise x.flags
  s.closed 4 (replyStall x.instr) (t.leads t.ex.gen [x.result])

/-- A shipped fault rolls its chunk back; the rerun is in serial-ship mode (R183, R184). -/
def shipFault (s : State) (t : Thread) (x : Ship) : State :=
  let older := x.gen ≠ t.ex.gen
  let hit := if older then t.com.getD t.ex else t.ex
  match hit.task with
  | some key =>
    squash (s.mapTask key (fun k => { k with serialShip := true })) t.tid older 3
  | none =>
    let s := squash s t.tid older 3
    match s.thread t.tid with
    | none => s
    | some t => s.setThread { t with ex := { t.ex with serialShip := true } }

/-- In serial-ship mode the thread stands held behind the instruction: a fault is taken there as if it had not issued (R184).
A chunk-closing instruction has not moved the PC. -/
def unissue (t : Thread) (x : Ship) : Thread :=
  let back := if shipsClosing x.instr then t.r.pc else t.r.pc - 4
  { t with wait := .none, stepOwed := none, busy := t.busy.filter (fun b => b.why != .ship x.id)
           r := { t.r with pc := back, srseed := x.seed }
           ex := { t.ex with count := if shipsClosing x.instr then t.ex.count else x.seq } }

/-- The precise trap of a shipped fault in serial-ship mode (R184). -/
def shipTrap (x : Ship) (s : State) : State :=
  trapShipped (s.withCur (unissue s.cur x)) x.cause x.val x.val2 x.cluster

/-- The same request goes again, with the same chk and sid, from where it was refused or dropped (R177, R329). -/
def Ship.again (x : Ship) : Ship :=
  { x with admitted := false, pool := false, retryAt := 0, issued := false, asked := false, hostOk := none, chunk := none,
           replied := false, status := 0 }

/-- The write signatures on their way to the tile of the core that has performed a request are received there before what it holds
leaves for the sender (R328, R343). -/
def deliverSignatures (s : State) (x : Ship) : State :=
  s.threads.foldl (fun s t => match t.com with
    | some c => if c.phase == .numbered && c.acks.contains (1024 + x.cluster) then
        receiveJob false t.asid (c.wlines ++ c.dlines) s x else s
    | none => s) s

/-- What a reply that reaches a running core does (R180-R186, R329). -/
def takeReply (k : Nat) (s : State) : Out :=
  match s.ship k with
  | none => .next s
  | some x => match s.thread x.tid with
    | none => .next (if x.replied && x.cancelled then s.dropShip k else s)
    | some t =>
      if !x.replied ∨ tileFrozen s (tileOf x.tid) then .next s
      else
        let stands := !x.cancelled && (x.gen == t.ex.gen || (t.com.map Chunk.gen) == some x.gen)
        if stands && x.status == 4 then .next (s.mapShip k Ship.again)
        else
          let t := { t with slots := t.slots - 1 }
          let s := (s.dropShip k).setThread t
          if !stands then .next s
          else match x.status with
            | 0 =>
              if shipsClosing x.instr then
                .next (if t.wait = .ship k then s.onThread x.tid (finishShip x) else s)
              else .next (s.setThread (deliverReply s.cycle t x))
            | 1 | 2 =>
              if x.gen = t.ex.gen ∧ t.ex.serialShip then .next (s.onThread x.tid (shipTrap x)) else .next (shipFault s t x)
            | _ => .next (consumeError s x.tid x.val none x.cause)

/-- SHIP_REPLY (R180-R186, R329): the reply slot is freed; the result is written, or the reply is discarded, or the chunk is
rolled back, or the fault is taken, or an error has been consumed. A dropped request that is not cancelled goes again. -/
def execShipReply (k : Nat) (s : State) : Out :=
  match s.ship k with
  | none => .next s
  | some x => takeReply k (if x.replied && x.chunk.isSome && !tileFrozen s (tileOf x.tid) then deliverSignatures s x else s)

/-- What the trailing thread of a pair does next: what its leader has done, with the values from the queue; an empty queue
stalls it (R417). -/
def trailStep (t : Thread) : Thread :=
  match t.trail with
  | none => t
  | some x => match x.todo with
    | [] => t
    | a :: rest =>
      if a.takes ≤ x.queue.length then { t with trail := some { r := a.r, todo := rest, queue := x.queue.drop a.takes } }
      else t

/-- Whether it can. -/
def trailDue (t : Thread) : Bool := t.trail.any (fun x => x.todo.head?.any (fun a => decide (a.takes ≤ x.queue.length)))

/-- CANCEL_NOTICE (R181, R475): an entry that has not issued is dropped and answered with status 4; a frozen big tile refuses the
notice, and the sender holds it for 16 cycles, and while its own clock stands. -/
def execCancelNotice (k : Nat) (s : State) : Out :=
  match s.ship k with
  | none => .next s
  | some x =>
    if x.cancelled && !x.issued && !x.replied && decide (x.noticeAt ≤ s.cycle) &&
        !(x.noticeAt != 0 && tileFrozen s (tileOf x.tid)) then
      if x.admitted && tileFrozen s (1024 + x.cluster) then .next (s.mapShip k (fun x => { x with noticeAt := s.cycle + 16 }))
      else .next (s.mapShip k (fun x => { x with replied := true, status := 4 }))
    else .next s

/-- The members of a waiting thread's exchange, those of the same opening, receive their own maxima with count 1 and to 1
(R253). -/
def scxClose (t u : Thread) : Thread :=
  match t.wait with
  | .vscx g since _ _ =>
    if u.tid = t.tid ∨ (sameExchange t g u ∧ scxSince u = since) then scxEnd u 3 (scxValue u) else u
  | _ => u

/-- VSCX_TIMEOUT (R253, R254). -/
def execVscxTimeout (tid : Nat) (s : State) : Out :=
  match s.thread tid with
  | none => .next s
  | some t => if scxOver s t then .next (s.mapThreads (scxClose t)) else .next s

end Sys2Proof.Machine
end

