-- ==== Sys2Proof/Machine/Launch.lean ====
section
/-! DEFINITION. Sys2Proof/Machine/Launch.lean: the launch chains, the command processors, the checks on a launch record,
the grid map, and the holding and release of cores (R39-R41, R53-R71, R419). -/

namespace Sys2Proof.Machine

/-- Sorts by a key, stable. -/
def insertBy {α : Type} (f : α → Nat) (x : α) : List α → List α
  | [] => [x]
  | y :: l => if f y ≤ f x then y :: insertBy f x l else x :: y :: l
def sortBy {α : Type} (f : α → Nat) (l : List α) : List α := l.foldl (fun m x => insertBy f x m) []

/-- LCCTL.en and the entry count of a chain (R55, R57). -/
def Func.en (x : Func) : Bool := x.lcctl.getLsbD 8
def Func.ring (x : Func) : Nat := 2 ^ bitsOf x.lcctl 0 5

/-- LCSTAT.stopped (R55). -/
def Func.stopped (x : Func) : Bool := x.lcstat / 4 % 2 == 1

/-- LCSTAT with flags set, bit 0 badtail, bit 1 fetch, bit 2 stopped; vector 3 is raised when stopped becomes 1 (R57,
R58, R424). -/
def setStat (s : State) (f bits : Nat) : State :=
  let was := (s.func f).stopped
  let s := s.mapFunc f (fun x => { x with lcstat := x.lcstat ||| bits })
  if !was && (s.func f).stopped then raiseVector s f 3 else s

/-- LCBASE_WRITE (R55, R56). -/
def execLcbaseWrite (f : Fin 17) (v : BitVec 64) (s : State) : Out :=
  .next (s.mapFunc f.val (fun x => if x.en then x else { x with lcbase := v &&& ~~~0x7E }))

/-- LCCTL_ENABLE (R56): the chains may be enabled once START has replied (R442 step 5). -/
def execLcctlEnable (f : Fin 17) (v : BitVec 64) (s : State) : Out :=
  if s.boot.started && !((s.box 0).busy && (s.box 0).code == 3) && v.getLsbD 8 then
    .next (s.mapFunc f.val (fun x =>
      if x.en then x
      else
        let n := bitsOf v 0 5
        if n < 4 ∨ 16 < n then { x with lcctl := BitVec.ofNat 64 n }
        else { x with lcctl := BitVec.ofNat 64 (256 + n), lchead := 0, lctail := 0, lcseq := 0, lcack := 0, epoch := x.epoch + 1 }))
  else .next s

/-- LCCTL_DISABLE (R56). -/
def execLcctlDisable (f : Fin 17) (v : BitVec 64) (s : State) : Out :=
  if v.getLsbD 8 then .next s
  else .next (s.mapFunc f.val (fun x => { x with
    lcctl := BitVec.ofNat 64 (if x.en then bitsOf x.lcctl 0 5 else bitsOf v 0 5) }))

/-- A write of LCTAIL, the function's earlier writes to device memory being done (R56, R57, R339). -/
def writeTail (f : Fin 17) (v : BitVec 64) (s : State) : State :=
  let x := s.func f.val
  let n := x.ring
  let t := v.toNat
  if !x.en then s
  else if n ≤ t ∨ n - 1 - (x.lctail + n - x.lchead) % n < (t + n - x.lctail) % n then setStat s f.val 5
  else s.mapFunc f.val (fun x => { x with lctail := t, tailV := Tbl.at s.weir.sources f.val 0 })

/-- LCSTAT_STOPPED_CLEAR (R57). -/
def execLcstatStoppedClear (f : Fin 17) (s : State) : Out :=
  .next (s.mapFunc f.val (fun x => { x with lcstat := x.lcstat % 4 }))

/-- LCSTAT_FLAG_CLEAR (R55). -/
def execLcstatFlagClear (f : Fin 17) (badtail fetch : Bool) (s : State) : Out :=
  .next (s.mapFunc f.val (fun x => { x with
    lcstat := x.lcstat / 4 * 4 + (if fetch then 0 else x.lcstat / 2 % 2 * 2) + (if badtail then 0 else x.lcstat % 2) }))

/-- REGISTER_WRITE (R423, R439): MBOP, MBREQ and the MSI-X table store; other offsets ignore the write. -/
def execRegisterWrite (f : Fin 17) (off : Nat) (v : BitVec 64) (s : State) : Out :=
  if off % 8 ≠ 0 then .next s
  else if off = 0 then .next (s.mapBox f.val (fun b => { b with op := v &&& ~~~0xFFFF0000 }))
  else if 0x40 ≤ off ∧ off < 0x440 then
    .next (s.mapBox f.val (fun b => { b with req := Memory.setNum b.req (off - 0x40) 8 v.toNat }))
  else if 0x2000 ≤ off ∧ off < 0x2040 then
    .next (s.mapFunc f.val (fun x => x.writeMsix ((off - 0x2000) / 8) v))
  else .next s

/-- Word n of a record's bytes. -/
def recWord (bs : List Byte) (n : Nat) : Word := BitVec.ofNat 64 (ofBytes ((bs.drop (8 * n)).take 8))

/-- The descriptor bits of level n of a launch record (R40). -/
def recLevel (bs : List Byte) (n : Nat) : Nat := ofBytes ((bs.drop (96 + 4 * n)).take 4)

/-- A level descriptor (R40). -/
def levelOfBits (x : Nat) : Level :=
  { dom := x % 8, bscope := x / 8 % 4, own := x / 32 % 16, clu := x / 512 % 16, place := x / 8192 % 4 }

/-- A launch with the fields of its record, before anything of it is placed (R39, R40). -/
def launchOf (fn seq : Nat) (bs : List Byte) : Launch :=
  let w := recWord bs
  let nlev := bitsOf (w 0) 8 3
  { fn := fn, seq := seq, epoch := 0, tag := bitsOf (w 0) 48 16, asid := bitsOf (w 0) 24 10, ord := (w 0).getLsbD 19,
    noclu := (w 0).getLsbD 18, sbchk := (w 0).getLsbD 17, paired := (w 0).getLsbD 16, nlev := nlev,
    codebase := w 1, spbase := w 2, lmbase := w 3, fmode := BitVec.ofNat 12 (bitsOf (w 4) 48 12),
    lmcount := bitsOf (w 4) 32 16, spcount := bitsOf (w 4) 0 32, itembase := w 5, relax := bitsOf (w 6) 30 10,
    gh := bitsOf (w 6) 27 3, gw := bitsOf (w 6) 24 3, nitems := bitsOf (w 6) 0 24, compl := w 7, ovbase := w 8,
    chmin := BitVec.ofNat 16 (bitsOf (w 9) 32 16), ovsize := bitsOf (w 9) 0 32, seed := w 10,
    scxg := BitVec.ofNat 2 (bitsOf (w 11) 32 2), waitto := BitVec.ofNat 32 (bitsOf (w 11) 0 32),
    levels := (List.range (nlev + 1)).map (fun n => levelOfBits (recLevel bs n)), map := [], delivered := 0,
    acked := false, status := none, detail := 0, table := false, retired := 0, commits := 0, squashes := 0,
    traps := 0, nextGroup := (bitsOf (w 6) 0 24 + 65535) / 65536, spilled := [], spilledTasks := 0,
    lastOrderedV := 0, complete := false }

/-- Check 2 of R41: a reserved field of the record is nonzero. -/
def recReserved (bs : List Byte) (nlev : Nat) : Bool :=
  let w := recWord bs
  bitsOf (w 0) 34 14 != 0 || bitsOf (w 0) 20 4 != 0 || bitsOf (w 0) 11 5 != 0 || bitsOf (w 4) 60 4 != 0 ||
  bitsOf (w 6) 40 24 != 0 || bitsOf (w 9) 48 16 != 0 || bitsOf (w 11) 34 30 != 0 ||
  (List.range 8).any (fun n => if n ≤ nlev then recLevel bs n / 2 ^ 15 != 0 else recLevel bs n != 0)

/-- Check 4 of R41: a base breaks its alignment or has bits [63:52] nonzero. -/
def badBases (l : Launch) : Bool :=
  [(l.codebase, 7), (l.spbase, 3), (l.lmbase, 4), (l.itembase, 6), (l.compl, 6), (l.ovbase, 16)].any (fun b =>
    bitsOf b.1 0 b.2 != 0 || bitsOf b.1 52 12 != 0)

/-- Check 5 of R41: reserved codes of a level descriptor. -/
def badLevel (d : Level) : Bool :=
  6 ≤ d.dom || d.bscope == 3 || d.place == 3 || 8 < d.own || 8 < d.clu || (d.dom == 0 && d.bscope != 0)

/-- Check 6 of R41: a level's domain is wider than that of the level before. -/
def widens : List Level → Bool
  | a :: b :: l => decide (a.dom < b.dom) || widens (b :: l)
  | _ => false

/-- The words of initial item n; none where the array cannot be read, an uncorrectable error counting as an array that lacks R
(R41, R46, R71; log 28: DESIGN CHOICE, unsafe). -/
def initialWords (s : State) (l : Launch) (n : Nat) : Option (List Word) :=
  let va := l.itembase.toNat + 64 * n
  if cluBase ≤ va then none
  else match translate s l.asid va .read with
    | .ok p => if poisoned s p 64 then none
               else some (copyWords ((List.range 8).map (fun k => BitVec.ofNat 64 (Memory.num s.mem (p.key + 8 * k) 8)))
                 (bitsOf (BitVec.ofNat 64 (Memory.num s.mem p.key 8)) 46 2 == 1) (n % 65536))
    | _ => none

/-- Whether an item's word 0 breaks R48, or is ordered in a launch without ordered tasks (check 9 of R41). -/
def badItem (s : State) (l : Launch) (n : Nat) : Bool :=
  match translate s l.asid (l.itembase.toNat + 64 * n) .read with
  | .ok p =>
    let w := BitVec.ofNat 64 (Memory.num s.mem p.key 8)
    decide (l.nlev < bitsOf w 32 3) || 2 ≤ bitsOf w 46 2 || (bitsOf w 46 2 == 1 && !l.ord)
  | _ => false

/-- Whether the object and the item array have the rights that they need (check 11 of R41). -/
def arrayReadable (s : State) (l : Launch) : Bool := (List.range l.nitems).all (fun n => (initialWords s l n).isSome)
def complWritable (s : State) (l : Launch) : Bool :=
  l.compl.toNat < cluBase && (match translate s l.asid l.compl.toNat .write with
    | .ok _ => true
    | _ => false)

/-- Whether an ASID is live for a function (R41 check 3, R54, R64). -/
def liveFor (s : State) (asid fn : Nat) : Bool :=
  asid != 0 && (match Tbl.find s.work.asids asid with
    | some d => d.owner == fn
    | none => false)

/-- The first failing check of R41; 0: the launch is accepted. -/
def acceptCheck (s : State) (l : Launch) (bs : List Byte) : Nat :=
  if bitsOf (recWord bs 0) 0 8 ≠ 1 then 1
  else if recReserved bs l.nlev then 2
  else if !liveFor s l.asid l.fn || (partitionOf s l.fn).isNone then 3
  else if badBases l then 4
  else if l.levels.any badLevel then 5
  else if widens l.levels then 6
  else if 8 < maxOf (l.levels.map Level.own) + maxOf (l.levels.map Level.clu) ∨
      (l.noclu ∧ l.levels.any (fun d => d.clu != 0)) then 7
  else if l.nitems = 0 then 8
  else if arrayReadable s l && (List.range l.nitems).any (badItem s l) then 9
  else if (l.levelAt 0).bscope ≠ 0 ∧ gangCapacity s l (l.levelAt 0) < min l.nitems 65536 then 10
  else if !arrayReadable s l || !complWritable s l then 11
  else 0

/-- The clusters of a function's partition that hold one of its tiles (R70). -/
def partClusters (s : State) (fn : Nat) : List Nat :=
  match partitionOf s fn with
  | none => []
  | some p => (presentClusters s).filter (fun c => p.clusters.contains c || p.tiles.any (fun t => tileCluster t == c))

/-- The grid map of R70, in order of vy * (gw + 1) + vx; where the launch can use no cluster at all, each virtual one maps to
the nearest cluster of its partition (log 28: DESIGN CHOICE, unsafe). -/
def gridMap (s : State) (l : Launch) : List Nat :=
  let own := partClusters s l.fn
  let usable := if l.noclu then own else wholeClusters s l.fn
  let xs := own.map (fun c => c % 8)
  let ys := own.map (fun c => c / 8)
  let x0 := minOf xs
  let y0 := minOf ys
  let wb := maxOf xs - x0 + 1
  let hb := maxOf ys - y0 + 1
  (List.range (l.gh + 1)).flatMap (fun vy => (List.range (l.gw + 1)).map (fun vx =>
    let p := (y0 + vy * hb / (l.gh + 1)) * 8 + (x0 + vx * wb / (l.gw + 1))
    if usable.contains p then p
    else (minBy (fun c => hops p c) usable).getD ((minBy (fun c => hops p c) own).getD p)))

/-- The tile of a core number (R21). -/
def coreTile (core : Nat) : Nat := if core < 8192 then core / 8 else core - 8192 + 1024

/-- The cluster of a core number. -/
def coreCluster (core : Nat) : Nat := if core < 8192 then core / 128 else core - 8192

/-- The slots of a core that items can take: not the supervisor slot, and the leaders only under paired execution
(R67, R416). -/
def coreSlotsOf (core : Nat) (paired : Bool) : List Nat :=
  if core < 8192 then (List.range (if paired then 4 else 8)).map (fun k => 8 * core + k)
  else
    let c := core - 8192
    let base := 65536 + 1024 * c
    ((List.range (if paired then 2 else 4)).map (fun k => base + k)).filter (fun t => t != superTid (dieOf c))

/-- A slot newly held by a launch: WAITING, registers zero, CSRs at their launch values and its counters 0 (R50, R68, R72,
R105). -/
def heldThread (idx : Nat) (l : Launch) (old : Thread) : Thread :=
  { Thread.fresh old.tid false with
    asid := l.asid, launch := some idx, place := .waiting, r := launchRegs l old.tid Regs.reset
    ex := Chunk.empty (launchRegs l old.tid Regs.reset), slots := old.slots
    lastV := old.lastV, lastOrder := old.lastOrder }

/-- The state with the slot of a TID replaced, or added where the module has not used it. -/
def State.placeThread (s : State) (t : Thread) : State :=
  if (s.thread t.tid).isSome then s.setThread t else { s with others := s.others ++ [t] }

/-- A tile that another ASID, or none, owns is to be zeroed for an ASID: 512 cycles for a little tile, 4,096 for a big one
(R68). -/
def zeroFor (asid : Nat) (s : State) (tile : Nat) : State :=
  if Tbl.find s.work.tileOwner tile = some asid ∨ (Tbl.find s.work.zeroing tile).isSome then s
  else { s with work := { s.work with zeroing := Tbl.put s.work.zeroing tile (s.cycle + (if tile < 1024 then 512 else 4096)) } }

/-- A launch comes to hold a core: its slots enter WAITING, and a tile of another owner is to be zeroed (R66, R68,
R72). -/
def holdCore (idx : Nat) (l : Launch) (s : State) (core : Nat) : State :=
  let s := zeroFor l.asid s (coreTile core)
  let s := (coreSlotsOf core l.paired).foldl (fun s tid =>
    s.placeThread (heldThread idx l ((s.thread tid).getD (Thread.fresh tid false)))) s
  { s with work := { s.work with holds := Tbl.put s.work.holds core idx } }

/-- A core leaves its launch: its slots are not held (R66, R72). -/
def releaseCore (s : State) (core : Nat) : State :=
  let s := s.mapThreads (fun t =>
    if coreOf t.tid = core ∧ t.launch.isSome then { t.toWaiting with place := .notHeld, launch := none } else t)
  { s with work := { s.work with holds := Tbl.del s.work.holds core } }

/-- The cores of a cluster: its 128 little cores, then its big core. -/
def clusterCores (c : Nat) : List Nat := (List.range 128).map (fun k => 128 * c + k) ++ [8192 + c]

/-- Whether a core is free: no launch holds it and its tile's clock runs (R66, R396). -/
def coreFree (s : State) (core : Nat) : Bool :=
  (Tbl.find s.work.holds core).isNone && !tileFrozen s (coreTile core)

/-- Whether a whole cluster is free. -/
def clusterFree (s : State) (c : Nat) : Bool := (clusterCores c).all (coreFree s)

/-- Whether some level of a launch uses big native slots (R66). -/
def Launch.usesBig (l : Launch) : Bool := l.levels.any (fun d => 1 ≤ d.place)

/-- The tiles of a cluster: its 16 little tiles, then its big one (R15). -/
def clusterTiles (c : Nat) : List Nat := (List.range 16).map (fun k => 16 * c + k) ++ [1024 + c]

/-- A launch comes to hold a cluster whole; every tile of it is zeroed, the big one too where its levels do not use it (R66,
R68). -/
def holdCluster (idx : Nat) (l : Launch) (s : State) (c : Nat) : State :=
  (clusterTiles c).foldl (zeroFor l.asid) <| ((clusterCores c).filter (fun k => k < 8192 || l.usesBig)).foldl (holdCore idx l) s

/-- The cores that a launch holds. -/
def coresOf (s : State) (idx : Nat) : List Nat := (s.work.holds.filter (fun e => e.2 == idx)).map Prod.fst

/-- The bytes of a completion object (R53). -/
def completionBytes (l : Launch) (status : Nat) (now : Nat) : List Byte :=
  let w1 := bitOf l.table * 65536 + l.detail % 256 * 256 + status
  [l.seq, w1, l.retired, l.commits, l.squashes, l.traps, l.tag, now].flatMap (bytesOf 8)

/-- The cells of a completion object; none: it cannot be written. -/
def completionCells (s : State) (l : Launch) (status : Nat) : Option (List (Host.Cell × Loc)) :=
  if !liveFor s l.asid l.fn then none else placeCells s l.asid .write l.compl.toNat (completionBytes l status s.cycle)

/-- Writes a launch's completion object as one chunk after every point of the launch; where it cannot be written, the
failure is reported (R53, R54, R337). none: a node is not free yet. The object of a record that check 4 refuses for W7 itself is
written at that address, aligned or not (log 28: DESIGN CHOICE, unsafe). -/
def writeCompletion (s : State) (agent : Nat) (l : Launch) (status : Nat) : Option State :=
  match completionCells s l status with
  | none => some (logError (releaseNodes s agent false) l.fn l.compl.toNat 2)
  | some cs => if !agentFree s agent (nodesOf cs) then none else some (writePlaced s agent l.lastV l.asid cs)

/-- A completion object waits for its nodes (R337). -/
def completionWaits (s : State) (agent : Nat) (l : Launch) (status : Nat) : State :=
  agentWait s agent (nodesOf ((completionCells s l status).getD []))

/-- The 128 bytes of the next record of a chain: from a host bus address, or in the system ASID (R55, R58). -/
def readRecord (s : State) (x : Func) : Option (List Byte) :=
  let a := x.lcbase.toNat / 128 * 128 + 128 * x.lchead
  if x.lcbase.getLsbD 0 then readSpace s 0 a 128 else some (Memory.bytes s.mem (hostKey a) 128)

/-- Takes an accepted record: the launch with its grid map, holding every qualifying cluster that no other launch holds
(R66, R70). -/
def admitLaunch (s : State) (l : Launch) : State :=
  let idx := s.work.launches.length
  let l := { l with map := gridMap s l }
  let s := { s with work := { s.work with launches := s.work.launches ++ [l] } }
  if l.noclu then s else ((wholeClusters s l.fn).filter (clusterFree s)).foldl (holdCluster idx l) s

/-- The check of a record just taken: it is admitted, or ends REFUSED at once with its object written (R41, R59), which a
record refused under check 3 never has (R54). none: a node of its object is not free yet, and the record is taken later. -/
def checkRecord (s : State) (l : Launch) (bs : List Byte) : Option State :=
  match acceptCheck s l bs with
  | 0 => some (admitLaunch (releaseNodes s (agentId 8 l.fn) false) l)
  | k =>
    let l := { l with status := some 1, detail := k, complete := true }
    let s := { s with work := { s.work with launches := s.work.launches ++ [l] } }
    if k = 3 then some (logError s l.fn l.compl.toNat 2) else writeCompletion s (agentId 8 l.fn) l 1

/-- Whether the command processors run (R442, R419). -/
def cpRuns (s : State) : Bool := s.boot.started && !s.boot.lockRestart && !s.boot.halted && !s.power.critical

/-- Whether a chain has a record to take (R57, R58). -/
def chainReady (s : State) (f : Nat) : Bool :=
  let x := s.func f
  cpRuns s && x.en && !x.stopped && x.lchead != x.lctail

/-- RECORD_TAKE (R57-R59): ok tells whether a read of host memory succeeded. A record read again after a restart
whose object has been written is only passed over (R61). -/
def execRecordTake (f : Fin 17) (ok : Bool) (s : State) : Out :=
  if !chainReady s f.val then .next s
  else
    let x := s.func f.val
    match (if ok then readRecord s x else none) with
    | none => .next (setStat s f.val 6)
    | some bs =>
      let seq := x.lcseq + 1
      let took := s.mapFunc f.val (fun x => { x with lchead := (x.lchead + 1) % x.ring, lcseq := seq })
      if took.work.launches.any (fun l => l.fn == f.val && l.epoch == x.epoch && l.seq == seq && l.complete) then .next took
      else
        let l := { launchOf f.val seq bs with epoch := x.epoch, v := x.tailV }
        .next ((checkRecord took l bs).getD (completionWaits s (agentId 8 f.val) l 1))

/-- The list of R71 from which items without a hint take their Shoe. -/
def deliverList (s : State) (idx : Nat) (l : Launch) : List Nat :=
  let held := (coresOf s idx).foldl (fun m k => insertAsc (coreCluster k) m) []
  if held.isEmpty then partClusters s l.fn else held

/-- Initial item n of a launch, if its words can be read. -/
def initialItem (s : State) (idx : Nat) (l : Launch) (n : Nat) : Option Item :=
  (initialWords s l n).map (fun ws =>
    { launch := idx, group := n / 65536, words := ws, cont := false, arrival := 0, since := s.cycle, moves := 0,
      aged := 0, v := l.v })

/-- The largest instance of a level's domain within a cluster, for a group without a hint (R45, R71). -/
def clusterHolds (s : State) (l : Launch) (d : Level) (c : Nat) : Nat :=
  let whole := (wholeClusters s l.fn).contains c
  let tiles := (littleTiles s l.fn l.noclu).filter (fun t => tileCluster t == c)
  let big := if whole then bigSlots c else 0
  let one (k : Nat) : Nat :=
    let k := if tiles.isEmpty then 0 else k
    match d.place with
    | 0 => k
    | 1 => big
    | _ => max k big
  let n := match d.dom with
    | 1 => one 8
    | 2 => one 64
    | _ => placeSlots d.place (64 * tiles.length) big
  if l.paired then n / 2 else n

/-- The cluster at whose agent an initial group without a valid hint arrives: that of the lowest-numbered instance that
can hold it whole (R71). -/
def groupCluster (s : State) (l : Launch) (d : Level) (n : Nat) : Nat :=
  let cs := presentClusters s
  if d.dom ≤ 3 then (cs.find? (fun c => n ≤ clusterHolds s l d c)).getD (cs.headD 0)
  else if d.dom = 4 then
    let holds (k : Nat) : Nat := sumOf ((cs.filter (fun c => dieOf c == k)).map (clusterHolds s l { d with dom := 3 }))
    superCluster (((List.range 4).find? (fun k => n ≤ holds k)).getD 0)
  else 0

/-- The cluster at which an initial item enters: its mapped hint cluster, or its entry of the list (R71). -/
def entryCluster (s : State) (idx : Nat) (l : Launch) (i : Item) : Nat :=
  let list := deliverList s idx l
  (hintCluster l i).getD (list.getD ((i.group * 65536 + i.gidx) % list.length) 0)

/-- CP_ITEM_DELIVER (R71): the next initial item, or the next initial group where level 0 uses a barrier; ordered items always
go to a Sluice, and those of such a group are in no gang. Where the array can no longer be read, nothing is delivered any
more (R43, R46, R71; log 28: DESIGN CHOICE, unsafe). -/
def execCpItemDeliver (l : Nat) (s : State) : Out :=
  match s.launchAt l with
  | none => .next s
  | some r =>
    if !cpRuns s || r.complete || r.nitems ≤ r.delivered then .next s
    else if (r.levelAt 0).bscope ≠ 0 then
      let n := min 65536 (r.nitems - r.delivered)
      let items := (List.range n).filterMap (fun k => initialItem s l r (r.delivered + k))
      if items.length = n then
        let plain := items.filter (fun i => !i.ordered)
        let tasks := (items.filter Item.ordered).map (fun i => (dieOf (entryCluster s l r i), i))
        let s := formGang s r l (groupCluster s r (r.levelAt 0) plain.length) (r.delivered / 65536) 0 plain
        let s := { s with work := { s.work with offered := s.work.offered ++ tasks } }
        .next (s.mapLaunch l (fun x => { x with delivered := x.delivered + n }))
      else .next s
    else match initialItem s l r r.delivered with
      | none => .next s
      | some i =>
        let c := entryCluster s l r i
        let s := if i.ordered then { s with work := { s.work with offered := s.work.offered ++ [(dieOf c, i)] } }
                 else { s with work := { s.work with arriving := s.work.arriving ++ [(c, i)] } }
        .next (s.mapLaunch l (fun x => { x with delivered := x.delivered + 1 }))

/-- Whether the conditions of R60 hold for a launch. -/
def ackReady (s : State) (idx : Nat) (l : Launch) : Bool :=
  l.complete || (decide (l.nitems ≤ l.delivered) && s.work.arriving.all (fun e => e.2.launch != idx) &&
    s.work.offered.all (fun e => e.2.launch != idx))

/-- The launch of a function that is acknowledged next: the record after LCACK, or the first one left of an earlier enabling
of the chain (R56, R60, R61; log 28: DEDUCED, unsafe). -/
def firstUnacked (s : State) (f : Nat) : Option Nat :=
  let x := s.func f
  match s.work.launches.findIdx? (fun l => l.fn == f && !l.acked && l.epoch != x.epoch) with
  | some k => some k
  | none => s.work.launches.findIdx? (fun l => l.fn == f && !l.acked && l.seq == x.lcack + 1)

/-- LAUNCH_ACKNOWLEDGE (R60). -/
def execLaunchAcknowledge (f : Fin 17) (s : State) : Out :=
  match firstUnacked s f.val with
  | none => .next s
  | some idx => match s.launchAt idx with
    | none => .next s
    | some l =>
      if cpRuns s && ackReady s idx l then
        .next ((s.mapLaunch idx (fun l => { l with acked := true })).mapFunc f.val (fun x =>
          { x with lcack := if l.epoch = x.epoch then l.seq else x.lcack }))
      else .next s

/-- Whether nothing of a launch is left to run: the conditions of R53. -/
def launchIdle (s : State) (idx : Nat) (l : Launch) : Bool :=
  let mine (i : Item) : Bool := i.launch == idx
  let w := s.work
  l.nitems ≤ l.delivered && l.spilled.isEmpty &&
  !w.shoes.any (fun e => e.2.items.any mine) && !w.arriving.any (fun e => mine e.2) &&
  !w.offered.any (fun e => mine e.2) && !w.walking.any (fun e => mine e.item) &&
  !w.batches.any (fun e => e.items.any mine) && !w.gangs.any (fun g => g.launch == idx) &&
  !w.tasks.any (fun k => k.launch == idx) &&
  (everyThread s).all (fun t => t.launch != some idx || (t.place == .waiting && t.com.isNone && t.fins.isEmpty)) &&
  s.hoists.all (fun h => h.2.queue.all (fun c => c.launch != some idx) &&
    h.2.channels.all (fun c => c.2.cmd.launch != some idx))

/-- LAUNCH_COMPLETE (R53, R54, R66): the completion object is written and the launch's cores are released. -/
def execLaunchComplete (l : Nat) (s : State) : Out :=
  match s.launchAt l with
  | none => .next s
  | some r =>
    if cpRuns s && r.acked && !r.complete && launchIdle s l r then
      match writeCompletion s (agentId 6 l) r (r.status.getD 0) with
      | none => .next (completionWaits s (agentId 6 l) r (r.status.getD 0))
      | some s =>
        let s := (coresOf s l).foldl releaseCore s
        .next (retireLeft (s.mapLaunch l (fun x => { x with complete := true })))
    else .next s

/-- A record that names no thread (R383, R384). -/
def bareRecord (s : State) (cause : Nat) (laneH : Bool) (val val2 : Word) : Rec :=
  { cause := cause, pc := 0, val := val, val2 := val2, laneH := laneH, paired := false, fatal := false, nopark := true,
    copy := false, shipped := false, late := false, tid := 0, cseq := 0, asid := 0, xclu := none, stamp := s.cycle }

/-- An admission that has not been acknowledged is withdrawn: its items are discarded and its cores released; the record will
be read again (R61). One of a chain that is disabled, or of an earlier enabling, is withdrawn too, and its record is not read
again and never completes (log 28: DESIGN CHOICE, unsafe). -/
def withdraw (s : State) (idx : Nat) : State :=
  match s.launchAt idx with
  | none => s
  | some l =>
    if l.acked || l.complete then s
    else
      let s := discardWork s idx
      let s := (coresOf s idx).foldl releaseCore s
      s.mapLaunch idx (fun l => { l with seq := 0, acked := true, complete := true, spilled := [], spilledTasks := 0 })

/-- A chain goes back to the record after LCACK, or forward to it, where a refused record that is to be read again has been
acknowledged already (R59, R61). -/
def rewind (x : Func) : Func :=
  { x with lchead := (x.lchead + x.lcack + (x.ring - 1) * x.lcseq) % x.ring, lcseq := x.lcack }

/-- A command in progress is answered RETRY, with its effect not begun (R419, R446). -/
def retryBox (b : Mailbox) : Mailbox := if b.busy && b.result.isNone then { b with result := some (3, []) } else b

/-- Whether an arrival that waits is a mailbox's command. -/
def Arrival.isCommand : Arrival → Bool
  | .unmap .. | .protect .. | .areg .. | .adel .. | .trcb .. => true
  | _ => false

/-- LOCKSTEP_MISMATCH (R61, R419): three within 1 second halt the command processors. -/
def execLockstepMismatch (s : State) : Out :=
  if s.boot.halted then .next s
  else
    let times := s.cycle :: s.boot.lockTimes
    let halt := 3 ≤ (times.filter (fun c => decide (s.cycle - c ≤ s.power.clock * 1000000))).length
    let ack := (s.func 0).lcack
    let s := (List.range s.work.launches.length).foldl withdraw s
    let s := { s with
      funcs := s.funcs.map (fun e => (e.1, rewind e.2)), boxes := s.boxes.map (fun e => (e.1, retryBox e.2))
      boot := { s.boot with lockRestart := true, lockTimes := times, halted := halt }
      power := { s.power with target := none, mv := if s.power.target.isSome then s.power.was else s.power.mv }
      maps := { s.maps with fills := [] }
      links := { s.links with waiting := s.links.waiting.filter (fun a => !a.isCommand) }
      freeze := { s.freeze with tiles := s.freeze.tiles.map (fun e => (e.1, { e.2 with saving := none, loading := none })) } }
    let s := (List.range 21).foldl (fun s u => releaseNodes s (agentId 3 u) false) s
    let s := (List.range 17).foldl (fun s f => releaseNodes s (agentId 8 f) false) s
    .next (handAlone s 0 (bareRecord s cLOCK true (BitVec.ofNat 64 ack) 0))

/-- FIRMWARE_RESTART_COMPLETE (R61, R419): both cores restart from the firmware image in protected memory, which has passed
its check of CRC-32C and nothing changes; taking resumes; objects not yet written are written by LAUNCH_COMPLETE. -/
def execFirmwareRestartComplete (s : State) : Out :=
  if s.boot.halted || !s.boot.firmware then .next s else .next { s with boot := { s.boot with lockRestart := false } }

/-- Whether a WAITING slot of a launch can take an item of a level: its kind, a running tile of the launch's owner (R68,
R75). -/
def slotTakes (s : State) (idx place : Nat) (t : Thread) : Bool :=
  t.launch == some idx && t.place == .waiting && admits place t.tid && !tileFrozen s (tileOf t.tid) &&
  !s.work.zeroing.any (fun z => z.1 == tileOf t.tid || (tileCluster z.1 == clusterOf t.tid &&
    !((s.launchAt idx).map Launch.noclu).getD true))

/-- The core that a launch with noclu takes for a demand at a cluster: the nearest free one, never in a tile of another
owner, or still to be zeroed for one, of which another launch holds a core (R66, R68). -/
def nearestCore (s : State) (idx : Nat) (l : Launch) (c place : Nat) : Option Nat :=
  let ownerOk (core : Nat) : Bool :=
    let owner := Tbl.find s.work.tileOwner (coreTile core)
    let sharers := s.work.holds.filter (fun e => coreTile e.1 == coreTile core && e.2 != idx)
    sharers.isEmpty || ((owner.isNone || owner == some l.asid) &&
      sharers.all (fun e => (s.launchAt e.2).map Launch.asid == some l.asid))
  let near (l : List Nat) : Option Nat :=
    minBy (fun k => hops c (coreCluster k) * 65536 + k) (l.filter (fun k => coreFree s k && ownerOk k))
  let little := (littleTiles s l.fn true).flatMap (fun t => (List.range 8).map (fun k => 8 * t + k))
  let big := ((wholeClusters s l.fn).filter (fun q =>
    !s.work.holds.any (fun e => coreCluster e.1 == q && e.2 != idx))).map (fun q => 8192 + q)
  match place with
  | 0 => near little
  | 1 => near big
  | _ => match near little with
    | some k => some k
    | none => near big

/-- Whether a launch asks for a core or cluster for an item that waits: with noclu, no core that it holds has a WAITING slot
eligible for it; a slot of a frozen tile is FROZEN (R66, R72, R75). -/
def asksCore (s : State) (idx place : Nat) : Bool :=
  !((s.launchAt idx).map Launch.noclu).getD false ||
  !s.threads.any (fun t => t.launch == some idx && t.place == .waiting && admits place t.tid && !tileFrozen s (tileOf t.tid))

/-- The instances of a gang's domain within its agent's reach that hold it whole, a slot of a frozen tile left out, with their
WAITING slots (R72, R79, R98). -/
def gangInstances (s : State) (g : Gang) (l : Launch) : List (Nat × List Thread) :=
  let d := l.levelAt g.level
  let reach (t : Thread) : Bool :=
    if g.agent < 64 then clusterOf t.tid == g.agent
    else if g.agent < 68 then dieOf (clusterOf t.tid) == g.agent - 64 else true
  let mine := s.threads.filter (fun t =>
    t.launch == some g.launch && admits d.place t.tid && reach t && !tileFrozen s (tileOf t.tid))
  let insts := mine.foldl (fun m t => insertAsc (instanceOf d.dom t.tid) m) []
  (insts.map (fun k => (k, mine.filter (fun t => instanceOf d.dom t.tid == k)))).filter (fun e =>
    g.items.length ≤ e.2.length)

/-- The Shoe and place of the first item, gang group or ordered task of a launch that asks for a core: an item that waits, or
a group that no instance it holds could hold whole (R66, R79; log 24: DEDUCED, unsafe). -/
def demandOf (s : State) (idx : Nat) (l : Launch) : Option (Nat × Nat) :=
  let place (n : Nat) : Nat := (l.levelAt n).place
  let item := s.work.shoes.findSome? (fun e => (e.2.items.find? (fun i =>
    i.launch == idx && asksCore s idx (place i.level))).map (fun i => (e.1, place i.level)))
  let gang := s.work.gangs.find? (fun g => g.launch == idx && (gangInstances s g l).isEmpty)
  let task := s.work.tasks.find? (fun k => k.launch == idx && k.tid.isNone && k.state != .finished &&
    asksCore s idx (place k.item.level))
  match item, gang, task with
  | some e, _, _ => some e
  | none, some g, _ => some (if g.agent < 64 then g.agent else superCluster (g.agent - 64), place g.level)
  | none, none, some k => some (superCluster k.die, place k.item.level)
  | none, none, none => none

/-- What a launch could take now: the core that its demand is nearest to, or a free qualifying cluster whole (R66). -/
def couldTake (s : State) (idx : Nat) (l : Launch) : Bool :=
  if l.noclu then ((demandOf s idx l).bind (fun d => nearestCore s idx l d.1 d.2)).isSome
  else ((coresOf s idx).isEmpty || (demandOf s idx l).isSome) && ((wholeClusters s l.fn).find? (clusterFree s)).isSome

/-- Whether another incomplete launch of the function comes first for a released core or cluster that it can use: one that
holds nothing before one that holds something, then the lower seq (R66). -/
def outranked (s : State) (idx : Nat) (l : Launch) : Bool :=
  let empty := (coresOf s idx).isEmpty
  (List.range s.work.launches.length).any (fun j => match s.launchAt j with
    | none => false
    | some r =>
      let bare := (coresOf s j).isEmpty
      j != idx && r.fn == l.fn && !r.complete && !r.ended && couldTake s j r && ((bare && !empty) || (bare == empty && r.seq < l.seq)))

/-- CORE_TAKE (R66): a launch with noclu takes the nearest core for an item that waits; another takes a free qualifying
cluster whole. -/
def execCoreTake (l : Nat) (s : State) : Out :=
  match s.launchAt l with
  | none => .next s
  | some r =>
    if !cpRuns s || r.complete || r.ended || outranked s l r then .next s
    else if r.noclu then
      match (demandOf s l r).bind (fun d => nearestCore s l r d.1 d.2) with
      | none => .next s
      | some k => .next (holdCore l r s k)
    else if !(coresOf s l).isEmpty && (demandOf s l r).isNone then .next s
    else match (wholeClusters s r.fn).find? (clusterFree s) with
      | none => .next s
      | some c => .next (holdCluster l r s c)

/-- Whether a copy issued by a core is not finished: it stands in a Hoist, or its notice is held by a shell (R288). -/
def coreCopies (s : State) (core : Nat) : Bool :=
  s.hoists.any (fun h => h.2.queue.any (fun c => coreOf c.tid == core) || h.2.channels.any (fun x => coreOf x.2.cmd.tid == core))

/-- Whether a launch with noclu gives a little core back: its eight slots wait in WAITW, none with a copy that is not
finished, and the cluster's Shoe holds none of its items (R66, R288). -/
def coreIdle (s : State) (core : Nat) : Bool :=
  match (Tbl.find s.work.holds core) with
  | none => false
  | some idx =>
    core < 8192 && ((s.launchAt idx).map Launch.noclu).getD false && !coreCopies s core && !tileFrozen s (coreTile core) &&
    s.threads.all (fun t => coreOf t.tid != core || (t.place == .waiting && t.keeps && t.com.isNone && t.fins.isEmpty)) &&
    !((Tbl.find s.work.shoes (coreCluster core)).map (fun x => x.items.any (fun i => i.launch == idx))).getD false

/-- NOCLU_CORE_RELEASE (R66). -/
def execNocluCoreRelease (core : Nat) (s : State) : Out :=
  if coreIdle s core then .next (releaseCore s core) else .next s

/-- The local arrays of a tile's cores, as a range of memory keys. -/
def tileKeys (tile : Nat) : Nat × Nat :=
  if tile < 1024 then (arrayKey (8 * tile), arrayKey (8 * tile + 8))
  else (arrayKey (8192 + (tile - 1024)), arrayKey (8192 + (tile - 1024) + 1))

/-- Zeroes the arrays of a tile (R68); poison in them goes with their words. -/
def zeroArrays (s : State) (tile : Nat) : State :=
  let (lo, hi) := tileKeys tile
  { s with mem := s.mem.filter (fun c => c.1 < lo || hi ≤ c.1)
           poison := s.poison.filter (fun u => u < lo || hi ≤ u) }

/-- The launch for which a tile is zeroed: one that holds a core of it, or its whole cluster (R68). -/
def zeroedFor (s : State) (tile : Nat) : Option Launch :=
  match s.work.holds.find? (fun e => coreTile e.1 == tile) with
  | some e => s.launchAt e.2
  | none => (s.work.holds.find? (fun e => coreCluster e.1 == tileCluster tile &&
      !((s.launchAt e.2).map Launch.noclu).getD true)).bind (fun e => s.launchAt e.2)

/-- The registers of a tile's slots that no launch holds are zero; the supervisor slot keeps its own (R68). -/
def zeroSlots (tile : Nat) (s : State) : State :=
  s.mapThreads (fun t => if tileOf t.tid = tile ∧ !t.super ∧ t.place = .notHeld then
    { Thread.fresh t.tid false with slots := t.slots, lastV := t.lastV, lastOrder := t.lastOrder } else t)

/-- ZEROING_COMPLETE (R68): after its cycles arrays and registers are zero and the tile has its owner; the last tile of a
cluster that a launch holds whole sets the cluster's. -/
def execZeroingComplete (tile : Nat) (s : State) : Out :=
  if s.cycle < Tbl.at s.work.zeroing tile (s.cycle + 1) then .next s
  else
    let s := zeroSlots tile (zeroArrays s tile)
    let w := { s.work with zeroing := Tbl.del s.work.zeroing tile }
    match zeroedFor s tile with
    | none => .next { s with work := w }
    | some l =>
      let c := tileCluster tile
      let done := !l.noclu && !w.zeroing.any (fun t => tileCluster t.1 == c)
      .next { s with work := { w with tileOwner := Tbl.put w.tileOwner tile l.asid
                                      clusterOwner := if done then Tbl.put w.clusterOwner c l.asid else w.clusterOwner } }

end Sys2Proof.Machine
end

