-- ==== Sys2Proof/Machine/Sluice.lean ====
section
/-! DEFINITION. Sys2Proof/Machine/Sluice.lean: ordered tasks: acceptance, spills, grants, leave to commit, retirement and
the GVT (R87-R95). -/

namespace Sys2Proof.Machine

/-- The cycles of an aging period (R86). -/
def agingPeriod (s : State) : Nat := s.work.aging * s.work.interval

/-- Whole aging periods that an item has waited since its present one began (R77). -/
def agingOf (s : State) (i : Item) : Nat := (s.cycle - i.since) / agingPeriod s

/-- Current priority: one more for each aging period waited in this Shoe, up to 3 (R77). -/
def Item.current (s : State) (i : Item) : Nat := min 3 (i.prio + i.aged + agingOf s i)

/-- The rank of a task: timestamp, then task id (R88). -/
def Task.rank (k : Task) : Nat := k.ts.toNat * 2 ^ 64 + k.id

/-- The tasks of a launch that have not retired. -/
def tasksOf (s : State) (idx : Nat) : List Task := s.work.tasks.filter (fun k => k.launch == idx)

/-- Whether a task may run in a slot of a kind (R40, R75, R88). -/
def taskAdmits (s : State) (k : Task) (tid : Nat) : Bool :=
  match s.launchAt k.launch with
  | none => false
  | some l => admits (l.levelAt k.item.level).place tid

/-- A task of a launch that runs IRREVOCABLE (R94). -/
def irrevocableOf (s : State) (idx : Nat) : Option Task := (tasksOf s idx).find? (fun k => k.state == .irrevocable)

/-- Whether the exchanged minima of the other dies show no pair before a task (R91). -/
def minimaAllow (s : State) (k : Task) : Bool :=
  (List.range 4).all (fun d => d == k.die || (match Tbl.find s.work.minima (4 * k.launch + d) with
    | some (some p) => decide (k.rank ≤ p.1 * 2 ^ 64 + p.2)
    | _ => true))

/-- Whether a task can be granted as the GVT task: QUEUED, or OVERFLOW with the leave of R91, while no unretired task, those
accepted since among them, precedes it (R89, R94). -/
def grantable (s : State) (k : Task) : Bool :=
  k.state == .queued || (k.state == .overflow && k.leave && minimaAllow s k &&
    (tasksOf s k.launch).all (fun x => decide (k.rank ≤ x.rank)))

/-- The least rank that is granted: that of a task of the launch which has been granted as IRREVOCABLE and has not retired
(R94). -/
def rankFloor (s : State) (idx : Nat) : Nat := (((tasksOf s idx).find? Task.irrev).map Task.rank).getD 0

/-- The GVT task where it is what a slot receives first; a spilled one comes back from the overflow area for it (R89, R93-R95;
log 24: DEDUCED, unsafe). -/
def gvtFor (s : State) (idx tid : Nat) : Option Task :=
  (gvtTask s idx).filter (fun k => grantable s k && k.die == dieOf (clusterOf tid) && taskAdmits s k tid &&
    rankFloor s idx ≤ k.rank)

/-- What the Sluice answers a slot's request with (R89, R90, R94). -/
def sluiceAnswer (s : State) (idx tid : Nat) : Option Task :=
  match gvtFor s idx tid with
  | some k => some k
  | none =>
    if 4 ≤ finishedOn s (coreOf tid) then none
    else match s.launchAt idx with
      | none => none
      | some l =>
        let ready := (tasksOf s idx).filter (fun k =>
          k.state == .queued && !k.spilled && k.die == dieOf (clusterOf tid) && taskAdmits s k tid && rankFloor s idx ≤ k.rank)
        let window := (sortBy Task.rank ready).take (l.relax + 1)
        match window.find? (fun k => hintCluster l k.item == some (clusterOf tid)) with
        | some k => some k
        | none => window.head?

/-- The spilled mark of a task set, and its launch's count of spilled tasks (R95). -/
def markSpilled (spilled : Bool) (s : State) (k : Task) : State :=
  (s.mapTask (k.launch, k.id) (fun k => { k with spilled := spilled })).mapLaunch k.launch (fun l =>
    { l with spilledTasks := if spilled then l.spilledTasks + 1 else l.spilledTasks - 1 })

/-- A slot starts loading a task, which is RUNNING, or IRREVOCABLE from OVERFLOW; a grant takes 24 cycles (R73, R88, R89,
R94). -/
def grantTask (s : State) (tid : Nat) (k : Task) : State :=
  match s.thread tid with
  | none => s
  | some t =>
    let irrev := k.state == .overflow
    let s := if k.spilled then markSpilled false s k else s
    let s := s.mapTask (k.launch, k.id) (fun k => { k with
      state := if irrev then .irrevocable else .running, tid := some tid, irrev := irrev })
    s.setThread { t with place := .loading k.item (s.cycle + 30), ordered := true, irrev := irrev, ts := k.ts
                         item0 := k.item, gang := none
                         ex := { Chunk.empty t.r with
                       gen := t.ex.gen, task := some (k.launch, k.id), serial := irrev, serialShip := irrev || k.serialShip } }

/-- Whether a slot waits for work of a launch that the Shoe could dispatch (R72, R60, R68). -/
def slotWaits (s : State) (t : Thread) : Option Nat :=
  t.launch.bind (fun idx => match s.launchAt idx with
    | none => none
    | some l => if l.acked && !l.ended && !l.complete && slotTakes s idx 2 t then some idx else none)

/-- The Shoe of a cluster. -/
def State.shoe (s : State) (c : Nat) : Shoe := Tbl.at s.work.shoes c Shoe.fresh

/-- The state with a Shoe changed. -/
def State.mapShoe (s : State) (c : Nat) (f : Shoe → Shoe) : State :=
  { s with work := { s.work with shoes := Tbl.put s.work.shoes c (f (s.shoe c)) } }

/-- Whether a Shoe has made no dispatch in this cycle (R76). -/
def shoeFree (s : State) (c : Nat) : Bool := decide ((s.shoe c).dispatched ≤ s.cycle)

/-- A Shoe has made its dispatch of this cycle (R76, R85). -/
def shoeSpent (s : State) (c : Nat) (i : Option Item) : State :=
  s.mapShoe c (fun x => { x with dispatched := s.cycle + 1, taken := i })

/-- Whether a batch left a Shoe in this cycle: its items can still be dispatched there (R85). -/
def Batch.fresh (s : State) (c : Nat) (b : Batch) : Bool := b.from' == c && b.left == s.cycle

/-- The items that a Shoe can dispatch: its store, and the batch of this cycle (R85). -/
def storeOf (s : State) (c : Nat) : List Item :=
  (s.shoe c).items ++ (s.work.batches.filter (Batch.fresh s c)).flatMap Batch.items

/-- The slot that R76 steps 2-4 choose among eligible ones: a little slot before a big one, the core with the most, the
lowest slot. -/
def chooseSlot (l : List Thread) : Option Nat :=
  let little := l.filter (fun t => !isBig t.tid)
  let l := if little.isEmpty then l else little
  let count (t : Thread) : Nat := (l.filter (fun u => coreOf u.tid == coreOf t.tid)).length
  (minBy (fun t => (1024 - count t) * 2 ^ 20 + t.tid) l).map Thread.tid

/-- The task that a slot receives: a plain item of priority 3 that waits in its Shoe comes before every task but the GVT
task (R89). -/
def grantFor (s : State) (tid : Nat) : Option Task :=
  (s.thread tid).bind (fun t => (slotWaits s t).bind (fun idx => (s.launchAt idx).bind (fun l =>
    let plain := (storeOf s (clusterOf tid)).any (fun i =>
      i.launch == idx && i.current s == 3 && admits (l.levelAt i.level).place tid)
    if l.ord && ((gvtFor s idx tid).isSome || !plain) then sluiceAnswer s idx tid else none)))

/-- The task that a Shoe's next dispatch gives to a slot, and the slot: of the smallest task that any slot of the cluster
receives, the slot that R76 steps 2-4 choose (R76, R89). -/
def grantChoice (s : State) (c : Nat) : Option (Nat × Task) :=
  let offers := s.threads.filterMap (fun t =>
    if clusterOf t.tid == c then (grantFor s t.tid).map (fun k => (t, k)) else none)
  (minBy (fun e => e.2.rank) offers).bind (fun e =>
    (chooseSlot ((offers.filter (fun o => o.2 == e.2)).map Prod.fst)).map (fun tid => (tid, e.2)))

/-- SLUICE_GRANT (R76, R89): the dispatch of a Shoe that a task takes. -/
def execSluiceGrant (tid : Nat) (s : State) : Out :=
  let c := clusterOf tid
  match grantChoice s c with
  | none => .next s
  | some (t, k) => if t = tid ∧ shoeFree s c then .next (grantTask (shoeSpent s c none) tid k) else .next s

/-- The tasks of a die, spilled or not. -/
def dieTasks (s : State) (d : Nat) (spilled : Bool) : List Task :=
  s.work.tasks.filter (fun k => k.die == d && k.spilled == spilled)

/-- A Sluice that holds more than 65,536 tasks with the one that arrives spills the 64 of the arriving task's launch with the
largest rank that wait in it, the arriving one among them; without room in the overflow area the launch ends SPILL (R52,
R95). -/
def sluiceSpill (s : State) (d idx : Nat) : State :=
  match s.launchAt idx with
  | none => s
  | some l =>
    if (dieTasks s d false).length ≤ 65536 then s
    else
      let waiting := (dieTasks s d false).filter (fun k => k.launch == idx && (k.state == .queued || k.state == .overflow))
      if overflowRoom l = 0 then endLaunch s idx 4
      else (((sortBy Task.rank waiting).reverse).take (min 64 (overflowRoom l))).foldl (markSpilled true) (writeOverflow s l)

/-- SLUICE_ACCEPT (R49, R87, R95): the task id is the count of the launch's tasks accepted here, and the die. -/
def execSluiceAccept (d : Nat) (s : State) : Out :=
  match s.work.offered.find? (fun e => e.1 == d) with
  | none => .next s
  | some e =>
    let idx := e.2.launch
    let s := { s with work := { s.work with offered := s.work.offered.erase e } }
    if ((s.launchAt idx).map Launch.ended).getD true then .next s
    else
      let n := Tbl.at s.work.accepted (4 * idx + d) 0
      let k : Task := { id := n * 4 + d, launch := idx, die := d, item := e.2, ts := e.2.word 1, state := .queued,
                        tid := none, spilled := false, leave := false, serialShip := false }
      .next (sluiceSpill { s with work := { s.work with
        tasks := s.work.tasks ++ [k], accepted := Tbl.put s.work.accepted (4 * idx + d) (n + 1) } } d idx)

/-- SLUICE_REFILL (R95): below 49,152 tasks, up to 64 spilled tasks come back, smallest first. -/
def execSluiceRefill (d : Nat) (s : State) : Out :=
  if 49152 ≤ (dieTasks s d false).length then .next s
  else .next (((sortBy Task.rank (dieTasks s d true)).take 64).foldl (markSpilled false) s)

/-- The smallest pair of a launch's unretired tasks on a die. -/
def dieMinimum (s : State) (idx d : Nat) : Option (Nat × Nat) :=
  (minBy Task.rank ((tasksOf s idx).filter (fun k => k.die == d))).map (fun k => (k.ts.toNat, k.id))

/-- Whether a launch's minima are 64 cycles old, the most that an exchange may lag (R91). -/
def minimaOld (s : State) (idx : Nat) : Bool := decide (Tbl.at s.work.exchanged idx 0 + 64 ≤ s.cycle)

/-- SLUICE_MINIMA_EXCHANGE (R91). -/
def execSluiceMinimaExchange (l : Nat) (s : State) : Out :=
  .next { s with work := { s.work with
    minima := (List.range 4).foldl (fun m d => Tbl.put m (4 * l + d) (dieMinimum s l d)) s.work.minima
    exchanged := Tbl.put s.work.exchanged l s.cycle } }

/-- The task of a launch that may receive leave: the one that no unretired task precedes, FINISHED or OVERFLOW, while no
IRREVOCABLE task runs (R91, R94). -/
def leaveFor (s : State) (idx : Nat) : Option Task :=
  if (irrevocableOf s idx).isSome then none
  else (minBy Task.rank (tasksOf s idx)).filter (fun k =>
    !k.leave && (k.state == .finished || k.state == .overflow) && minimaAllow s k)

/-- LEAVE_TO_COMMIT (R91, R94, R346). -/
def execLeaveToCommit (l : Nat) (s : State) : Out :=
  match leaveFor s l with
  | none => .next s
  | some k => .next (s.mapTask (l, k.id) (fun k => { k with leave := true }))

/-- A FINISHED task whose chunk has committed and whose children have been accepted (R88, R91). -/
def retirable (s : State) (idx : Nat) : Option Task :=
  (tasksOf s idx).find? (fun k =>
    k.state == .finished && k.leave &&
    s.threads.all (fun t => !(t.openTasks.contains (idx, k.id))) &&
    s.freeze.images.all (fun i => i.threads.all (fun t => !(t.openTasks.contains (idx, k.id)))) &&
    s.work.offered.all (fun e => e.2.launch != idx))

/-- ORDERED_TASK_RETIRE (R88, R91). -/
def execOrderedTaskRetire (l : Nat) (s : State) : Out :=
  match retirable s l with
  | none => .next s
  | some k =>
    let s := { s with work := { s.work with tasks := s.work.tasks.filter (fun x => !(x.launch == l && x.id == k.id)) } }
    .next (s.mapLaunch l (fun x => { x with retired := x.retired + 1 }))

/-- Whether a slot that a task could take waits on the task's die; one of a frozen tile is FROZEN (R72, R93). -/
def slotSeen (s : State) (k : Task) : Bool :=
  s.threads.any (fun t => t.launch == some k.launch && t.place == .waiting && !tileFrozen s (tileOf t.tid) &&
    dieOf (clusterOf t.tid) == k.die && taskAdmits s k t.tid)

/-- The RUNNING task that a starved GVT task displaces: the largest on its die whose slot runs on a running tile and is
of an admitted kind (R93, R474). -/
def victim (s : State) (g : Task) : Option Task :=
  ((sortBy Task.rank ((tasksOf s g.launch).filter (fun k =>
    k.state == .running && k.die == g.die && (match k.tid.bind s.thread with
      | some t => t.place == .run && !tileFrozen s (tileOf t.tid) && taskAdmits s g t.tid
      | none => false)))).reverse).head?

/-- One launch's sample of R92 and what R93 makes of it. -/
def sampleLaunch (s : State) (idx : Nat) : State :=
  let old := s.work.gvt.find? (fun g => g.launch == idx)
  let rest := s.work.gvt.filter (fun g => g.launch != idx)
  match minBy Task.rank (tasksOf s idx) with
  | none => { s with work := { s.work with gvt := rest } }
  | some k =>
    let idle := k.state == .queued || k.state == .overflow
    let starved := match old with
      | some g => g.task == k.id && g.idle && idle && !g.slotSeen && !slotSeen s k
      | none => false
    let s := { s with work := { s.work with gvt :=
      rest ++ [{ launch := idx, task := k.id, idle := idle, slotSeen := slotSeen s k }] } }
    if !starved then s
    else match (victim s k).bind Task.tid with
      | none => s
      | some tid =>
        let s := squash s tid false 2
        if grantable s k && rankFloor s idx ≤ k.rank then grantTask s tid k else s

/-- Whether the sample of this cycle has yet to be taken (R92). -/
def gvtDue (s : State) : Bool := s.cycle % 1024 == 0 && s.work.lastGvt != s.cycle / 1024

/-- GVT_SAMPLE (R92, R93): at each cycle that is a multiple of 1,024. -/
def execGvtSample (s : State) : Out :=
  if !gvtDue s then .next s
  else
    let s := { s with work := { s.work with lastGvt := s.cycle / 1024 } }
    let ords := (List.range s.work.launches.length).filter (fun i => ((s.launchAt i).map Launch.ord).getD false)
    .next (ords.foldl sampleLaunch s)

/-- Keeps the samples' note of a slot that waited, at the end of a cycle (R93). -/
def watchSlots (s : State) : State :=
  { s with work := { s.work with gvt := s.work.gvt.map (fun g =>
      { g with slotSeen := g.slotSeen || ((s.task (g.launch, g.task)).map (slotSeen s)).getD false }) } }

end Sys2Proof.Machine
end

