-- ==== Sys2Proof/Machine/Shoe.lean ====
section
/-! DEFINITION. Sys2Proof/Machine/Shoe.lean: the Shoes, gang admission, hint walks and the Fantail (R72-R86, R89), and the
write of an item into its slot (R50). -/

namespace Sys2Proof.Machine

/-- The order in which items leave a store other than by dispatch: lowest current priority, then newest (R78, R84). -/
def Item.leaveKey (s : State) (i : Item) : Nat := i.current s * 2 ^ 64 + (2 ^ 64 - 1 - i.arrival)

/-- A full Shoe spills up to 64 items of the arriving item's launch, the arriving one among them, to its overflow area
(R78), where each keeps the cycles that it has waited of its aging period; without room there the launch ends SPILL (R52).
The answer says whether the arriving item remains to be taken. -/
def shoeSpill (s : State) (c : Nat) (i : Item) : State × Bool :=
  match s.launchAt i.launch with
  | none => (s, false)
  | some l =>
    if (s.shoe c).items.length < 4096 then (s, true)
    else if overflowRoom l = 0 then (endLaunch s i.launch 4, false)
    else
      let mine := (s.shoe c).items.filter (fun x => x.launch == i.launch) ++ [i]
      let out := (sortBy (Item.leaveKey s) mine).take (min 64 (overflowRoom l))
      let s := s.mapShoe c (fun x => { x with items := x.items.filter (fun y => !out.contains y) })
      let s := (writeOverflow s l).mapLaunch i.launch (fun l => { l with
        spilled := l.spilled ++ (sortBy Item.arrival out).map (fun y =>
          (c, { y with since := s.cycle - y.since, spill := s.work.arrivals })) })
      (s, !out.contains i)

/-- An item joins a Shoe's queue of its priority with a new time of arrival (R74, R78, R85). -/
def acceptItem (c : Nat) (s : State) (i : Item) : State :=
  if ((s.launchAt i.launch).map (fun l => l.ended || l.complete)).getD true then s
  else
    let i := { i with arrival := s.work.arrivals, since := s.cycle, aged := 0 }
    let s := { s with work := { s.work with arrivals := s.work.arrivals + 1 } }
    let r := shoeSpill s c i
    if r.2 then r.1.mapShoe c (fun x => { x with items := x.items ++ [i] }) else r.1

/-- An item whose loading a freeze has cut off returns to the head of its Shoe's queue; a full Shoe spills first (R73, R74,
R78). -/
def returnItem (c : Nat) (s : State) (i : Item) : State :=
  if ((s.launchAt i.launch).map (fun l => l.ended || l.complete)).getD true then s
  else
    let i := { i with arrival := minOf ((s.shoe c).items.map Item.arrival) }
    let s := { s with work := { s.work with arrivals := s.work.arrivals + 1 } }
    let s := s.mapShoe c (fun x => { x with items := x.items.map (fun y => { y with arrival := y.arrival + 1 }) })
    let r := shoeSpill s c i
    if r.2 then r.1.mapShoe c (fun x => { x with items := i :: x.items }) else r.1

/-- SHOE_ITEM_ARRIVE (R78). -/
def execShoeItemArrive (c : Nat) (s : State) : Out :=
  match s.work.arriving.find? (fun e => e.1 == c) with
  | none => .next s
  | some e => .next (acceptItem c { s with work := { s.work with arriving := s.work.arriving.erase e } } e.2)

/-- The launch and item that a Shoe's next refill brings back: the oldest spill of any launch (R78). -/
def refillFor (s : State) (c : Nat) : Option (Nat × (Nat × Item)) :=
  if 1024 ≤ (s.shoe c).items.length then none
  else minBy (fun e => e.2.2.spill) ((List.range s.work.launches.length).filterMap (fun k =>
    (s.launchAt k).bind (fun l => (l.spilled.find? (fun e => e.1 == c)).map (fun e => (k, e)))))

/-- SHOE_REFILL (R78): oldest spill first; priority, aging and group are kept, and so is the place that the item's arrival
before the spill gives it in its queue (log 28: DESIGN CHOICE, unsafe). -/
def execShoeRefill (c : Nat) (s : State) : Out :=
  match refillFor s c with
  | none => .next s
  | some (k, e) =>
    let s := s.mapLaunch k (fun l => { l with spilled := l.spilled.erase e })
    .next (s.mapShoe c (fun x => { x with items := x.items ++ [{ e.2 with since := s.cycle - e.2.since }] }))

/-- An item with the whole periods that it has waited counted, and its present one begun where they end (R77). -/
def ageItem (s : State) (i : Item) : Item :=
  { i with aged := i.aged + agingOf s i, since := i.since + agingOf s i * agingPeriod s }

/-- ITEM_AGING (R77). -/
def execItemAging (c : Nat) (s : State) : Out :=
  .next (s.mapShoe c (fun x => { x with items := x.items.map (ageItem s) }))

/-- A selected slot starts loading an item; LOADING takes 6 cycles (R72, R73). -/
def loadItem (s : State) (tid : Nat) (i : Item) (gang : Option Nat) : State :=
  match s.thread tid with
  | none => s
  | some t => s.setThread { t with place := .loading i (s.cycle + 6), gang := gang, item0 := i, ordered := false,
                                   irrev := false, ex := { Chunk.empty t.r with gen := t.ex.gen } }

/-- Whether a plain item of a current priority may go to a slot of its launch: in an ordered launch the GVT task comes
first, and below priority 3 whatever the Sluice would grant (R89). -/
def plainAllowed (s : State) (idx : Nat) (prio tid : Nat) : Bool :=
  !((s.launchAt idx).map Launch.ord).getD false ||
  (if prio = 3 then (gvtFor s idx tid).isNone else (sluiceAnswer s idx tid).isNone)

/-- The WAITING slots of a cluster that are eligible for an item (R75). -/
def eligible (s : State) (c : Nat) (i : Item) : List Thread :=
  match s.launchAt i.launch with
  | none => []
  | some l =>
    if !l.acked || l.ended then []
    else s.threads.filter (fun t => clusterOf t.tid == c && slotTakes s i.launch (l.levelAt i.level).place t &&
      plainAllowed s i.launch (i.current s) t.tid)

/-- The item of one priority queue that a Shoe would dispatch: the first by arrival that some WAITING slot can take
(R76 step 1). -/
def queueChoice (s : State) (c prio : Nat) : Option Item :=
  minBy Item.arrival ((storeOf s c).filter (fun i => i.current s == prio && !(eligible s c i).isEmpty))

/-- The item that a Shoe would dispatch next (R76). -/
def shoeChoice (s : State) (c : Nat) : Option Item :=
  [3, 2, 1, 0].findSome? (queueChoice s c)

/-- Whether a Shoe has a dispatch to make in this cycle (R76). -/
def shoeReady (s : State) (c : Nat) : Bool := shoeFree s c && (shoeChoice s c).isSome

/-- An item leaves a Shoe's store, or the batch that has left it in this cycle (R85). -/
def takeItem (s : State) (c : Nat) (i : Item) : State :=
  let s := s.mapShoe c (fun x => { x with items := x.items.erase i })
  { s with work := { s.work with batches := s.work.batches.map (fun b =>
      if b.fresh s c then { b with items := b.items.erase i } else b) } }

/-- SHOE_DISPATCH (R76): at most one in a cycle. -/
def execShoeDispatch (c : Nat) (s : State) : Out :=
  if !shoeFree s c then .next s
  else match shoeChoice s c with
    | none => .next s
    | some i => match chooseSlot (eligible s c i) with
      | none => .next s
      | some tid =>
        .next (loadItem (shoeSpent (takeItem s c i) c (some i)) tid i none)

/-- The registers that an item finds: g1-g7, PC, LEVEL, ITEM, FMODE and FFLAGS are written; of the others each keeps its
value where the free bit of it is 1, or is zero, and keeps it after WAITW (R50, R369). -/
def itemRegs (l : Launch) (i : Item) (id : Word) (r : Regs) (keeps : Bool) (free : BitVec 512) : Regs :=
  let k (n : Nat) : Bool := keeps || free.getLsbD n
  { r with
    pc := l.codebase + BitVec.ofNat 64 (bitsOf i.w0 0 32)
    g := Vector.ofFn (fun n => if 1 ≤ n.val ∧ n.val ≤ 7 then i.word n.val else if k n.val then r.g[n] else 0)
    p := Vector.ofFn (fun n => if k (32 + n.val) then r.p[n] else 0)
    v := Vector.ofFn (fun n => if k (64 + n.val) then r.v[n] else 0)
    e := Vector.ofFn (fun n => if k (96 + n.val) then r.e[n] else 0)
    fflags := 0, fmode := if 5 ≤ bitsOf l.fmode 0 3 then l.fmode &&& ~~~7#12 else l.fmode
    level := BitVec.ofNat 3 i.level, item := id }

/-- The write of R50: the item's words are written and the slot enters RUN at a full checkpoint, with its trailing thread
under paired execution (R416). -/
def loadSlot (s : State) (t : Thread) : State :=
    match t.place, t.launch.bind s.launchAt with
    | .loading i _, some l =>
        let id := match t.ex.task with
          | some key => BitVec.ofNat 64 key.2
          | none => i.id
        let run := ((t.ex.task.bind s.task).map Task.run).getD 0
        let r := itemRegs l i id t.r t.keeps (Config.freeVec s.free)
        let ex := { newChunk r none (t.ex.gen + 1) with task := t.ex.task, serial := t.irrev, serialShip := t.ex.serialShip }
        { s with free := s.free + 1 }.setThread
          { t.still with place := .run, r := r, ex := ex, keeps := false, item0 := i, lastV := max t.lastV i.v
                         sinceDispatch := 0, chrun := run, admitted := t.tid, ready := s.cycle + 4
                         trail := if l.paired then some { r := r, todo := [], queue := [] } else none }
    | _, _ => s

/-- Whether a slot's loading has ended (R73). -/
def loadDue (s : State) (t : Thread) : Bool :=
  match t.place with
  | .loading _ due => decide (due ≤ s.cycle) && !tileFrozen s (tileOf t.tid)
  | _ => false

/-- The members of a slot's gang group that are being loaded with it (R79). -/
def loadMates (s : State) (t : Thread) : List Thread :=
  if t.gang.isNone then [t] else s.threads.filter (fun u => u.gang == t.gang && u.launch == t.launch && loadDue s u)

/-- SLOT_LOAD_COMPLETE (R50, R73): the members of a gang group re-enter their barrels in one cycle (R79). -/
def execSlotLoadComplete (tid : Nat) (s : State) : Out :=
  match s.thread tid with
  | none => .next s
  | some t => if loadDue s t then .next ((loadMates s t).foldl loadSlot s) else .next s

/-- The instance of a gang: the one chosen when it has reached the head, while that can still hold it, or the one with the
most eligible WAITING slots now; with those slots, but for one that the GVT task is to have (R79, R89, R93). -/
def gangInstance (s : State) (g : Gang) : Option (Nat × List Thread) :=
  (s.launchAt g.launch).bind (fun l =>
    let free (t : Thread) : Bool := slotTakes s g.launch (l.levelAt g.level).place t && (gvtFor s g.launch t.tid).isNone
    let open' (e : Nat × List Thread) : Nat × List Thread := (e.1, e.2.filter free)
    let insts := (gangInstances s g l).map open'
    if !l.acked then none
    else match insts.find? (fun e => g.inst == some e.1) with
      | some e => some e
      | none => minBy (fun e => (2 ^ 20 - e.2.length) * 2 ^ 20 + e.1) insts)

/-- The gang at the head of an agent's admission (R79). -/
def gangHead (s : State) (agent : Nat) : Option Nat := s.work.gangs.findIdx? (fun g => g.agent == agent)

/-- Whether an agent has something to reserve for the gang at its head, or its instance to choose (R79). -/
def gangReady (s : State) (agent : Nat) : Bool :=
  ((gangHead s agent).bind (fun k => s.work.gangs[k]?)).any (fun g => match gangInstance s g with
    | none => false
    | some (k, slots) => g.inst != some k || !slots.isEmpty)

/-- Reservations of a gang outside the instance that it reserves in are released (R79, R98). -/
def keepReserved (s : State) (g : Gang) (dom inst : Nat) : State × Gang :=
  let stays (tid : Nat) : Bool := instanceOf dom tid == inst
  (s.mapThreads (fun t => if g.reserved.contains t.tid && !stays t.tid then { t with place := .waiting } else t),
   { g with reserved := g.reserved.filter stays })

/-- GANG_SLOT_RESERVE (R79): the instance is chosen, the lowest eligible slot there is reserved, and the slot of the last
member sends all of them to LOADING together. -/
def execGangSlotReserve (agent : Nat) (s : State) : Out :=
  match (gangHead s agent).bind (fun k => (s.work.gangs[k]?).map (fun g => (k, g))) with
  | none => .next s
  | some (k, g) => match gangInstance s g with
    | none => .next s
    | some (inst, slots) =>
      let (s, g) := keepReserved s g (((s.launchAt g.launch).map (fun l => (l.levelAt g.level).dom)).getD 0) inst
      let tid := minBy Thread.tid slots
      let s := match tid with
        | some t => s.setThread { t with place := .reserved g.group }
        | none => s
      let g := { g with inst := some inst, reserved := g.reserved ++ (tid.map Thread.tid).toList }
      if g.reserved.length < g.items.length then .next { s with work := { s.work with gangs := s.work.gangs.set k g } }
      else
        let s := { s with work := { s.work with gangs := s.work.gangs.eraseIdx k } }
        .next ((g.reserved.zip g.items).foldl (fun s e => loadItem s e.1 e.2 (some g.group)) s)

/-- The next present cluster on the way of a walk: first along cx, then along cy (R81). -/
def nextHop (s : State) (h c : Nat) : Nat :=
  let x := c % 8
  let y := c / 8
  let hx := h % 8
  let hy := h / 8
  let along (a b : Nat) : List Nat :=
    if a < b then (List.range (b - a)).map (fun k => a + k + 1) else (List.range (a - b)).map (fun k => a - k - 1)
  let path := (along x hx).map (fun q => y * 8 + q) ++ (along y hy).map (fun q => q * 8 + hx)
  (path.find? (fun q => (presentClusters s).contains q)).getD h

/-- The cycles from a cluster to the next present one on the way: 8 for each hop within a die and 24 for each across a die
boundary, absent clusters on the way counted (R81; log 30: DEDUCED, unsafe in timing). -/
def hopCycles (a b : Nat) : Nat :=
  let across := (if a % 8 / 4 = b % 8 / 4 then 0 else 1) + (if a / 32 = b / 32 then 0 else 1)
  8 * hops a b + 16 * across

/-- The first walking item whose hop has ended. -/
def walkDue (s : State) : Option Walk := s.work.walking.find? (fun w => decide (w.due ≤ s.cycle))

/-- ITEM_WALK_HOP (R81): within the radius of its hint an item takes a WAITING slot; at its hint it joins the Shoe; else
it goes one hop on. A walking item stands in no Shoe: its dispatch is not the Shoe's one dispatch of the cycle (R76, log 28:
DESIGN CHOICE, unsafe in timing). -/
def execItemWalkHop (s : State) : Out :=
  match walkDue s with
  | none => .next s
  | some w =>
    let s := { s with work := { s.work with walking := s.work.walking.erase w } }
    let slot := if hops w.here w.goal ≤ bitsOf w.item.w0 37 3 then chooseSlot (eligible s w.here w.item) else none
    match slot with
    | some tid => .next (loadItem s tid w.item none)
    | none =>
      if w.here = w.goal then .next { s with work := { s.work with arriving := s.work.arriving ++ [(w.goal, w.item)] } }
      else
        let q := nextHop s w.goal w.here
        .next { s with work := { s.work with
          walking := s.work.walking ++ [{ w with here := q, due := s.cycle + hopCycles w.here q }] } }

/-- The balancing neighbours of a cluster: the nearest present one in each grid direction (R84). -/
def neighbours (s : State) (c : Nat) : List Nat :=
  let x := c % 8
  let y := c / 8
  let pick (l : List Nat) : List Nat := ((l.find? (fun q => (presentClusters s).contains q)).toList)
  pick ((List.range y).map (fun k => (y - 1 - k) * 8 + x)) ++ pick ((List.range x).map (fun k => y * 8 + (x - 1 - k))) ++
  pick ((List.range (7 - x)).map (fun k => y * 8 + x + 1 + k)) ++ pick ((List.range (7 - y)).map (fun k => (y + 1 + k) * 8 + x))

/-- Occupancy of a Shoe: its store and what it has spilled (R84). -/
def occupancy (s : State) (c : Nat) : Nat :=
  (s.shoe c).items.length + sumOf (s.work.launches.map (fun l => (l.spilled.filter (fun e => e.1 == c)).length))

/-- A spilled item with the whole periods that it has waited counted (R77, R78). -/
def ageSpilled (s : State) (i : Item) : Item :=
  { i with aged := i.aged + i.since / agingPeriod s, since := i.since % agingPeriod s }

/-- The same for every spilled item of a launch. -/
def ageLaunch (s : State) (l : Launch) : Launch :=
  { l with spilled := l.spilled.map (fun e => (e.1, ageSpilled s e.2)) }

/-- A new balancing interval begins: every Shoe's occupancy is sampled, and parameters that wait take effect (R84, R86). Before
the aging period changes, the whole periods waited so far are counted, and the cycles waited of the next one go on in it (R77,
log 28: DESIGN CHOICE, unsafe). -/
def newInterval (s : State) : State :=
  let count : Bool := s.work.nextParams.isSome
  let s := { s with work := { s.work with
    shoes := s.work.shoes.map (fun (e : Nat × Shoe) => (e.1, { e.2 with
      items := if count then e.2.items.map (ageItem s) else e.2.items
      gotBatch := false, stepped := false, occ := occupancy s e.1 }))
    launches := if count then s.work.launches.map (ageLaunch s) else s.work.launches } }
  let s := match s.work.nextParams with
    | some (i, t, a) => { s with work := { s.work with interval := i, threshold := t, aging := a, nextParams := none } }
    | none => s
  { s with work := { s.work with lastBalance := s.cycle / s.work.interval * s.work.interval } }

/-- Whether a launch holds a core in a cluster. -/
def holdsIn (s : State) (idx c : Nat) : Bool := s.work.holds.any (fun e => e.2 == idx && coreCluster e.1 == c)

/-- Whether an item may be moved to a cluster: within the radius of its hint (R82). -/
def mayMove (s : State) (i : Item) (c : Nat) : Bool :=
  match s.launchAt i.launch with
  | none => false
  | some l => match hintCluster l i with
    | none => true
    | some h => hops c h ≤ bitsOf i.w0 37 3

/-- Sends items of a Shoe on as a batch; one that crosses a die boundary arrives up to 200 cycles later (R85). -/
def sendBatch (s : State) (c k : Nat) (out : List Item) (fantail : Bool) : State :=
  if out.isEmpty then s
  else
    let s := s.mapShoe c (fun x => { x with items := x.items.filter (fun i => !out.contains i) })
    let out := out.map (fun i => { i with moves := i.moves + (if fantail then 1 else 0) })
    let due := if dieOf c = dieOf k then none else some (s.cycle + 200)
    let b : Batch := { from' := c, left := s.cycle, goal := k, items := out, due := due }
    { s with work := { s.work with batches := s.work.batches ++ [b] } }

/-- Items of a launch that holds no core near go towards the nearest cluster where it holds one: of more than 64 those that
arrived first, whether or not the Shoe has received a batch (R83, log 28: DESIGN CHOICE, unsafe). -/
def shipStranded (c : Nat) (s : State) (idx : Nat) : State :=
  let near := c :: neighbours s c
  if near.any (holdsIn s idx) then s
  else
    let mine := (s.shoe c).items.filter (fun i => i.launch == idx)
    let goals := (List.range 64).filter (holdsIn s idx)
    let goal (i : Item) : Option Nat := minBy (fun k => hops c k * 64 + k) (goals.filter (mayMove s i))
    let movable := (mine.filter (fun i => (goal i).isSome)).take 64
    goals.foldl (fun s k => sendBatch s c k (movable.filter (fun i => goal i == some k)) false) s

/-- The item that a Shoe has dispatched in this cycle: the batch of the cycle is chosen as if it still stood there (R85). -/
def takenNow (s : State) (c : Nat) : List Item := if shoeFree s c then [] else (s.shoe c).taken.toList

/-- The Fantail's step of one Shoe (R84, R85). -/
def fantailStep (s : State) (c : Nat) : State :=
  if (s.shoe c).gotBatch then s
  else match minBy (fun k => (s.shoe k).occ * 64 + k) (neighbours s c) with
    | none => s
    | some k =>
      let d := (s.shoe c).occ - (s.shoe k).occ
      if d ≤ s.work.threshold then s
      else
        let may (i : Item) : Bool := i.moves < 8 && mayMove s i k && holdsIn s i.launch k
        let out := (sortBy (Item.leaveKey s) (((s.shoe c).items ++ takenNow s c).filter may)).take (min 64 (d / 2))
        sendBatch s c k (out.filter (fun i => !(takenNow s c).contains i)) true

/-- Whether a new balancing interval has come (R84, R86). -/
def intervalOver (s : State) : Bool := decide (s.work.lastBalance + s.work.interval ≤ s.cycle)

/-- BALANCING_STEP (R83, R84): once in an interval for each Shoe; a dispatch of the same cycle has its item either way (R85). -/
def execBalancingStep (c : Nat) (s : State) : Out :=
  if (s.shoe c).stepped then .next s
  else
    let s := s.mapShoe c (fun x => { x with stepped := true })
    let s := fantailStep s c
    .next ((List.range s.work.launches.length).foldl (shipStranded c) s)

/-- FANTAIL_BATCH_ARRIVE (R85). -/
def execFantailBatchArrive (c : Nat) (s : State) : Out :=
  match s.work.batches.find? (fun e => e.goal == c && decide (e.left < s.cycle)) with
  | none => .next s
  | some e =>
    let s := { s with work := { s.work with batches := s.work.batches.erase e } }
    .next (e.items.foldl (acceptItem c) (s.mapShoe c (fun x => { x with gotBatch := true })))

end Sys2Proof.Machine
end

