-- ==== Sys2Proof/Machine/System.lean ====
section
/-! DEFINITION. Sys2Proof/Machine/System.lean: the CSR and system instructions (R105-R113, R387-R392). -/

namespace Sys2Proof.Machine

/-- The CSRs that only the supervisor may access (R105). -/
def csrSuper (n : BitVec 10) : Bool := [0x031, 0x040, 0x041, 0x042, 0x043, 0x044, 0x060].contains n.toNat

/-- The CSRs whose writes are chunk-closing (R111). -/
def csrClosing (n : BitVec 10) : Bool := [0x021, 0x031, 0x041, 0x044, 0x060].contains n.toNat

/-- A CSR as read, reserved fields 0 (R105, R106, R108, R113). -/
def csrRead (s : State) (n : BitVec 10) : Word :=
  let t := s.cur
  match n.toNat with
  | 0x000 => BitVec.ofNat 64 t.tid
  | 0x001 => BitVec.ofNat 64 (t.asid % 1024)
  | 0x002 => t.r.level.setWidth 64
  | 0x003 => t.r.item
  | 0x010 => t.r.fflags.setWidth 64
  | 0x011 => t.r.fmode.setWidth 64
  | 0x012 => t.r.srseed
  | 0x013 => t.r.scxg.setWidth 64
  | 0x014 => t.r.waitto.setWidth 64
  | 0x020 => t.chseq
  | 0x021 => chctlOf t.r
  | 0x022 => chstatOf t
  | 0x030 => BitVec.ofNat 64 (bitOf t.r.sbchk)
  | 0x031 => (Tbl.at s.shares (clusterOf t.tid) 8).setWidth 64
  | 0x040 => (((selected s).bind (fun u => u.trap)).map recWord0).getD 0
  | 0x041 => ((selected s).map (fun u => u.trpc)).getD 0
  | 0x042 => (((selected s).bind (fun u => u.trap)).map (fun r => r.val)).getD 0
  | 0x043 => (((selected s).bind (fun u => u.trap)).map (fun r => r.val2)).getD 0
  | 0x044 => BitVec.ofNat 64 (bitOf (((selected s).map (fun u => u.stepFlag)).getD false))
  | 0x050 => BitVec.ofNat 64 s.cycle
  | 0x051 => t.instret + BitVec.ofNat 64 (openCount t)
  | 0x052 => t.commits
  | 0x053 => t.squashes
  | _ => BitVec.ofNat 64 (t.parksel.toNat + bitOf (selected s).isSome * 2 ^ 17)

/-- A CSR of the thread itself as written, out-of-range values adjusted (R109). -/
def csrRegs (r : Regs) (n : BitVec 10) (x : Word) : Regs :=
  match n.toNat with
  | 0x010 => { r with fflags := x.setWidth 6 }
  | 0x011 => { r with fmode := x.setWidth 12 }
  | 0x012 => { r with srseed := if x = 0 then 1 else x }
  | 0x013 => { r with scxg := x.setWidth 2 }
  | 0x014 => { r with waitto := if x.setWidth 32 = 0#32 then 65536 else x.setWidth 32 }
  | 0x021 => { r with chmin := if x.setWidth 16 = 0#16 then 256 else x.setWidth 16
                      pin := BitVec.ofNat 2 (bitsOf x 16 2) }
  | 0x030 => { r with sbchk := x.getLsbD 0 }
  | _ => r

/-- The state after a CSR write (R97, R105, R109, R113). -/
def csrWrite (s : State) (n : BitVec 10) (x : Word) : State :=
  match n.toNat with
  | 0x031 => { s with shares := Tbl.put s.shares (clusterOf s.cur.tid) (x.setWidth 4) }
  | 0x041 => match selected s with
    | some u => s.setThread { u with trpc := x &&& ~~~1#64 }
    | none => s
  | 0x044 => match selected s with
    | some u => s.setThread { u with stepFlag := x.getLsbD 0 }
    | none => s
  | 0x060 => s.withCur { s.cur with parksel := x.setWidth 17 }
  | _ => s.withCur (s.cur.setR (csrRegs s.cur.r n x))

/-- Whether a shipped instruction of the thread is outstanding (R244). -/
def shipsOut (s : State) : Bool := s.ships.any (fun k => k.tid == s.cur.tid && !k.cancelled)

/-- The word of a CSR instruction, for TRVAL (R149). -/
def wordOf (i : Instr) : Word := BitVec.ofNat 64 ((encode i).getD 0)

/-- A CSR instruction (R110, R111, R392): f gives the new value from the old one, none for CSRR. An FMODE without a rounding
mode is ILL, which comes before SBCHK (R109, R376). -/
def csrOp (i : Instr) (n : BitVec 10) (d : Fin 32) (srcs : List Reg) (f : Option (Word → Word)) (z : Fin 8)
    (s : State) : Out :=
  let illegal := n = 0x011 && (f.map (fun f => decide (5 ≤ bitsOf (f (csrRead s n)) 0 3))).getD false
  if illegal then s.trap cILL (wordOf i) 0
  else s.check srcs
    (if csrSuper n && !s.cur.super then s.trap cPROT (n.setWidth 64) 4
     else if n = 0x010 && shipsOut s then .next s.stall
     else match f with
       | none => .next (s.done 4 z (s.cur.putG s.cycle 2 d (csrRead s n)))
       | some f =>
         let go (s : State) (c : Bool) : Out :=
           let old := csrRead s n
           let s := csrWrite s n (f old)
           let t := s.cur.putG s.cycle 2 d old
           .next (if c then s.closed 4 z t else s.done 4 z t)
         if csrClosing n then s.closing (fun s => go s true) else go s false)

/-- CSRR (R392). -/
def execCsrr (n : BitVec 10) (d : Fin 32) (z : Fin 8) (s : State) : Out := csrOp (.csrr n d z) n d [] none z s

/-- CSRW (R392). -/
def execCsrw (n : BitVec 10) (d a : Fin 32) (z : Fin 8) (s : State) : Out :=
  csrOp (.csrw n d a z) n d [.g a] (some (fun _ => s.rg a)) z s

/-- CSRS (R392). -/
def execCsrs (n : BitVec 10) (d a : Fin 32) (z : Fin 8) (s : State) : Out :=
  csrOp (.csrs n d a z) n d [.g a] (some (fun old => old ||| s.rg a)) z s

/-- CSRC (R392). -/
def execCsrc (n : BitVec 10) (d a : Fin 32) (z : Fin 8) (s : State) : Out :=
  csrOp (.csrc n d a z) n d [.g a] (some (fun old => old &&& ~~~(s.rg a))) z s

/-- TRAP (R387): TRPC is the instruction's address + 4, TRVAL2 is g1. -/
def execTrap (c : BitVec 15) (_z : Fin 8) (s : State) : Out :=
  s.check [.g 1] (.next (takeTrapRec s (s.cur.r.pc + 4) (fun u =>
    recordOf u u.cur cTRAP u.cur.r.pc (c.setWidth 64) (s.rg 1))))

/-- BRK (R387). -/
def execBrk (c : BitVec 15) (_z : Fin 8) (s : State) : Out :=
  .next (takeTrapRec s (s.cur.r.pc + 4) (fun u => recordOf u u.cur cBRK u.cur.r.pc (c.setWidth 64) 0))

/-- ERET (R388): the selected parked thread resumes at its TRPC; without one, or with a fatal record, no effect. -/
def execEret (z : Fin 8) (s : State) : Out :=
  s.privileged (s.closing (fun s =>
    let s := match selected s with
      | none => s
      | some u => if (u.trap.map Rec.fatal).getD false then s else s.setThread (resume s.cycle u)
    .next (s.closed 4 z s.cur)))

/-- A parked thread's item ends without being resumed, and its launch ends KILLED unless it ends ABORTED or SPILL
(R389). The task of an IRREVOCABLE body leaves its Sluice with it. -/
def parkOut (s : State) (u : Thread) : State :=
  let s := match u.ex.task with
    | some key => { s with work := { s.work with
        tasks := s.work.tasks.filter (fun k => !(k.launch == key.1 && k.id == key.2)) } }
    | none => s
  let s := s.mapOwnLaunch u (fun l => { l with status := some (l.status.getD 3) })
  retireItem s { u with trap := none, posted := false } false

/-- PARK (R389). -/
def execPark (z : Fin 8) (s : State) : Out :=
  s.privileged (s.closing (fun s =>
    let s := match selected s with
      | none => s
      | some u => if u.super then s else parkOut s u
    .next (s.closed 4 z s.cur)))

/-- NOP (R390). -/
def execNop (z : Fin 8) (s : State) : Out := .next (s.done 4 z s.cur)

/-- The halfword 0x0000 (R391): it traps ILL with TRVAL 0. -/
def execIll (s : State) : Out := s.trap cILL 0 0

end Sys2Proof.Machine
end

