-- ==== Sys2Proof/Machine/Frost.lean ====
section
/-! DEFINITION. Sys2Proof/Machine/Frost.lean: freezing a tile, its image, the Pond, restore and migration (R352, R395-R412;
log 11: DESIGN CHOICE, unsafe). -/

namespace Sys2Proof.Machine

/-- A tile whose clock runs and whose shell is empty. -/
def Tile.fresh : Tile :=
  { state := .running, gen := 0, frozenAt := 0, held := [], pond := [], forwards := [], saving := none, loading := none,
    full := false, late := false, ecred := [0, 0, 0, 0, 0, 0], iowed := [0, 0, 0, 0, 0, 0] }

/-- The shell of a tile. -/
def State.tile (s : State) (tile : Nat) : Tile := Tbl.at s.freeze.tiles tile Tile.fresh

/-- The state with a tile's shell changed. -/
def State.mapTile (s : State) (tile : Nat) (f : Tile → Tile) : State :=
  { s with freeze := { s.freeze with tiles := Tbl.put s.freeze.tiles tile (f (s.tile tile)) } }

/-- The threads of a tile. -/
def tileThreads (s : State) (tile : Nat) : List Thread := s.threads.filter (fun t => tileOf t.tid == tile)

/-- An open chunk that a freeze parks (R352); a serial one keeps its nodes and the token instead (R350). -/
def parksEx (t : Thread) : Bool :=
  t.place == .run && !t.ex.serial && (t.ex.count != 0 || t.ex.rlines != [] || t.ex.wlines != [])
def parksCom (t : Thread) : Bool := t.com.any (fun c => c.phase == .ended && !c.serial)

/-- A commit whose request is complete, which goes on without its tile (R352). -/
def goesOn (t : Thread) : Bool := t.com.any (fun c => c.phase != .ended)

/-- The entries of a thread's parked chunks in the Weir's table: slot and context. -/
def parkedOf (t : Thread) : List Nat :=
  (if parksEx t then [2 * t.tid] else []) ++ (if parksCom t then [2 * t.tid + 1] else []) ++
  t.fins.map (fun _ => 2 * t.tid + 1)

/-- The FINISHED chunks of a thread with the table's free entries gone to the first of them: the rest are doomed (R352). -/
def parkFins : Nat → List Chunk → List Chunk
  | _, [] => []
  | 0, c :: l => { c with doomed := true } :: parkFins 0 l
  | n + 1, c :: l => c :: parkFins n l

/-- A thread's chunks are parked: pins are given up, those of a rerun that is still acquiring too, and taken again only by a
chunk that is rolled back or has not begun; a chunk for which the table of 4,096 has no entry is doomed (R350, R352). -/
def parkChunks (s : State) (tid : Nat) : State :=
  match s.thread tid with
  | none => s
  | some t =>
    let pinned := t.ex.pinned || (parksCom t && t.com.any Chunk.pinned)
    let s := if pinned || (t.mustPin && t.com.isNone) then releaseNodes s tid true else s
    let new := parkedOf t
    let room := 4096 - s.weir.parked.length
    let ex := bitOf (parksEx t)
    let com := bitOf (parksCom t)
    let s := { s with weir := { s.weir with parked := s.weir.parked ++ new.take room } }
    let s := if room < new.length then s.mapTile (tileOf tid) (fun x => { x with full := true }) else s
    s.setThread { t with
      mustPin := t.mustPin && !(pinned && (parksEx t || parksCom t))
      ex := { t.ex with pinned := false, doomed := t.ex.doomed || (parksEx t && room == 0) }
      com := t.com.map (fun c => { c with
        pinned := c.pinned && !parksCom t, doomed := c.doomed || (parksCom t && decide (room ≤ ex)) })
      fins := parkFins (room - ex - com) t.fins }

/-- A gang group of which a member is being loaded when its tile is frozen: all members are loaded in one cycle, so the whole
group goes back to the head of its agent's queue without a reserved slot, and its slots wait (R73, R79, log 28: DEDUCED,
unsafe); a group that reserves already goes on first, and one of initial items keeps level 0. -/
def regroup (s : State) (t : Thread) (g : Nat) : State :=
  let itemOf (u : Thread) : Option Item := match u.place with
    | .loading i _ => if u.gang == some g && u.launch == t.launch then some i else none
    | _ => none
  match s.threads.filterMap itemOf, t.launch, t.launch.bind s.launchAt with
  | i :: is, some idx, some l =>
    let s := s.mapThreads (fun u => if (itemOf u).isSome then u.toWaiting else u)
    let level := if 65536 * g < l.nitems then 0 else i.level
    let x : Gang := { launch := idx, group := g, level := level, items := i :: is,
                      agent := agentFor (l.levelAt level).dom (clusterOf t.tid), inst := none, reserved := [] }
    let busy (y : Gang) : Bool := !(y.agent == x.agent && y.reserved.isEmpty)
    { s with work := { s.work with gangs := s.work.gangs.takeWhile busy ++ x :: s.work.gangs.dropWhile busy } }
  | _, _, _ => s

/-- A slot that waits or loads when its tile is frozen: an item not yet written goes back to the head of its Shoe's queue, a
task to its Sluice, a gang group to its agent; a reservation is released (R73, R88, R98). -/
def unloadSlot (s : State) (tid : Nat) : State :=
  match s.thread tid with
  | none => s
  | some t => match t.place with
    | .reserved g =>
      let drop (x : Gang) : Gang :=
        if x.group = g ∧ some x.launch = t.launch then { x with reserved := x.reserved.filter (fun k => k != tid) } else x
      let s := { s with work := { s.work with gangs := s.work.gangs.map drop } }
      s.setThread { t with place := .waiting }
    | .loading i _ =>
      match t.gang, t.ex.task with
        | some g, _ => regroup s t g
        | none, some key =>
          let s := s.mapTask key (fun k => { k with
            state := if k.state == .irrevocable then .overflow else .queued, tid := none, irrev := false })
          s.setThread t.toWaiting
        | none, none => returnItem (clusterOf tid) (s.setThread t.toWaiting) i
    | _ => s

/-- Credit counts of the six channels, which are the device's own: free values (R402, R405; log 11: DESIGN CHOICE, safe). -/
def freeCredits (k : Nat) : List Nat := (List.range 6).map (fun n => Config.freeNat k / 256 ^ n % 256)

/-- Stops a tile's clock (R397, R403). -/
def freezeTile (s : State) (tile : Nat) : State :=
  let ids := (tileThreads s tile).map Thread.tid
  let s := ids.foldl unloadSlot s
  let s := s.mapTile tile (fun x => { x with
    state := .frozen, gen := s.freeze.nextGen, frozenAt := s.cycle, full := false, late := false
    ecred := freeCredits s.free, iowed := freeCredits (s.free + 1) })
  let s := ids.foldl parkChunks s
  { s with free := s.free + 2, freeze := { s.freeze with nextGen := s.freeze.nextGen + 1 } }

/-- CRC-32C of bytes (PRESUMED: Castagnoli, reflected; unsafe; log 11). -/
def crcByte : Nat → Nat → Nat
  | 0, c => c
  | n + 1, c => crcByte n (if c % 2 = 1 then (c / 2) ^^^ 0x82F63B78 else c / 2)
def crc32c (bs : List Byte) : Nat := (bs.foldl (fun c b => crcByte 8 (c ^^^ b.toNat)) 0xFFFFFFFF) ^^^ 0xFFFFFFFF

/-- Size of an image of a tile (R398). -/
def imageSize (tile : Nat) : Nat := if tile < 1024 then 1664 * 1024 else 4608 * 1024

/-- The keys of the 64 KiB frames that hold a span of the system space in near memory; none where a page is not mapped
so (R395). -/
def spanFrames (s : State) (va : Nat) (k : Access) : Nat → Option (List Nat)
  | 0 => some []
  | n + 1 =>
    if cluBase ≤ va then none
    else match translate s 0 va k with
      | .ok l => if l.key < 0x400000000 && (l.leaf.map (fun f => f.loc == 0)).getD false then
          (spanFrames s (va + 65536) k n).map (fun ks => l.key :: ks) else none
      | _ => none

/-- The key of an offset in a span of frames. -/
def frameKey (frames : List Nat) (off : Nat) : Nat := frames.getD (off / 65536) 0 + off % 65536

/-- A span of frames with new contents: the bytes given, and zeros (R403). -/
def writeFrames (m : Memory) (frames : List Nat) (cells : List (Nat × Byte)) : Memory :=
  let m := m.filter (fun c => !frames.any (fun f => f ≤ c.1 && c.1 < f + 65536))
  Memory.setAll m (cells.map (fun c => (frameKey frames c.1, c.2)))

/-- The placement code of a slot record (R400). -/
def placeCode (p : Place) : Nat :=
  match p with
  | .run => 0
  | .reserved _ => 2
  | .loading .. => 3
  | .parked => 4
  | _ => 1

/-- The CSR numbers in the order of R105. -/
def csrOrder : List Nat :=
  [0x000, 0x001, 0x002, 0x003, 0x010, 0x011, 0x012, 0x013, 0x014, 0x020, 0x021, 0x022, 0x030, 0x031,
   0x040, 0x041, 0x042, 0x043, 0x044, 0x050, 0x051, 0x052, 0x053, 0x060]

/-- The restart registers of a thread: those at the start of its oldest uncommitted chunk (R400). -/
def restartRegs (t : Thread) : Regs :=
  if t.place = .run then
    let base := t.com.getD t.ex
    restore base.mask base.ckpt t.r
  else t.r

/-- Whether a thread waits in WAITV, or in COPYW. -/
def inWaitv (t : Thread) : Bool := match t.wait with
  | .waitv .. => true
  | _ => false
def inCopyw (t : Thread) : Bool := match t.wait with
  | .copyw _ => true
  | _ => false

/-- A CSR in a slot record: of the supervisor's CSRs those of the thread itself, and counters as at its restart (R105, R400;
log 11: DEDUCED, safe). -/
def slotCsr (s : State) (t : Thread) (n : Nat) : Word :=
  match n with
  | 0x040 => (t.trap.map recWord0).getD 0
  | 0x041 => t.trpc
  | 0x042 => (t.trap.map (fun r => r.val)).getD 0
  | 0x043 => (t.trap.map (fun r => r.val2)).getD 0
  | 0x044 => BitVec.ofNat 64 (bitOf t.stepFlag)
  | 0x051 => t.instret
  | _ => csrRead (s.withCur t) (BitVec.ofNat 10 n)

/-- The thread whose state a slot record holds, and whether it is the trailing one of a pair: four slots, or two of a big core,
behind its leader (R400, R416). -/
def slotHolder (s : State) (t : Thread) : Thread × Bool :=
  let n := if isBig t.tid then 2 else 4
  match s.thread (t.tid - n) with
  | some u => if u.trail.isSome && coreOf u.tid == coreOf t.tid && decide (n ≤ t.tid) then (u, true) else (t, false)
  | none => (t, false)

/-- The registers that a reply is to write: those that wait for it, or those of a chunk-closing instruction, by code (R103, R143,
R400). -/
def replyDst (t : Thread) (x : Ship) : List Reg :=
  match x.instr with
  | .amow _ d .. | .amowcas _ d .. => pairRegs d
  | .mma d _ | .mmaz d _ | .mdrn d _ | .mtrn d _ | .mrsum d _ => [.g d]
  | _ => (t.busy.filter (fun b => b.why == .ship x.id)).map Busy.reg

/-- An entry for an outstanding reply: reply slot, chk, and the codes of up to seven destination registers, one more than each,
in a byte each (R400; log 11: DESIGN CHOICE, unsafe). -/
def shipEntry (t : Thread) (x : Ship) : List Nat :=
  [x.sid + x.gen % 256 * 256, (replyDst t x).reverse.foldl (fun n r => n * 256 + r.code + 1) 0]

/-- The cells of a slot record at an offset of its image (R400). -/
def slotCells (s : State) (off : Nat) (t0 : Thread) : List (Nat × Byte) :=
  let (t, trails) := slotHolder s t0
  let r := restartRegs t
  let u := { t with r := r }
  let ps := placeCode t.place + bitOf ((t.trap.map Rec.fatal).getD false) * 16 + bitOf trails * 32 + bitOf t.ex.serialShip * 64 +
    bitOf (inWaitv t) * 128 + bitOf (inCopyw t) * 256
  let gid := match t.ex.task with
    | some key => key.2
    | none => t.item0.group
  let bar := match t.pending with
    | some (_, ph) => t.r.level.toNat + 8 + ph * 16
    | none => 0
  let words (o : Nat) (l : List Nat) : List (Nat × Byte) := cellsAt (off + o) (l.flatMap (bytesOf 8))
  let ships := (s.ships.filter (fun x => x.tid == t.tid)).take 4
  words 0 [ps, r.pc.toNat, gid, t.item0.w0.toNat, bar, r.copySeq % 2 ^ 48 + min t.copyFailed.length 0xFFFF * 2 ^ 48,
    t.copyDone] ++
  words 0x40 (csrOrder.map (fun n => (slotCsr s u n).toNat)) ++
  words 0x100 ((0 :: (r.g.toList.drop 1).map BitVec.toNat)) ++
  cellsAt (off + 0x200) ((0xFFFF :: (r.p.toList.drop 1).map BitVec.toNat).flatMap (bytesOf 2)) ++
  words 0x210 (r.e.toList.map BitVec.toNat) ++
  cellsAt (off + 0x400) (r.v.toList.flatMap (fun x => bytesOf 64 x.toNat)) ++
  words 0xC00 (ships.flatMap (shipEntry t)) ++
  words 0xC40 (t.openTasks.map Prod.snd)

/-- The section offset of a slot's record (R400). -/
def slotOffset (tid : Nat) : Nat := 0x1000 + (if isBig tid then tid % 8 else tid % 64) * 4096

/-- A Penstock entry of a big tile's image (R400): the request's fields in the order of R174. -/
def guestCells (off : Nat) (x : Ship) : List (Nat × Byte) :=
  cellsAt off (([x.tid, x.asid, x.fmode.toNat, x.seed.toNat, x.gen % 256, x.seq, x.sid, (wordOf x.instr).toNat,
    x.guard.toNat, x.a.toNat, x.b.toNat, x.c.toNat].flatMap (bytesOf 8)) ++ bytesOf 64 x.x.toNat ++ bytesOf 64 x.y.toNat)

/-- The matrix job that a big tile's core has under way or has finished without its commit (R329, R400). -/
def jobAt (s : State) (tile : Nat) : Option Ship :=
  s.ships.find? (fun x => 1024 + x.cluster == tile && x.issued && !x.cancelled && (jobOf x.instr).isSome)

/-- The matrix job record of a big tile's image: its phase, then its request (R400, log 11: DESIGN CHOICE, unsafe). -/
def jobCells (s : State) (tile off : Nat) : List (Nat × Byte) :=
  match jobAt s tile with
  | none => []
  | some x => cellsAt off (bytesOf 8 (if x.replied then 2 else 1)) ++ guestCells (off + 8) x

/-- The channel of a Pond record (R402). -/
def Packet.channel : Packet → Nat
  | .load _ => 1
  | .reply _ => 3
  | _ => 5

/-- Bytes of an image whose contents the spec does not lay out, free values (R401, R402; log 11: DESIGN CHOICE, safe). -/
def boundCells (gen off n : Nat) : List (Nat × Byte) := cellsAt off (((Config.scanBytes gen).drop off).take n)

/-- The bytes of a packet in a Pond record: a shipped reply in the order of R175, or the slot with what the packet tells it; of a
copy notice the largest number (R175, R402, R404; log 11: DESIGN CHOICE, unsafe). -/
def packetBytes (s : State) (p : Packet) : List Byte :=
  match p with
  | .reply k => (match s.ships.find? (fun x => x.id == k) with
    | none => []
    | some x => bytesOf 1 x.sid ++ bytesOf 1 (x.gen % 256) ++ bytesOf 1 x.status ++ bytesOf 1 x.flags.toNat ++
        bytesOf 1 x.cause ++ bytesOf 8 x.val.toNat ++ bytesOf 8 x.val2.toNat ++ bytesOf 1 x.cluster ++ bytesOf 64 x.result.toNat)
  | .load tid => bytesOf 4 tid
  | .copy tid ends _ => bytesOf 4 tid ++ bytesOf 8 (maxOf (ends.map Prod.fst))
  | .release tid _ phase _ => bytesOf 4 tid ++ bytesOf 8 phase

/-- The cells of a Pond record of an image: its channel, the length of its payload, its arrival and the packet (R402). -/
def pondCells (s : State) (off : Nat) (p : PondEntry) : List (Nat × Byte) :=
  let bs := packetBytes s p.packet
  cellsAt off (bytesOf 2 p.packet.channel ++ bytesOf 2 bs.length) ++ cellsAt (off + 8) (bytesOf 8 p.stamp) ++ cellsAt (off + 16) bs

/-- The six channel records: the credits at the clock stop, and how many Pond records of the channel there are (R402, R405). -/
def channelCells (x : Tile) (off : Nat) : List (Nat × Byte) :=
  (List.range 6).flatMap (fun k => cellsAt (off + 16 * k) (bytesOf 1 (x.ecred.getD k 0) ++ bytesOf 1 (x.iowed.getD k 0) ++
    bytesOf 2 (x.pond.filter (fun e => e.packet.channel == k)).length))

/-- Offsets of the array, network and scan sections (R398). -/
def arrayOff (tile : Nat) : Nat := if tile < 1024 then 0x8B000 else 0x23B000
def networkOff (tile : Nat) : Nat := if tile < 1024 then 0x19B000 else 0x47B000
def scanOff (tile : Nat) : Nat := if tile < 1024 then 0x41000 else 0x21000

/-- The tile field of an image header, in the layout of R21 (R399). -/
def tileField (tile : Nat) : Nat := if tile < 1024 then tile * 64 else 65536 + (tile - 1024) * 1024
def fieldTile (x : Nat) : Nat := if x / 65536 % 2 = 1 then 1024 + x / 1024 % 64 else x / 64 % 1024

/-- The cells of an image's arrays: little core k at k * 128 KiB, a big array at 0 (R401). -/
def arrayCells (s : State) (tile : Nat) : List (Nat × Byte) :=
  let (lo, hi) := tileKeys tile
  let size := if tile < 1024 then 131072 else 2 ^ 21
  (s.mem.filter (fun c => decide (lo ≤ c.1 ∧ c.1 < hi))).map (fun c =>
    (arrayOff tile + (c.1 - lo) / 2 ^ 21 * size + (c.1 - lo) % 2 ^ 21, c.2))

/-- The bytes of an image header with a crc (R399). -/
def headerBytes (s : State) (tile : Nat) (x : Tile) (pondva : Word) (crc : Nat) : List Byte :=
  let job := (tileThreads s tile).any (fun t => t.busy.any (fun b => b.why == .job)) || (jobAt s tile).isSome
  bytesOf 4 0x00474D49 ++ bytesOf 2 1 ++ bytesOf 2 Config.stepping.toNat ++ bytesOf 4 (if tile < 1024 then 0 else 1) ++
  bytesOf 4 (tileField tile) ++ bytesOf 8 (Tbl.at s.work.tileOwner tile 0) ++ bytesOf 8 x.frozenAt ++ bytesOf 8 x.gen ++
  bytesOf 8 pondva.toNat ++ bytesOf 2 x.pond.length ++
  bytesOf 6 (bitOf x.late + bitOf x.full * 2 + bitOf job * 4) ++ bytesOf 4 crc ++ bytesOf 4 0

/-- The slots of a tile by TID (R21, R400). -/
def tileSlots (tile : Nat) : List Nat :=
  if tile < 1024 then (List.range 64).map (fun k => 64 * tile + k)
  else (List.range 4).map (fun k => 65536 + 1024 * (tile - 1024) + k)

/-- The sections of an image after its header: a slot that nothing has used has its record too (R398-R402). -/
def imageCells (s : State) (tile : Nat) (x : Tile) : List (Nat × Byte) :=
  (tileSlots tile).flatMap (fun k => slotCells s (slotOffset k) ((s.thread k).getD (Thread.fresh k false))) ++
  (if tile < 1024 then []
   else (((entriesAt s (tile - 1024)).zip (List.range 320)).flatMap (fun e => guestCells (0x5000 + 256 * e.2) e.1)) ++
     jobCells s tile 0x19000) ++
  boundCells x.gen (scanOff tile) (arrayOff tile - scanOff tile) ++ arrayCells s tile ++
  (let data := if tile < 1024 then 0x100000 else 0x200000
   boundCells x.gen (arrayOff tile + data) (networkOff tile - arrayOff tile - data)) ++
  channelCells x (networkOff tile) ++
  (((x.pond.take 128).zip (List.range 128)).flatMap (fun e => pondCells s (networkOff tile + 0x1000 + 128 * e.2) e.1))

/-- The bytes of an image as they stand in its frames. -/
def frameBytes (m : Memory) (frames : List Nat) : List Byte := frames.flatMap (fun f => Memory.bytes m f 65536)

/-- Whether every commit of a tile whose request was complete has released its nodes (R403 step 1). -/
def saveReady (s : State) (tile : Nat) : Bool := !(tileThreads s tile).any goesOn

/-- The memory with the Pond records that its 16 KiB do not hold in the overflow region (R17, R402, R404). -/
def writeOverflowPond (s : State) (x : Tile) (pondva : Word) (m : Memory) : Memory :=
  match x.pond.drop 128, spanFrames s pondva.toNat .write 1 with
  | e :: es, some frames =>
    let rest := e :: es
    writeFrames m frames ((rest.zip (List.range rest.length)).flatMap (fun e => pondCells s (128 * e.2) e.1))
  | _, _ => m

/-- Whether a memory key lies in a tile's arrays. -/
def inArrays (tile key : Nat) : Bool := (tileKeys tile).1 ≤ key && key < (tileKeys tile).2

/-- The end of SAVE: sections and overflow region, then the header with its crc; the tile is SAVED (R396, R403). -/
def saveImage (s : State) (tile : Nat) (image pondva : Word) (frames : List Nat) : State :=
  let x := s.tile tile
  let body := imageCells s tile x
  let m := writeOverflowPond s x pondva s.mem
  let m := writeFrames m frames (cellsAt 0 (headerBytes s tile x pondva 0) ++ body)
  let crc := crc32c (frameBytes m frames)
  let m := writeFrames m frames (cellsAt 0 (headerBytes s tile x pondva crc) ++ body)
  let i : Image := { addr := image, tile := tile, gen := x.gen, stamp := x.frozenAt, asid := Tbl.at s.work.tileOwner tile 0,
                     pondva := pondva, threads := [], pond := x.pond, poison := s.poison.filter (inArrays tile) }
  let images := s.freeze.images.filter (fun y => y.gen != x.gen) ++ [i]
  let s := { s with mem := m, freeze := { s.freeze with images := images } }
  s.mapTile tile (fun x => { x with state := .saved, saving := none })

/-- SAVE_COMPLETE (R396, R403). -/
def execSaveComplete (tile : Nat) (s : State) : Out :=
  match (s.tile tile).saving with
  | none => .next s
  | some (image, pondva, u) =>
    if !saveReady s tile then .next s
    else match spanFrames s image.toNat .write (imageSize tile / 65536) with
      | none => .next ((s.mapTile tile (fun x => { x with saving := none })).reply u 1 [])
      | some frames => .next ((saveImage s tile image pondva frames).reply u 0 [])

/-- A parked chunk that is doomed is rolled back on restore, with cause 6; a doomed committing one takes the executing one
with it (R408 step 3). -/
def rollDoomed (s : State) (tid : Nat) : State :=
  match s.thread tid with
  | none => s
  | some t =>
    let com := (t.com.map Chunk.doomed).getD false
    let s := (t.fins.filter Chunk.doomed).foldl (fun s c => squashFin 6 s tid c) s
    let s := if com then squash s tid true 6 else s
    if t.ex.doomed && !(com && (t.com.bind Chunk.task).isNone) then squash s tid false 6 else s

/-- A restored thread's timers and latencies go on from where the clock stopped, and a WAITV ends with result 2 (R205, R254,
R367, R375, R408 step 4). -/
def thawThread (now gap : Nat) (t : Thread) : Thread :=
  let t : Thread := { t with
    stale := (t.stale.filter (fun (e : Stale) => now < e.due + gap)).map (fun (e : Stale) => { e with due := e.due + gap })
    busy := t.busy.map (fun (b : Busy) => { b with since := b.since + gap }), landed := []
    com := t.com.map (fun (c : Chunk) => { c with since := c.since + gap })
    ready := if now < t.ready + gap then t.ready + gap else t.ready }
  match t.wait with
  | .waitv .. => { t with wait := .none, ex := { t.ex with answer := some (2, 0) } }
  | .vscx g since own fl => { t with wait := .vscx g (since + gap) own fl }
  | _ => t

/-- A Pond record is delivered to its core (R405, R408 step 5). -/
def deliverPacket (s : State) (p : Packet) : State :=
  match p with
  | .reply k => (match execShipReply k s with
    | .next s => s
    | _ => s)
  | .load tid => wakeReg tid .load s
  | p => landPacket s p

/-- The slot that a packet is for, while its shipped instruction is not forgotten. -/
def Packet.slot (s : State) : Packet → Option Nat
  | .reply k => (s.ship k).map Ship.tid
  | .load tid | .copy tid .. | .release tid .. => some tid

/-- Whether a packet is for a slot whose work is in a tile; one for work that has left with an image stays in the shell (R405,
R412). -/
def lands (s : State) (tile : Nat) (p : Packet) : Bool := (p.slot s).all (fun tid => tid < 2 ^ 20 && tileOf tid == tile)

/-- The end of a restore in a tile: waits and timers go on, doomed chunks roll back, the Pond is delivered, the clock runs; a
launch that has ended meanwhile takes its slots (R408, R436). The core's egress credits are the shell's free entries, which
are the device's own, and it owes none (R405; log 11: DESIGN CHOICE, safe). -/
def startTile (s : State) (tile gap : Nat) (pond : List PondEntry) : State :=
  let ids := (tileThreads s tile).map Thread.tid
  let s := { s with weir := { s.weir with parked := s.weir.parked.filter (fun k => !ids.contains (k / 2)) } }
  let held := (s.tile tile).held
  let s := s.mapTile tile (fun x => { x with
    state := .running, held := held.filter (fun p => !lands s tile p)
    pond := x.pond.filter (fun e => !lands s tile e.packet), saving := none, loading := none
    ecred := freeCredits s.free, iowed := [0, 0, 0, 0, 0, 0] })
  let s := s.mapThreads (fun t => if tileOf t.tid = tile then thawThread s.cycle gap t else t)
  let s := { s with free := s.free + 1, ships := s.ships.map (fun x =>
    if x.tid < 2 ^ 20 && tileOf x.tid == tile then { x with since := x.since + gap } else x) }
  let s := ids.foldl rollDoomed s
  let s := (pond.map PondEntry.packet ++ held.filter (lands s tile)).foldl deliverPacket s
  ids.foldl (fun s tid => match s.thread tid with
    | none => s
    | some t => if ((t.launch.bind s.launchAt).map Launch.ended).getD false then endThread s tid else s) s

/-- Retires a freeze generation: its images become stale (R406). -/
def retireGen (s : State) (gen : Nat) : State :=
  { s with freeze := { s.freeze with retired := addOnce gen s.freeze.retired
                                     images := s.freeze.images.filter (fun i => i.gen != gen) } }

/-- THAW of a frozen or saved tile (R396, R406, R408). -/
def thawTile (s : State) (tile : Nat) : State :=
  let x := s.tile tile
  startTile (retireGen s x.gen) tile (s.cycle - x.frozenAt) x.pond

/-- A slot that its launch has lost with its tile: registers zero, read-only counters kept (R68, R395). -/
def vacatedSlot (t : Thread) : Thread :=
  { Thread.fresh t.tid t.super with
    chseq := t.chseq, instret := t.instret, commits := t.commits, squashes := t.squashes, lastV := t.lastV
    lastOrder := t.lastOrder }

/-- A packet with its slot under another TID. -/
def Packet.rename (f : Nat → Nat) (p : Packet) : Packet :=
  match p with
  | .reply k => .reply k
  | .load tid => .load (f tid)
  | .copy tid ends v => .copy (f tid) ends v
  | .release tid bar phase v => .release (f tid) bar phase v

/-- The holders, pins and queues of a node with other TIDs. -/
def Node.rename (f : Nat → Nat) (n : Node) : Node :=
  { n with excl := n.excl.map f, shared := n.shared.map f, queue := n.queue.map f, pin := n.pin.map f,
           pinQueue := n.pinQueue.map f }

/-- A Hoist's copies and ranges with other TIDs. -/
def Hoist.rename (f : Nat → Nat) (h : Hoist) : Hoist :=
  { h with queue := h.queue.map (fun c => { c with tid := f c.tid })
           channels := h.channels.map (fun x => (x.1, { x.2 with cmd := { x.2.cmd with tid := f x.2.cmd.tid } }))
           ranges := h.ranges.map (fun r => { r with tid := f r.tid }) }

/-- The packets that a shell holds, and what its forwarding entries list, with other TIDs. -/
def Tile.rename (f : Nat → Nat) (x : Tile) : Tile :=
  { x with held := x.held.map (Packet.rename f), pond := x.pond.map (fun e => { e with packet := e.packet.rename f })
           forwards := x.forwards.map (fun e => { e with
             loads := e.loads.map (fun l => (f l.1, l.2)), copies := e.copies.map (fun l => (f l.1, l.2)) }) }

/-- Everything that the module keeps for slots by their TID, the slots themselves apart, with other TIDs, and vector queues with
other cores: the Weir, shipped instructions, copies, accesses under way, tasks, barriers and packets (R350, R352, R411, R412). -/
def rename (s : State) (f core : Nat → Nat) : State :=
  { s with
    weir := { s.weir with
      nodes := s.weir.nodes.map (fun e => (e.1, e.2.rename f)), serial := s.weir.serial.map f
      serialQueue := s.weir.serialQueue.map f, parked := s.weir.parked.map (fun k => 2 * f (k / 2) + k % 2) }
    ships := s.ships.map (fun x => { x with tid := f x.tid })
    hoists := s.hoists.map (fun e => (e.1, e.2.rename f))
    links := { s.links with
      peerOut := s.links.peerOut.map (fun x => { x with tid := f x.tid })
      hostAdds := s.links.hostAdds.map (fun x => { x with tid := f x.tid })
      hostWrites := s.links.hostWrites.map (fun x => { x with tid := f x.tid }) }
    work := { s.work with
      tasks := s.work.tasks.map (fun k => { k with tid := k.tid.map f })
      barriers := s.work.barriers.map (fun x =>
        { x with parts := x.parts.map (List.map f), arrived := x.arrived.map f, late := x.late.map f }) }
    queues := s.queues.map (fun e => (core e.1, e.2.map (fun c => { c with tid := f c.tid })))
    freeze := { s.freeze with
      tiles := s.freeze.tiles.map (fun e => (e.1, e.2.rename f))
      images := s.freeze.images.map (fun i => { i with pond := i.pond.map (fun e => { e with packet := e.packet.rename f }) }) } }

/-- A slot's work leaves its tile: the node of its core that it holds stays behind (R350; log 11: DESIGN CHOICE, unsafe). -/
def weirAway (s : State) (tid : Nat) : State :=
  let k := coreNode (coreOf tid)
  let n := s.node k
  if n.excl = some tid then s.setNode k { n with excl := none } else s

/-- A slot's work comes to a tile from an image: a serial chunk holds the node of its core again (R350, R411), and the cluster
shares the lines that its open chunks have accessed, so that signatures reach them here too (R343, R352; log 8: DEDUCED,
safe). -/
def weirBack (s : State) (t : Thread) : State :=
  let s := s.share (clusterOf t.tid) ((t.ex :: (t.com.toList ++ t.fins)).flatMap (fun c => c.rlines ++ c.wlines))
  let k := coreNode (coreOf t.tid)
  if (t.ex :: t.com.toList).any (fun c => c.serial && (c.shared ++ c.excl).contains k) then
    s.setNode k { s.node k with excl := some t.tid }
  else s

/-- VACATE of a saved tile: its work is in its image alone, and the module knows it under other TIDs; the arrays are zero, and
its launch has lost it; a supervisor slot's own state stays (R68, R395, R396). -/
def vacateTile (s : State) (tile : Nat) : State :=
  let x := s.tile tile
  let gone := (tileThreads s tile).filter (fun t => !t.super)
  let s := { s with freeze := { s.freeze with images := s.freeze.images.map (fun i =>
    if i.gen = x.gen then { i with threads := gone.map (fun t => { t with tid := awayTid x.gen t.tid }) } else i) } }
  let s := gone.foldl (fun s t => weirAway s t.tid) (zeroArrays s tile)
  let s := rename s (fun k => if gone.any (fun t => t.tid == k) then awayTid x.gen k else k)
    (fun k => if coreTile k = tile ∧ k < 2 ^ 20 then awayTid x.gen k else k)
  let s := s.mapThreads (fun t => if tileOf t.tid = tile ∧ !t.super then vacatedSlot t else t)
  let s := { s with work := { s.work with tileOwner := Tbl.del s.work.tileOwner tile
                                          holds := s.work.holds.filter (fun e => coreTile e.1 != tile) } }
  s.mapTile tile (fun x => { x with state := .vacant })

/-- The TID, the core, the memory key and the Weir node that correspond to those of a moved tile (R411, R412). -/
def moveTid (a b tid : Nat) : Nat :=
  if tileOf tid ≠ a then tid
  else if isBig tid then 65536 + (b - 1024) * 1024 + tid % 1024 else tid % 64 + 64 * b
def moveCore (a b core : Nat) : Nat :=
  if coreTile core ≠ a then core else if a < 1024 then core - 8 * a + 8 * b else 8192 + (b - 1024)
def moveKey (a b key : Nat) : Nat :=
  let (lo, hi) := tileKeys a
  if lo ≤ key ∧ key < hi then key - lo + (tileKeys b).1 else key
def moveNode (a b k : Nat) : Nat := if 256 ≤ k then 256 + moveCore a b (k - 256) else k

/-- A line of a moved tile's own parts. -/
def moveLine (a b : Nat) (l : Line) : Line :=
  match l with
  | .own c n => .own (moveCore a b c) n
  | l => l

/-- A buffered effect with its targets moved. -/
def moveEffect (a b : Nat) (e : Effect) : Effect :=
  match e with
  | .int op size key x => .int op size (moveKey a b key) x
  | .flt op dbl key x => .flt op dbl (moveKey a b key) x
  | .append cnt cap bins es x ovf line ova =>
    .append (cnt.map (fun c => (moveKey a b c.1, moveLine a b c.2))) cap bins es x (moveKey a b ovf) (moveLine a b line) ova

/-- Whether a line lies in a cluster window. -/
def Line.isClu : Line → Bool
  | .clu .. => true
  | _ => false

/-- A chunk that moves with its tile; a parked one that holds a line of a cluster window is treated as doomed (R350, R411). -/
def moveChunk (a b : Nat) (c : Chunk) : Chunk :=
  { c with
    writes := c.writes.foldl (fun m x => bufSet m (moveKey a b x.1) x.2) []
    rlines := c.rlines.map (moveLine a b), wlines := c.wlines.map (moveLine a b), dlines := c.dlines.map (moveLine a b)
    shared := c.shared.map (moveNode a b), excl := c.excl.map (moveNode a b), held := c.held.map (moveNode a b)
    effects := c.effects.map (moveEffect a b)
    doomed := c.doomed || (a != b && !c.serial && (c.rlines ++ c.wlines ++ c.dlines).any Line.isClu) }

/-- A thread that moves with its tile (R22, R411). -/
def moveThread (a b : Nat) (t : Thread) : Thread :=
  { t with tid := moveTid a b t.tid, ex := moveChunk a b t.ex, com := t.com.map (moveChunk a b)
           fins := t.fins.map (moveChunk a b) }

/-- What the module keeps for the slots of an image finds them at their new place, and what a moved big core executes goes with
it (R411, R412). -/
def readdress (s : State) (gen a b : Nat) : State :=
  let s := rename s (fun k => if k / 2 ^ 20 = gen + 1 then moveTid a b k else k)
    (fun k => if k / 2 ^ 20 = gen + 1 then moveCore a b (k % 2 ^ 20) else k)
  { s with ships := s.ships.map (fun x =>
      { x with cluster := if x.admitted && 1024 + x.cluster == a then b - 1024 else x.cluster }) }

/-- The fields of an image header that a restore checks (R399, R409). -/
structure Header where
  stepping : Nat
  big : Bool
  tile : Nat
  asid : Nat
  stamp : Nat
  gen : Nat
deriving DecidableEq, Repr

/-- Reads the header of an image whose magic, version and crc are right; none: refused with reason 1, an address off the 64 KiB
alignment too (R395, R409; log 11: DESIGN CHOICE, unsafe). -/
def readHeader (s : State) (image : Word) : Option Header :=
  if image.toNat % 65536 ≠ 0 then none
  else (readSpace s 0 image.toNat 64).bind (fun bs =>
    let n (o k : Nat) : Nat := ofBytes ((bs.drop o).take k)
    let tile := fieldTile (n 12 4)
    if n 0 4 ≠ 0x00474D49 ∨ n 4 2 ≠ 1 then none
    else (spanFrames s image.toNat .read (imageSize tile / 65536)).bind (fun frames =>
      let all := frameBytes s.mem frames
      let zeroed := all.take 56 ++ [0, 0, 0, 0] ++ all.drop 60
      if frames.any (fun f => s.poison.any (fun u => f ≤ u && u < f + 65536)) ∨ crc32c zeroed ≠ n 56 4 then none
      else some { stepping := n 6 2, big := n 8 1 == 1, tile := tile, asid := n 16 2 % 1024, stamp := n 24 8, gen := n 32 8 }))

/-- Whether a tile can take an image: no launch holds it, and it is VACANT or its clock runs without work (R396, R409). -/
def tileFree (s : State) (tile : Nat) : Bool :=
  !s.work.holds.any (fun e => coreTile e.1 == tile) && (s.tile tile).loading.isNone &&
  ((s.tile tile).state == .vacant || (s.tile tile).state == .running)

/-- Whether a tile lies in the partition of a function (R63). -/
def inPartition (s : State) (fn tile : Nat) : Bool :=
  match partitionOf s fn with
  | none => false
  | some p => p.clusters.contains (tileCluster tile) || p.tiles.contains tile

/-- The launch whose work an image holds. -/
def imageLaunch (s : State) (gen : Nat) : Option Launch :=
  (s.freeze.images.find? (fun i => i.gen == gen)).bind (fun i => (i.threads.findSome? Thread.launch).bind s.launchAt)

/-- Whether a tile is that of a die's supervisor slot (R104). -/
def superTile (tile : Nat) : Bool := [0, 1, 2, 3].any (fun d => tileOf (superTid d) == tile)

/-- Whether an image's work takes native slot 0 of a launch's big core. -/
def takesSlot0 (s : State) (gen : Nat) : Bool :=
  s.freeze.images.any (fun i => i.gen == gen && i.threads.any (fun t => t.tid % 1024 == 0 && t.launch.isSome))

/-- Whether a tile of a cluster that moves as one has been vacated, and its new place takes it, is taking it, or holds it already
(R411). -/
def goesAlong (s : State) (source target : Nat) : Bool :=
  (s.tile source).state == .vacant &&
  (tileFree s target || (s.tile target).loading.isSome || (s.tile source).forwards.any (fun f => f.target == target))

/-- Whether the placement rules of R411 let the image of a tile go to another tile; no launch's native slot becomes a
supervisor slot (R67). -/
def mayMigrate (s : State) (h : Header) (target : Nat) : Bool :=
  if h.big then
    isF (target - 1024) == isF (h.tile - 1024) && (entriesAt s (target - 1024)).isEmpty &&
    !(superTile target && takesSlot0 s h.gen)
  else match imageLaunch s h.gen with
    | none => true
    | some l =>
      l.noclu || (target % 16 == h.tile % 16 &&
        (List.range 16).all (fun k => goesAlong s (16 * (h.tile / 16) + k) (16 * (target / 16) + k)) &&
        (!l.usesBig || goesAlong s (1024 + h.tile / 16) (1024 + target / 16)))

/-- The first reason for which a restore is refused; 0: none (R407, R409). -/
def restoreFault (s : State) (h : Option Header) (target : Nat) (arch : Bool) : Nat :=
  match h with
  | none => 1
  | some h =>
    let owner := ownerOf s h.asid
    if h.stepping ≠ Config.stepping.toNat ∧ !arch then 2
    else if h.big ≠ (1024 ≤ target : Bool) then 3
    else if !tileFree s target then 4
    else if s.freeze.retired.contains h.gen ∨
        s.freeze.tiles.any (fun e => (e.2.loading.bind (fun l => readHeader s l.1)).map Header.gen == some h.gen) then 5
    else if (Tbl.find s.work.asids h.asid).isNone ∨ !inPartition s owner target then 6
    else if h.tile ≠ target ∧ ((s.tile h.tile).state ≠ .vacant ∨ !mayMigrate s h target) then 7
    else if h.tile ≠ target ∧ 8 ≤ (s.tile h.tile).forwards.length then 8
    else 0

/-- Word k of a slot record. -/
def slotWord (bs : List Byte) (o : Nat) : Word := BitVec.ofNat 64 (ofBytes ((bs.drop o).take 8))

/-- The registers of a slot record (R400). -/
def slotRegs (bs : List Byte) : Regs :=
  let csr (k : Nat) : Word := slotWord bs (0x40 + 8 * k)
  { pc := slotWord bs 8
    g := Vector.ofFn (fun n => slotWord bs (0x100 + 8 * n.val))
    p := Vector.ofFn (fun n => BitVec.ofNat 16 (ofBytes ((bs.drop (0x200 + 2 * n.val)).take 2)))
    v := Vector.ofFn (fun n => BitVec.ofNat 512 (ofBytes ((bs.drop (0x400 + 64 * n.val)).take 64)))
    e := Vector.ofFn (fun n => slotWord bs (0x210 + 8 * n.val))
    fflags := (csr 4).setWidth 6, fmode := (csr 5).setWidth 12, srseed := csr 6, scxg := (csr 7).setWidth 2
    waitto := (csr 8).setWidth 32, chmin := (csr 10).setWidth 16, pin := BitVec.ofNat 2 (bitsOf (csr 10) 16 2)
    sbchk := (csr 12).getLsbD 0, level := (csr 2).setWidth 3, item := csr 3, copySeq := bitsOf (slotWord bs 0x28) 0 48 }

/-- The thread of a slot record after an architectural restore: no open chunk, a full checkpoint at its restart pc; a
slot that held no item waits (R410). -/
def slotThread (s : State) (bs : List Byte) (tid asid : Nat) (launch : Option Nat) : Thread :=
  let csr (k : Nat) : Word := slotWord bs (0x40 + 8 * k)
  let r := slotRegs bs
  let ps := bitsOf (slotWord bs 0) 0 4
  let item : Item := { Item.none with launch := launch.getD 0, group := (slotWord bs 0x10).toNat,
                                      words := slotWord bs 0x18 :: List.replicate 7 0 }
  { Thread.fresh tid false with
    asid := asid, launch := launch, r := r, ex := newChunk r none 0, item0 := item
    place := if ps = 0 then .run else if ps = 4 then .parked else .waiting
    ordered := item.ordered, ts := r.g[1], trpc := csr 15 &&& ~~~1#64, stepFlag := (csr 18).getLsbD 0
    chseq := csr 9, chrun := BitVec.ofNat 8 (bitsOf (csr 11) 16 8), chcause := BitVec.ofNat 8 (bitsOf (csr 11) 0 8)
    instret := csr 20, commits := csr 21, squashes := csr 22, ready := s.cycle
    copyDone := (slotWord bs 0x30).toNat, copyFailed := List.replicate (bitsOf (slotWord bs 0x28) 48 16) 0 }

/-- What an architectural restore keeps of a slot beside its record: the item and its group, class and membership,
placement state, pending barrier arrival, trap record and copies. Every open chunk is rolled back, so a body starts again
(R410). -/
def keepSlot (t u : Thread) : Thread :=
  { t with
    launch := u.launch, asid := u.asid, place := u.place, item0 := u.item0, ordered := u.ordered, irrev := u.irrev
    ts := u.ts, gang := u.gang, pending := u.pending, keeps := u.keeps, trap := u.trap, posted := u.posted
    stepping := u.stepping, lastV := u.lastV, lastOrder := u.lastOrder, sinceDispatch := u.sinceDispatch
    copyFinished := u.copyFinished, copyFailed := u.copyFailed
    trail := u.trail.map (fun _ => { r := t.r, todo := [], queue := [] })
    ex := { t.ex with gen := u.ex.gen + 1, task := u.ex.task, serial := u.irrev
                      answer := if inWaitv u then some (2, 0) else none } }

/-- The local-array data of an image loaded into a tile's arrays (R401). -/
def arrayLoad (s : State) (big : Bool) (source target : Nat) (all : List Byte) : State :=
  let s := zeroArrays s target
  let size := if big then 2 ^ 21 else 131072
  let cells := (List.range (if big then 1 else 8)).flatMap (fun k =>
    cellsAt ((tileKeys target).1 + k * 2 ^ 21) ((all.drop (arrayOff source + k * size)).take size))
  { s with mem := Memory.setAll s.mem cells }

/-- Whether the launch of a thread is still to complete: another has lost the slot (R53, R66). -/
def launchLives (s : State) (t : Thread) : Bool := (t.launch.bind s.launchAt).any (fun l => !l.complete)

/-- A tile that an image has been loaded into belongs to the image's ASID, and its cores to the launches of its slots (R396). -/
def ownTile (s : State) (target asid : Nat) (cores : List (Nat × Nat)) : State :=
  { s with work := { s.work with
      tileOwner := Tbl.put s.work.tileOwner target asid
      holds := cores.foldl (fun m c => Tbl.put m c.1 c.2) s.work.holds } }

/-- The cores of threads that have come back, with their launches. -/
def coresBack (s : State) (ts : List Thread) : List (Nat × Nat) :=
  (ts.filter (launchLives s)).filterMap (fun t => t.launch.map (fun l => (coreOf t.tid, l)))

/-- What an architectural restore takes back of an image's threads, which are at their new place already: chunks with what
they hold, pin and have parked, and shipped instructions; tasks that were FINISHED are QUEUED again (R410). -/
def rollBack (s : State) (ts : List Thread) : State :=
  let s := (ts.flatMap Thread.openTasks).foldl (fun s key =>
    s.mapTask key (fun k => { k with state := .queued, tid := none, leave := false })) s
  let s := ts.foldl (fun s t => cancelShips (dropPins s t.tid) t.tid (t.ex.gen :: (t.com.map Chunk.gen).toList)) s
  { s with weir := { s.weir with parked := s.weir.parked.filter (fun k => !ts.any (fun t => t.tid == k / 2)) } }

/-- An architectural restore: the slots restart from their records, the array data is loaded, and the tile's other state is
that of an idle tile. Of an image that the module does not know the slots go to the first launch of its ASID that is not
complete (R410; log 11: DESIGN CHOICE, unsafe). -/
def archLoad (s : State) (h : Header) (old : Option Image) (target : Nat) (all : List Byte) : State :=
  let s := readdress s h.gen h.tile target
  let ts := ((old.map Image.threads).getD []).map (moveThread h.tile target)
  let s := arrayLoad (rollBack s ts) h.big h.tile target all
  let any := s.work.launches.findIdx? (fun l => l.asid == h.asid && !l.complete)
  let record (tid : Nat) : List Byte := (all.drop (slotOffset tid)).take 4096
  let slot (s : State) (tid : Nat) : State :=
    if h.big ∧ tid = superTid (dieOf (clusterOf tid)) then s
    else match ts.find? (fun u => u.tid == tid), old with
      | some u, _ =>
        if u.launch.isSome && !launchLives s u then s.placeThread (vacatedSlot u)
        else s.placeThread (keepSlot (slotThread s (record tid) tid h.asid u.launch) u)
      | none, some _ => s
      | none, none => s.placeThread (slotThread s (record tid) tid h.asid any)
  let s := (tileSlots target).foldl slot s
  let own := if h.big then [8192 + (target - 1024)] else (List.range 8).map (fun k => 8 * target + k)
  ownTile s target h.asid (match old, any with
    | some _, _ => coresBack s ts
    | none, some l => own.map (fun c => (c, l))
    | none, none => [])

/-- On another stepping the matrix jobs of a big tile are discarded, and their senders receive status 4 (R329). -/
def dropJobs (s : State) (tile : Nat) : State :=
  { s with ships := s.ships.map (fun x =>
      if 1024 + x.cluster = tile ∧ x.issued ∧ !x.cancelled ∧ (jobOf x.instr).isSome then
        { x with replied := true, status := 4, chunk := none }
      else x) }

/-- A restore on the same stepping: threads, parked chunks and arrays come back as they stopped (R408). -/
def sameLoad (s : State) (i : Image) (target : Nat) (all : List Byte) : State :=
  let s := readdress (arrayLoad s (1024 ≤ i.tile) i.tile target all) i.gen i.tile target
  let ts := i.threads.map (moveThread i.tile target)
  let back (s : State) (u : Thread) : State :=
    if u.launch.isSome && !launchLives s u then s.placeThread (vacatedSlot u) else weirBack (s.placeThread u) u
  ownTile (ts.foldl back s) target i.asid (coresBack s ts)

/-- A refused restore: its record goes to lane R of the target's die, with the tile of the image's header (R409). -/
def refuseRestore (s : State) (u target tile reason : Nat) : State :=
  (handAlone s (dieOf (tileCluster target)) (bareRecord s cRESTORE false (BitVec.ofNat 64 tile) (BitVec.ofNat 64 reason))).reply u
    (if reason = 4 ∨ reason = 7 ∧ (s.tile (fieldTile tile)).state ≠ .vacant then 2 else 1) []

/-- The tile field of an image's header as it stands in memory, its reserved bits ignored (R5, R399, R409). -/
def rawTile (s : State) (image : Word) : Nat := ofBytes ((readSpace s 0 (image.toNat + 12) 4).getD []) % 2 ^ 17

/-- A moved big tile takes the heavy instructions of its old cluster along; those of the cluster that it moves to are its own
again (R411). -/
def moveHub (s : State) (source target : Nat) : State :=
  if source < 1024 then s
  else
    let hubs := s.freeze.hubs.map (fun e => (e.1, if e.2 = source - 1024 then target - 1024 else e.2))
    let hubs := if source = target then hubs else Tbl.put hubs (source - 1024) (target - 1024)
    { s with freeze := { s.freeze with hubs := Tbl.del hubs (target - 1024) } }

/-- The forwarding entry that the shell of a tile takes for an image restored elsewhere, with what the image has left to be
answered: replies, loads and copies (R412). -/
def forwardOf (s : State) (gen target : Nat) (ts : List Thread) : Forward :=
  let mine (tid : Nat) : Bool := ts.any (fun t => t.tid == tid)
  { target := target, gen := gen, since := s.cycle
    ships := (s.ships.filter (fun x => mine x.tid && !x.cancelled)).map Ship.id
    loads := ts.flatMap (fun t => (t.busy.filter (fun b => b.why == .load)).map (fun b => (t.tid, b)))
    copies := s.hoists.flatMap (fun h => ((h.2.queue ++ h.2.channels.map (fun x => x.2.cmd)).filter (fun c => mine c.tid)).map
      (fun c => (c.tid, c.seq))) }

/-- RESTORE_LOADED (R405-R412): what RESTORE began is done, and the clock starts; an image that meets an error meanwhile is
refused (R409). -/
def execRestoreLoaded (tile : Nat) (s : State) : Out :=
  match (s.tile tile).loading with
  | none => .next s
  | some (image, _, u) => match readHeader s image with
    | none => .next (refuseRestore (s.mapTile tile (fun x => { x with loading := none })) u tile (rawTile s image) 1)
    | some h =>
      let old := s.freeze.images.find? (fun i => i.gen == h.gen)
      let frozenAt := (old.map Image.stamp).getD h.stamp
      let all := frameBytes s.mem ((spanFrames s image.toNat .read (imageSize h.tile / 65536)).getD [])
      let s := match old, decide (h.stepping = Config.stepping.toNat) with
        | some i, true => sameLoad s i tile all
        | _, true => archLoad s h none tile all
        | _, false => archLoad (dropJobs s h.tile) h old tile all
      let pond := (((s.freeze.images.find? (fun i => i.gen == h.gen)).map Image.pond).getD [])
      let marks := ((old.map Image.poison).getD []).map (moveKey h.tile tile)
      let s := { s with poison := marks.foldl (fun l k => insertAsc k l) s.poison }
      let s := moveHub s h.tile tile
      let s := if h.tile = tile then s
        else s.mapTile h.tile (fun x => { x with
          forwards := forwardOf s h.gen tile (((old.map Image.threads).getD []).map (moveThread h.tile tile)) :: x.forwards
          pond := x.pond.filter (fun e => !pond.contains e) })
      let shell := ((s.tile tile).pond.filter (fun e => !pond.contains e)).filter (fun e => lands s tile e.packet)
      .next ((startTile (retireGen s h.gen) tile (s.cycle - frozenAt) (pond ++ shell)).reply u 0 [])

/-- The next packet that a stopped tile's shell absorbs: one that it holds, a shipped reply, or a memory reply (R404). -/
def nextPacket (s : State) (tile : Nat) : Option Packet :=
  let x := s.tile tile
  match x.held with
  | p :: _ => some p
  | [] =>
    match s.ships.find? (fun k => k.replied && tileOf k.tid == tile &&
        !x.pond.any (fun e => e.packet == .reply k.id)) with
    | some k => some (.reply k.id)
    | none =>
      ((tileThreads s tile).find? (fun t =>
        (x.pond.filter (fun e => e.packet == .load t.tid)).length < (t.busy.filter (fun b => b.why == .load)).length)).map
        (fun t => .load t.tid)

/-- Copy notices of one slot are merged into one record (R404). -/
def mergeNotice (p : Packet) (e : PondEntry) : Option PondEntry :=
  match p, e.packet with
  | .copy t ends v, .copy u before w =>
    if t = u then some { e with packet := .copy t (before ++ ends) (max v w) } else none
  | _, _ => none
def absorb (pond : List PondEntry) (p : Packet) (now : Nat) : List PondEntry :=
  match pond.find? (fun e => (mergeNotice p e).isSome) with
  | some e => pond.map (fun x => if x = e then (mergeNotice p x).getD x else x)
  | none => pond ++ [{ packet := p, stamp := now }]

/-- The Pond records of a tile that stand in an image already; a later notice is a record of its own (R403, R404). -/
def pondSaved (s : State) (x : Tile) : Nat :=
  (s.freeze.images.filter (fun i => i.gen == x.gen)).foldl (fun n i => max n i.pond.length) 0

/-- POND_ABSORB (R404): a packet for a core whose tile is stopped enters its Pond. -/
def execPondAbsorb (tile : Nat) (s : State) : Out :=
  if tileTakes s tile then .next s
  else match nextPacket s tile with
    | none => .next s
    | some p =>
      let n := pondSaved s (s.tile tile)
      .next (s.mapTile tile (fun x => { x with held := x.held.drop (bitOf (x.held.head? == some p))
                                               pond := x.pond.take n ++ absorb (x.pond.drop n) p s.cycle }))

/-- Whether a packet in a tile's shell is for work that has been restored elsewhere (R412). -/
def goesOnward (s : State) (tile : Nat) (p : Packet) : Bool :=
  ((p.slot s).map (fun tid => tid < 2 ^ 20 && tileOf tid != tile)).getD false

/-- PACKET_FORWARD (R412): a shell sends on a packet that it holds for work restored elsewhere, absorbed ones first. -/
def execPacketForward (tile : Nat) (s : State) : Out :=
  let x := s.tile tile
  let go (p : Packet) (y : Tile) : State :=
    let target := ((p.slot s).map tileOf).getD tile
    let s := s.mapTile tile (fun _ => { y with
      forwards := y.forwards.map (fun f => if f.target = target then { f with since := s.cycle } else f) })
    if tileTakes s target then deliverPacket s p
    else s.mapTile target (fun z => { z with held := z.held ++ [p] })
  match x.pond.find? (fun e => goesOnward s tile e.packet), x.held.find? (goesOnward s tile) with
  | some e, _ => .next (go e.packet { x with pond := x.pond.erase e })
  | none, some p => .next (go p { x with held := x.held.erase p })
  | none, none => .next s

/-- Whether a shell has a packet to send on. -/
def hasOnward (s : State) (tile : Nat) : Bool :=
  ((s.tile tile).pond.map PondEntry.packet ++ (s.tile tile).held).any (goesOnward s tile)

/-- Whether a forwarding entry can be freed: all that its image listed is answered or cancelled, its copies have finished, and
it has been quiet for 65,536 cycles (R412). -/
def forwardDone (s : State) (tile : Nat) (f : Forward) : Bool :=
  let mine (tid seq : Nat) : Bool := f.copies.contains (tid, seq)
  decide (f.since + 65536 ≤ s.cycle) && !hasOnward s tile &&
  !s.ships.any (fun x => f.ships.contains x.id && !x.cancelled) &&
  f.loads.all (fun l => !(everyThread s).any (fun t => t.tid == l.1 && t.busy.any (fun b => b.reg == l.2.reg && b.gen == l.2.gen))) &&
  s.hoists.all (fun h => h.2.queue.all (fun c => !mine c.tid c.seq) && h.2.channels.all (fun x => !mine x.2.cmd.tid x.2.cmd.seq))

/-- FORWARD_ENTRY_FREE (R412). -/
def execForwardEntryFree (tile : Nat) (s : State) : Out :=
  match (s.tile tile).forwards.find? (forwardDone s tile) with
  | none => .next s
  | some f => .next (s.mapTile tile (fun x => { x with forwards := x.forwards.erase f }))

/-- DISCARD of an image: its parked chunks leave the Weir, its items are lost, and their launch ends ABORTED; the tile has
no work any more (R72, R395, R412, R421), and requests that its Penstock held are dropped with status 4 (R329, log 11:
DEDUCED, unsafe). -/
def discardImage (s : State) (i : Image) : State :=
  let x := s.tile i.tile
  let still := x.state != .vacant && x.gen == i.gen
  let gone := if still then (tileThreads s i.tile).filter (fun t => !t.super) else i.threads
  let ids := gone.map Thread.tid
  let launches := (gone.filterMap Thread.launch).foldl (fun l k => addOnce k l) []
  let drop (p : Packet) : Bool := ((p.slot s).map ids.contains).getD false
  let s := gone.foldl (fun s t => leaveBarriers s t.tid) s
  let s := { s with
    weir := { s.weir with parked := s.weir.parked.filter (fun k => !ids.contains (k / 2)) }
    ships := s.ships.map (fun k => if ids.contains k.tid then { k with cancelled := true } else k)
    freeze := { s.freeze with tiles := s.freeze.tiles.map (fun e => (e.1, { e.2 with
      held := e.2.held.filter (fun p => !drop p), pond := e.2.pond.filter (fun p => !drop p.packet)
      forwards := e.2.forwards.filter (fun f => !(f.loads.map Prod.fst ++ f.copies.map Prod.fst).any ids.contains) })) } }
  let s := ids.foldl dropPins s
  let s := if still then
      (let s := s.mapThreads (fun t => if tileOf t.tid = i.tile ∧ !t.super then vacatedSlot t else t)
       { s with work := { s.work with holds := s.work.holds.filter (fun e => coreTile e.1 != i.tile) } })
    else s
  let s := retireGen s i.gen
  let s := if 1024 ≤ i.tile && (still || x.state == .vacant) then
      { s with ships := s.ships.map (fun k =>
          if k.admitted && !k.replied && 1024 + k.cluster == i.tile then { k with replied := true, status := 4, chunk := none } else k) }
    else s
  let s := if still || (x.state == .vacant && x.gen == i.gen) then s.mapTile i.tile (fun x => { x with state := .running }) else s
  launches.foldl (fun s k => endLaunch s k 2) s

end Sys2Proof.Machine
end

