-- ==== Sys2Proof/Machine/HeavyFp.lean ====
section
/-! DEFINITION. Sys2Proof/Machine/HeavyFp.lean: the heavy scalar floating-point instructions (HOP and DFMA, R241). -/

namespace Sys2Proof.Machine

/-- A heavy scalar instruction of one, two or three operands. -/
def hop (i : Instr) (srcs : List (Fin 32)) (d : Fin 32) (z : Fin 8) (s : State) : Out :=
  heavy i (srcs.map Reg.g) (.g d) z 0 0 0 0 (s.rg (srcs.getD 0 0)) (s.rg (srcs.getD 1 0)) (s.rg (srcs.getD 2 0)) s

/-- DADD (R241). -/
def execDadd (d a b : Fin 32) (z : Fin 8) (s : State) : Out := hop (.dadd d a b z) [a, b] d z s

/-- DSUB (R241). -/
def execDsub (d a b : Fin 32) (z : Fin 8) (s : State) : Out := hop (.dsub d a b z) [a, b] d z s

/-- DMUL (R241). -/
def execDmul (d a b : Fin 32) (z : Fin 8) (s : State) : Out := hop (.dmul d a b z) [a, b] d z s

/-- DDIV (R241). -/
def execDdiv (d a b : Fin 32) (z : Fin 8) (s : State) : Out := hop (.ddiv d a b z) [a, b] d z s

/-- DMIN (R241). -/
def execDmin (d a b : Fin 32) (z : Fin 8) (s : State) : Out := hop (.dmin d a b z) [a, b] d z s

/-- DMAX (R241). -/
def execDmax (d a b : Fin 32) (z : Fin 8) (s : State) : Out := hop (.dmax d a b z) [a, b] d z s

/-- DCMP (R241). -/
def execDcmp (d a b : Fin 32) (z : Fin 8) (s : State) : Out := hop (.dcmp d a b z) [a, b] d z s

/-- FDIV (R241). -/
def execFdiv (d a b : Fin 32) (z : Fin 8) (s : State) : Out := hop (.fdiv d a b z) [a, b] d z s

/-- DSQRT (R241). -/
def execDsqrt (d a : Fin 32) (z : Fin 8) (s : State) : Out := hop (.dsqrt d a z) [a] d z s

/-- FEXP2 (R241). -/
def execFexp2 (d a : Fin 32) (z : Fin 8) (s : State) : Out := hop (.fexp2 d a z) [a] d z s

/-- FLOG2 (R241). -/
def execFlog2 (d a : Fin 32) (z : Fin 8) (s : State) : Out := hop (.flog2 d a z) [a] d z s

/-- FSIN (R241). -/
def execFsin (d a : Fin 32) (z : Fin 8) (s : State) : Out := hop (.fsin d a z) [a] d z s

/-- FCOS (R241). -/
def execFcos (d a : Fin 32) (z : Fin 8) (s : State) : Out := hop (.fcos d a z) [a] d z s

/-- FSQRT (R241). -/
def execFsqrt (d a : Fin 32) (z : Fin 8) (s : State) : Out := hop (.fsqrt d a z) [a] d z s

/-- DCVT (R239, R241). -/
def execDcvt (x y : Fin 8) (d a : Fin 32) (z : Fin 8) (s : State) : Out := hop (.dcvt x y d a z) [a] d z s

/-- DFMA (R233, R241). -/
def execDfma (c d a b : Fin 32) (z : Fin 8) (s : State) : Out := hop (.dfma c d a b z) [a, b, c] d z s

end Sys2Proof.Machine
end

