-- ==== Sys2Proof/Machine/Hoist.lean ====
section
/-! DEFINITION. Sys2Proof/Machine/Hoist.lean: the copy engine of a cluster (R287-R290, R307). -/

namespace Sys2Proof.Machine

/-- The state with a cluster's Hoist changed. -/
def State.mapHoist (s : State) (c : Nat) (f : Hoist → Hoist) : State :=
  { s with hoists := Tbl.put s.hoists c (f (s.hoist c)) }

/-- A channel that can start a copy: free, and holding no record that waits to be posted (R287, R383). -/
def freeChannel (h : Hoist) : Option Nat :=
  [0, 1, 2, 3].find? (fun k => (Tbl.find h.channels k).isNone && (Tbl.find h.records k).isNone)

/-- Whether a copy's ranges stand in the scoreboards, or have room there (R289). -/
def rangesFit (h : Hoist) (c : CopyCmd) : Bool :=
  h.ranges.any (fun r => r.tid == c.tid && r.seq == c.seq) || decide (h.ranges.length + (copyRanges c).length ≤ 16)

/-- HOIST_COPY_START (R287, R289). -/
def execHoistCopyStart (c : Nat) (s : State) : Out :=
  let h := s.hoist c
  match h.queue, freeChannel h with
  | cmd :: rest, some k =>
    if !rangesFit h cmd then .next s
    else
      let entered := h.ranges.any (fun r => r.tid == cmd.tid && r.seq == cmd.seq)
      .next (s.mapHoist c (fun h => { h with
        queue := rest
        channels := Tbl.put h.channels k { cmd := cmd, row := 0, off := 0, asked := false, got := none }
        ranges := if entered then h.ranges else h.ranges ++ copyRanges cmd }))
  | _, _ => .next s

/-- A copy ends: its channel is free, its ranges retire, and its slot is told (R287-R290). -/
def endCopy (s : State) (c ch : Nat) (cmd : CopyCmd) (failed : Bool) (v : Nat) : State :=
  let s := s.mapHoist c (fun h => { h with
    channels := Tbl.del h.channels ch
    ranges := h.ranges.filter (fun r => !(r.tid == cmd.tid && r.seq == cmd.seq)) })
  sendPacket s (tileOf cmd.tid) (.copy cmd.tid [(cmd.seq, failed)] v)

/-- A copy fails: the pieces done stay, and a record goes to lane R, held by its channel until it is posted (R290,
R383). -/
def failCopy (s : State) (c ch : Nat) (cmd : CopyCmd) (cause : Nat) (val val2 : Word) : State :=
  let r := { bareRecord s cause false val val2 with
    copy := true, pc := cmd.pc, tid := cmd.tid, asid := cmd.asid, launch := cmd.launch, cseq := BitVec.ofNat 64 (cmd.cv * 65536) }
  let s := handRecord s (dieOf c) r
  let s := releaseNodes s (agentId 4 (4 * c + ch)) false
  endCopy (s.mapHoist c (fun h => { h with records := Tbl.put h.records ch r })) c ch cmd true cmd.v

/-- The thread in whose name a copy's addresses are read. -/
def copyThread (cmd : CopyCmd) : Thread :=
  { Thread.fresh cmd.tid false with asid := cmd.asid, launch := cmd.launch }

/-- The place of one byte of a copy: the issuing core's own part, the issuing cluster's window, or a page (R307). -/
def copyLoc (s : State) (cmd : CopyCmd) (va : Word) (k : Access) : Chk Loc :=
  let a := va.toNat
  if ownBase ≤ a then .ok (ownLoc (copyThread cmd) (a - ownBase))
  else if cluBase ≤ a then .ok (cluLoc s (copyThread cmd) (a - cluBase))
  else if a / 2 ^ 52 ≠ 0 then .trap cPROT va 1
  else translate s cmd.asid a k

/-- The places of n bytes of a copy from an address on. -/
def copyLocs (s : State) (cmd : CopyCmd) (k : Access) (va : Word) : Nat → Chk (List Loc)
  | 0 => .ok []
  | n + 1 => (copyLoc s cmd va k).bind (fun l => (copyLocs s cmd k (va + 1) n).bind (fun ls => .ok (l :: ls)))

/-- Whether a copy's byte lies on a page that is irrevocable. -/
def copyIrrev (s : State) (cmd : CopyCmd) (va : Word) (k : Access) : Bool :=
  match copyLoc s cmd va k with
  | .ok l => l.irrev s
  | _ => false

/-- Source and destination addresses of a channel's next piece, and its length (R287, R305). Where it touches an irrevocable
page the piece is done line by line, a line's read at one point and its write at a later one: the size of its plain accesses
is the model's choice (R307, log 9: DESIGN CHOICE, safe). -/
def pieceOf (s : State) (x : Channel) : Word × Word × Nat :=
  let c := x.cmd
  let src := c.src + BitVec.ofNat 64 (x.row * c.sstride.toNat + x.off)
  let dst := c.dst + BitVec.ofNat 64 (x.row * c.dstride.toNat + x.off)
  let n := min (c.len - x.off) (4096 - dst.toNat % 4096)
  let n := if c.fill then n else min n (4096 - src.toNat % 4096)
  let plain := copyIrrev s c dst .write || (!c.fill && copyIrrev s c src .read)
  (src, dst, if plain then min n (min (128 - dst.toNat % 128) (if c.fill then n else 128 - src.toNat % 128)) else n)

/-- The channel after a piece; none: the copy is whole. -/
def nextPiece (x : Channel) (n v : Nat) : Option Channel :=
  let x := { x with cmd := { x.cmd with v := v }, off := x.off + n, asked := false, got := none }
  if x.off < x.cmd.len then some x
  else if x.row + 1 < x.cmd.rows then some { x with row := x.row + 1, off := 0 } else none

/-- Poison marks travel with a copy's bytes (R415). -/
def copyPoison (s : State) (srcs dsts : List Loc) : State :=
  (srcs.zip dsts).foldl (fun s e => if poisoned s e.1 1 then markPoison s e.2.key else s) s

/-- The bytes of a piece: zeros, the committed bytes, or what a peer has answered. -/
def pieceBytes (s : State) (x : Channel) (n : Nat) (srcs : List Loc) : List Byte :=
  if x.cmd.fill then List.replicate n 0
  else match x.got with
    | some g => (List.range n).map (fun k => g.2.getD k 0)
    | none => srcs.map (fun l => Memory.get s.mem l.key)

/-- Whether a place of a copy lies in an array that takes no access now: its tile's clock is stopped, or the issuing slot's
work is in an image (R311, R404). -/
def arrayStopped (s : State) (cmd : CopyCmd) (l : Loc) : Bool :=
  2 ^ 40 ≤ l.key && l.key < 2 ^ 40 + 8256 * 2 ^ 21 &&
  (decide (2 ^ 20 ≤ cmd.tid) || tileFrozen s (coreTile ((l.key - 2 ^ 40) / 2 ^ 21)))

/-- The nodes of places, in ascending order. -/
def locNodes (ls : List Loc) : List Nat := ls.foldl (fun l p => insertAsc p.node l) []

/-- A plain read of a piece that touches an irrevocable page has been done: its write is an access of its own (R307). -/
def readPiece (s : State) (c ch : Nat) (x : Channel) (bs : List Byte) : State :=
  s.mapHoist c (fun h => { h with channels := Tbl.put h.channels ch { x with got := some (0, bs) } })

/-- The writes of a piece leave: bytes for the host as posted writes of its lines, bytes for a peer in one access (R338, R340). -/
def pieceLeaves (s : State) (x : Channel) (dst : Word) (bs : List Byte) (dsts : List Loc) (cells : List Host.Cell) : State :=
  let host := (dsts.filter (fun l => l.onHost false || (!s.links.cxl && l.onHost true))).foldl (fun l p => addOnce (p.key / 128) l) []
  let out := host.map (hostWriteOf s x.cmd.tid x.cmd.asid true cells)
  let s := { s with links := { s.links with hostWrites := s.links.hostWrites ++ out } }
  match dsts.head?.bind Loc.peer with
  | none => s
  | some (d, o) =>
    s.toPeer {
        tid := x.cmd.tid, asid := x.cmd.asid, dev := d, off := o, va := dst, pc := x.cmd.pc,
        act := .write (cellsAt 0 bs), since := s.cycle, v := x.cmd.cv, launch := x.cmd.launch, copy := true }

/-- Performs a piece whose bytes are at hand as one point, once its nodes are free and no array that it touches is stopped;
one on an irrevocable page reads first and writes in an access after it, but for a poisoned source, whose mark goes along
(R287, R307, R337, R415). -/
def doPiece (s : State) (c ch : Nat) (x : Channel) (src dst : Word) (n : Nat) (srcs dsts : List Loc) : State :=
  let agent := agentId 4 (4 * c + ch)
  let plain := copyIrrev s x.cmd dst .write || (!x.cmd.fill && copyIrrev s x.cmd src .read)
  let split := plain && !x.cmd.fill && x.got.isNone && !srcs.any (fun l => poisoned s l 1)
  let from' := if x.got.isSome then [] else srcs
  let nodes := locNodes (if split then from' else from' ++ dsts)
  if (from' ++ dsts).any (arrayStopped s x.cmd) || from'.any (fun l => s.weir.heldCounts.contains l.line) then s
  else if !agentFree s agent nodes then agentWait s agent nodes
  else
    let bs := pieceBytes s x n srcs
    if split then readPiece (releaseNodes s agent false) c ch x bs
    else
      let cells := ((dsts.zip bs).filter (fun e => e.1.peer.isNone)).map (fun e => (e.1.key, e.2))
      let s := pieceLeaves s x dst bs dsts cells
      let r := agentPoint s agent x.cmd.v nodes x.cmd.asid cells
        ((dsts.filter (fun l => l.peer.isNone)).foldl (fun l p => addOnce p.line l) [])
      let s := if x.got.isSome || x.cmd.fill then r.1 else copyPoison r.1 srcs dsts
      let s := (x.cmd.launch.map (fun k => s.mapLaunch k (fun l => { l with lastV := max l.lastV r.2 }))).getD s
      match nextPiece x n r.2 with
      | some y => s.mapHoist c (fun h => { h with channels := Tbl.put h.channels ch y })
      | none => endCopy s c ch x.cmd false r.2

/-- HOIST_PIECE (R287, R290, R307). -/
def execHoistPiece (c : Nat) (ch : Fin 4) (s : State) : Out :=
  match Tbl.find (s.hoist c).channels ch.val with
  | none => .next s
  | some x =>
    let p := pieceOf s x
    match copyLocs s x.cmd .read p.1 (if x.cmd.fill then 0 else p.2.2), copyLocs s x.cmd .write p.2.1 p.2.2 with
    | .nomem a, _ => .fault (.noMemory a)
    | .trap k v w, _ => .next (failCopy s c ch.val x.cmd k v w)
    | _, .nomem a => .fault (.noMemory a)
    | _, .trap k v w => .next (failCopy s c ch.val x.cmd k v w)
    | .ok srcs, .ok dsts =>
      match srcs.head?.bind Loc.peer, x.got with
      | some (d, o), none =>
        if x.asked then .next s
        else
          let s := s.mapHoist c (fun h => { h with channels := Tbl.put h.channels ch.val { x with asked := true } })
          .next (s.toPeer {
              tid := x.cmd.tid, asid := x.cmd.asid, dev := d, off := o, va := p.1, pc := x.cmd.pc,
              act := .fetch c ch.val p.2.2, since := s.cycle, v := x.cmd.cv, launch := x.cmd.launch, copy := true })
      | _, some (st, bs) =>
        if st ≠ 0 then .next (failCopy s c ch.val x.cmd cPEER p.1 (BitVec.ofNat 64 st))
        else .next (doPiece s c ch.val { x with got := some (0, bs) } p.1 p.2.1 p.2.2 srcs dsts)
      | none, none => .next (doPiece s c ch.val x p.1 p.2.1 p.2.2 srcs dsts)

end Sys2Proof.Machine
end

