-- ==== Sys2Proof/Machine/Int.lean ====
section
/-! DEFINITION. Sys2Proof/Machine/Int.lean: the integer, select, immediate, compare, predicate and extension-register
instructions (R188-R197, R203) and the 16-bit forms of those that have one (R146, R147). -/

namespace Sys2Proof.Machine

/-- ADD (R190), latency 2. -/
def execAdd (w : Bool) (d a b : Fin 32) (z : Fin 8) (s : State) : Out :=
  binG 4 2 (wide2 aluAdd w) d a b z s

/-- SUB (R190), latency 2. -/
def execSub (w : Bool) (d a b : Fin 32) (z : Fin 8) (s : State) : Out :=
  binG 4 2 (wide2 aluSub w) d a b z s

/-- MUL (R190), latency 4. -/
def execMul (w : Bool) (d a b : Fin 32) (z : Fin 8) (s : State) : Out :=
  binG 4 4 (wide2 aluMul w) d a b z s

/-- MULH (R190), latency 4. -/
def execMulh (w : Bool) (d a b : Fin 32) (z : Fin 8) (s : State) : Out :=
  binG 4 4 (wide2 aluMulh w) d a b z s

/-- MULHZ (R190), latency 4. -/
def execMulhz (w : Bool) (d a b : Fin 32) (z : Fin 8) (s : State) : Out :=
  binG 4 4 (wide2 aluMulhz w) d a b z s

/-- DIV (R190), scoreboarded. -/
def execDiv (w : Bool) (d a b : Fin 32) (z : Fin 8) (s : State) : Out :=
  slowG (wide2 aluDiv w) d a b z s

/-- DIVZ (R190), scoreboarded. -/
def execDivz (w : Bool) (d a b : Fin 32) (z : Fin 8) (s : State) : Out :=
  slowG (wide2 aluDivz w) d a b z s

/-- REM (R190), scoreboarded. -/
def execRem (w : Bool) (d a b : Fin 32) (z : Fin 8) (s : State) : Out :=
  slowG (wide2 aluRem w) d a b z s

/-- REMZ (R190), scoreboarded. -/
def execRemz (w : Bool) (d a b : Fin 32) (z : Fin 8) (s : State) : Out :=
  slowG (wide2 aluRemz w) d a b z s

/-- AND (R190), latency 2. -/
def execAnd (w : Bool) (d a b : Fin 32) (z : Fin 8) (s : State) : Out :=
  binG 4 2 (wide2 aluAnd w) d a b z s

/-- OR (R190), latency 2. -/
def execOr (w : Bool) (d a b : Fin 32) (z : Fin 8) (s : State) : Out :=
  binG 4 2 (wide2 aluOr w) d a b z s

/-- XOR (R190), latency 2. -/
def execXor (w : Bool) (d a b : Fin 32) (z : Fin 8) (s : State) : Out :=
  binG 4 2 (wide2 aluXor w) d a b z s

/-- ANDN (R190), latency 2. -/
def execAndn (w : Bool) (d a b : Fin 32) (z : Fin 8) (s : State) : Out :=
  binG 4 2 (wide2 aluAndn w) d a b z s

/-- SHL (R190), latency 2. -/
def execShl (w : Bool) (d a b : Fin 32) (z : Fin 8) (s : State) : Out :=
  binG 4 2 (wide2 aluShl w) d a b z s

/-- SHR (R190), latency 2. -/
def execShr (w : Bool) (d a b : Fin 32) (z : Fin 8) (s : State) : Out :=
  binG 4 2 (wide2 aluShr w) d a b z s

/-- SHA (R190), latency 2. -/
def execSha (w : Bool) (d a b : Fin 32) (z : Fin 8) (s : State) : Out :=
  binG 4 2 (wide2 aluSha w) d a b z s

/-- MIN (R190), latency 2. -/
def execMin (w : Bool) (d a b : Fin 32) (z : Fin 8) (s : State) : Out :=
  binG 4 2 (wide2 aluMin w) d a b z s

/-- MAX (R190), latency 2. -/
def execMax (w : Bool) (d a b : Fin 32) (z : Fin 8) (s : State) : Out :=
  binG 4 2 (wide2 aluMax w) d a b z s

/-- MINZ (R190), latency 2. -/
def execMinz (w : Bool) (d a b : Fin 32) (z : Fin 8) (s : State) : Out :=
  binG 4 2 (wide2 aluMinz w) d a b z s

/-- MAXZ (R190), latency 2. -/
def execMaxz (w : Bool) (d a b : Fin 32) (z : Fin 8) (s : State) : Out :=
  binG 4 2 (wide2 aluMaxz w) d a b z s

/-- CLZ (R190). -/
def execClz (w : Bool) (d a : Fin 32) (z : Fin 8) (s : State) : Out :=
  unG 4 (fun x => wide2 aluClz w x 0) d a z s

/-- CTZ (R190). -/
def execCtz (w : Bool) (d a : Fin 32) (z : Fin 8) (s : State) : Out :=
  unG 4 (fun x => wide2 aluCtz w x 0) d a z s

/-- POPC (R190). -/
def execPopc (w : Bool) (d a : Fin 32) (z : Fin 8) (s : State) : Out :=
  unG 4 (fun x => wide2 aluPopc w x 0) d a z s

/-- ABS (R190). -/
def execAbs (w : Bool) (d a : Fin 32) (z : Fin 8) (s : State) : Out :=
  unG 4 (fun x => wide2 aluAbs w x 0) d a z s

/-- EXTB (R191). -/
def execExtb (w : Bool) (d a b : Fin 32) (z : Fin 8) (s : State) : Out :=
  binG 4 2 (fun x y => wide2 (fun n u _ => aluExtb n y u) w x 0) d a b z s

/-- INSB (R191): gd is read too. -/
def execInsb (w : Bool) (d a b : Fin 32) (z : Fin 8) (s : State) : Out :=
  s.check [.g a, .g b, .g d] (.next (s.done 4 z (s.cur.putG s.cycle 2 d
    (wide2 (fun n u v => aluInsb n (s.rg b) u v) w (s.rg a) (s.rg d)))))

/-- SEL (R193). -/
def execSel (p : Fin 8) (d a b : Fin 32) (z : Fin 8) (s : State) : Out :=
  s.check [.p p, .g a, .g b] (.next (s.done 4 z (s.cur.putG s.cycle 2 d
    (if (s.rp p).getLsbD 0 then s.rg a else s.rg b))))

/-- LEA (R193). -/
def execLea (h : Fin 8) (d a b : Fin 32) (z : Fin 8) (s : State) : Out :=
  binG 4 2 (fun x y => x + (y <<< h.val)) d a b z s

/-- ADDI (R194). -/
def execAddi (d a : Fin 32) (i : BitVec 12) (z : Fin 8) (s : State) : Out :=
  unG 4 (fun x => x + i.signExtend 64) d a z s

/-- ANDI (R194). -/
def execAndi (d a : Fin 32) (i : BitVec 12) (z : Fin 8) (s : State) : Out :=
  unG 4 (fun x => x &&& i.signExtend 64) d a z s

/-- ORI (R194). -/
def execOri (d a : Fin 32) (i : BitVec 12) (z : Fin 8) (s : State) : Out :=
  unG 4 (fun x => x ||| i.signExtend 64) d a z s

/-- XORI (R194). -/
def execXori (d a : Fin 32) (i : BitVec 12) (z : Fin 8) (s : State) : Out :=
  unG 4 (fun x => x ^^^ i.signExtend 64) d a z s

/-- SHLI (R194). -/
def execShli (n : BitVec 6) (d a : Fin 32) (z : Fin 8) (s : State) : Out :=
  unG 4 (fun x => x <<< n.toNat) d a z s

/-- SHRI (R194). -/
def execShri (n : BitVec 6) (d a : Fin 32) (z : Fin 8) (s : State) : Out :=
  unG 4 (fun x => x >>> n.toNat) d a z s

/-- SHAI (R194). -/
def execShai (n : BitVec 6) (d a : Fin 32) (z : Fin 8) (s : State) : Out :=
  unG 4 (fun x => x.sshiftRight n.toNat) d a z s

/-- LI (R135, R195). -/
def execLi (d : Fin 32) (i : BitVec 17) (z : Fin 8) (s : State) : Out :=
  .next (s.done 4 z (s.cur.putG s.cycle 2 d (i.signExtend 64)))

/-- LIH (R135, R195): gd is read. -/
def execLih (d : Fin 32) (i : BitVec 17) (z : Fin 8) (s : State) : Out :=
  unG 4 (fun x => (x <<< 17) ||| i.setWidth 64) d d z s

/-- CMP (R196). -/
def execCmp (w : Bool) (c p : Fin 8) (a b : Fin 32) (z : Fin 8) (s : State) : Out :=
  let x := s.rg a
  let y := s.rg b
  let r := if w then condHolds c.val (x.setWidth 32) (y.setWidth 32) else condHolds c.val x y
  s.check [.g a, .g b] (.next (s.done 4 z (s.cur.putP s.cycle 2 p (predAll r))))

/-- CMPI (R196). -/
def execCmpi (c p : Fin 8) (a : Fin 32) (i : BitVec 9) (z : Fin 8) (s : State) : Out :=
  s.check [.g a] (.next (s.done 4 z (s.cur.putP s.cycle 2 p
    (predAll (condHolds c.val (s.rg a) (i.signExtend 64))))))

/-- PAND (R197). -/
def execPand (d a b : Fin 8) (z : Fin 8) (s : State) : Out := binP (fun x y => x &&& y) d a b z s

/-- POR (R197). -/
def execPor (d a b : Fin 8) (z : Fin 8) (s : State) : Out := binP (fun x y => x ||| y) d a b z s

/-- PXOR (R197). -/
def execPxor (d a b : Fin 8) (z : Fin 8) (s : State) : Out := binP (fun x y => x ^^^ y) d a b z s

/-- PNOT (R197). -/
def execPnot (d a : Fin 8) (z : Fin 8) (s : State) : Out :=
  s.check [.p a] (.next (s.done 4 z (s.cur.putP s.cycle 2 d (~~~s.rp a))))

/-- PGET (R197). -/
def execPget (d : Fin 32) (a : Fin 8) (z : Fin 8) (s : State) : Out :=
  s.check [.p a] (.next (s.done 4 z (s.cur.putG s.cycle 2 d ((s.rp a).setWidth 64))))

/-- PPUT (R197). -/
def execPput (d : Fin 8) (a : Fin 32) (z : Fin 8) (s : State) : Out :=
  s.check [.g a] (.next (s.done 4 z (s.cur.putP s.cycle 2 d ((s.rg a).setWidth 16))))

/-- PCNT (R197). -/
def execPcnt (d : Fin 32) (a : Fin 8) (z : Fin 8) (s : State) : Out :=
  s.check [.p a] (.next (s.done 4 z (s.cur.putG s.cycle 2 d (BitVec.ofNat 64 (popcOf 16 (s.rp a))))))

/-- EXT (R203). -/
def execExt (d : Fin 8) (a : Fin 32) (z : Fin 8) (s : State) : Out :=
  s.check [.g a] (.next (s.done 4 z (s.cur.putE s.cycle 2 d (s.rg a))))

/-- EXTGET (R203). -/
def execExtget (d : Fin 32) (a : Fin 8) (z : Fin 8) (s : State) : Out :=
  s.check [.e a] (.next (s.done 4 z (s.cur.putG s.cycle 2 d (s.re a))))

/-- EXTI (R135, R203): ed is read. -/
def execExti (d : Fin 8) (i : BitVec 17) (z : Fin 8) (s : State) : Out :=
  s.check [.e d] (.next (s.done 4 z (s.cur.putE s.cycle 2 d ((s.re d <<< 17) ||| i.setWidth 64))))

/-- ADD.C (R146). -/
def execAddC (d a b : Fin 8) (s : State) : Out :=
  binG 2 2 (wide2 aluAdd false) (r8 d) (r8 a) (r8 b) 0 s

/-- SUB.C (R146). -/
def execSubC (d a b : Fin 8) (s : State) : Out :=
  binG 2 2 (wide2 aluSub false) (r8 d) (r8 a) (r8 b) 0 s

/-- AND.C (R146). -/
def execAndC (d a b : Fin 8) (s : State) : Out :=
  binG 2 2 (wide2 aluAnd false) (r8 d) (r8 a) (r8 b) 0 s

/-- OR.C (R146). -/
def execOrC (d a b : Fin 8) (s : State) : Out :=
  binG 2 2 (wide2 aluOr false) (r8 d) (r8 a) (r8 b) 0 s

/-- ADDI.C (R146). -/
def execAddiC (d a : Fin 8) (i : BitVec 5) (s : State) : Out :=
  unG 2 (fun x => x + i.signExtend 64) (r8 d) (r8 a) 0 s

/-- SHLI.C (R146). -/
def execShliC (n : BitVec 5) (d a : Fin 8) (s : State) : Out :=
  unG 2 (fun x => x <<< n.toNat) (r8 d) (r8 a) 0 s

/-- SHRI.C (R146). -/
def execShriC (n : BitVec 5) (d a : Fin 8) (s : State) : Out :=
  unG 2 (fun x => x >>> n.toNat) (r8 d) (r8 a) 0 s

/-- SHAI.C (R146). -/
def execShaiC (n : BitVec 5) (d a : Fin 8) (s : State) : Out :=
  unG 2 (fun x => x.sshiftRight n.toNat) (r8 d) (r8 a) 0 s

/-- LI.C (R146). -/
def execLiC (d : Fin 8) (i : BitVec 8) (s : State) : Out :=
  .next (s.done 2 0 (s.cur.putG s.cycle 2 (r8 d) (i.signExtend 64)))

end Sys2Proof.Machine
end

