-- ==== Sys2Proof/Machine/Trail.lean ====
section
/-! DEFINITION. Sys2Proof/Machine/Trail.lean: wakes and releases of waiting threads (R353, R366, R367, R428, R434), the
Tailrace (R380-R384), the watchdog (R375), and uncorrectable errors (R413-R415). -/

namespace Sys2Proof.Machine

/-- BARRIER_RELEASE (R366): the barrier at a place of the list. -/
def execBarrierRelease (k : Nat) (s : State) : Out := .next (releaseBarrier s k)

/-- A sleeper of WAITV wakes with a result; where the line has been written since the watch began it is that wake, and joins the
write (R339, R367). -/
def wakeWatch (s : State) (t : Thread) (r : Nat) : State :=
  match t.wait with
  | .waitv line node seen _ =>
    let wrote := r ≤ 1 && touchedSince s line seen
    s.setThread { t with wait := .none, lastV := if wrote then max t.lastV (writerV s line node) else t.lastV
                         ex := { t.ex with answer := some (if wrote then 0 else r, 0) } }
  | _ => s

/-- WAITV_WAKE (R367): the node may also wake the thread without a write. -/
def execWaitvWake (tid : Nat) (s : State) : Out :=
  match s.thread tid with
  | none => .next s
  | some t => if tileFrozen s (tileOf tid) then .next s else .next (wakeWatch s t 0)

/-- Whether a sleeper's WAITTO cycles have passed (R367). -/
def watchOver (s : State) (t : Thread) : Bool :=
  match t.wait with
  | .waitv _ _ _ due => decide (due ≤ s.cycle) && !tileFrozen s (tileOf t.tid)
  | _ => false

/-- WAITV_TIMEOUT (R367). -/
def execWaitvTimeout (tid : Nat) (s : State) : Out :=
  match s.thread tid with
  | none => .next s
  | some t => if watchOver s t then .next (wakeWatch s t 1) else .next s

/-- The 64 bytes of a trap record (R384). -/
def recBytes (r : Rec) : List Byte := (recWords r).flatMap (fun w => bytesOf 8 w.toNat)

/-- Wakes the supervisor slot of a die, or leaves it the wake-pending bit (R369). -/
def wakeSuper (s : State) (die : Nat) : State :=
  match s.thread (superTid die) with
  | none => s
  | some t => s.setThread { t with wakePending := true, wait := if t.wait = .sleep then .none else t.wait }

/-- Raises vector 1 for a lane H record, once (R424). -/
def alertFor (s : State) (r : Rec) : State := if r.alerted then s else raiseVector s (ownerOf s r.asid) 1

/-- Whether two records are the same one, alerted or not. -/
def Rec.same (a b : Rec) : Bool := { a with alerted := false } == { b with alerted := false }

/-- A change of every thread, in a slot or in the image of a vacated tile. -/
def State.mapEvery (s : State) (f : Thread → Thread) : State :=
  let s := s.mapThreads f
  { s with freeze := { s.freeze with images := s.freeze.images.map (fun i => { i with threads := i.threads.map f }) } }

/-- What follows a record's post: its thread can be selected, its launch counts it, a channel is free again, and the
supervisor wakes (R53, R369, R382, R383). -/
def afterPost (s : State) (d : Nat) (r : Rec) : State :=
  let s := if r.laneH then alertFor s r else s
  let s := match r.launch with
    | some l => if r.cause = cLOCK ∨ r.cause = cRESTORE then s else s.mapLaunch l (fun x => { x with traps := x.traps + 1 })
    | none => s
  let s := s.mapEvery (fun t => if t.trap.any r.same ∧ !r.nopark ∧ t.place = .parked then { t with posted := true } else t)
  let s := (r.holder.map (handNext s)).getD s
  let s := { s with hoists := s.hoists.map (fun e => (e.1, { e.2 with records := e.2.records.filter (fun x => x.2 != r) })) }
  wakeSuper s d

/-- The word `wait` of a control block (R380). -/
def waitWord (h r : Nat) : Nat := r % 65536 + h % 65536 * 65536

/-- The post of one record into lane H or R of a die's rings, with its tail and the counts of waiting records, as one
point, once its nodes are free; none: no free slot (R337, R380-R382). -/
def postRecord (s : State) (d : Nat) (laneH : Bool) (r : Rec) : Option State :=
  let x := s.tail d
  match x.block with
  | none => none
  | some blk =>
    let n := if laneH then x.postedH else x.postedR
    let cap := if laneH then 256 else 4096
    let base := (if laneH then x.hbase else x.rbase).toNat
    match readSpace s 0 (blk.toNat + (if laneH then 24 else 8)) 8 with
    | none => none
    | some hd =>
      let head := min (ofBytes hd) n
      if cap ≤ n - head then none
      else
        let h := x.waitH.length - bitOf laneH
        let w := x.waitR.length - bitOf (!laneH)
        match placeCells s 0 .write (base + n % cap * 64) (recBytes r),
            placeCells s 0 .write (blk.toNat + (if laneH then 16 else 0)) (bytesOf 8 (n + 1)),
            placeCells s 0 .write (blk.toNat + 48) (bytesOf 8 (waitWord h w)) with
        | some a, some b, some c =>
          let cs := a ++ b ++ c
          let agent := agentId 5 (2 * d + bitOf laneH)
          if !agentFree s agent (nodesOf cs) then some (agentWait s agent (nodesOf cs))
          else
            let v := (((everyThread s).find? (fun t => t.trap.any r.same || t.tid == r.tid)).map Thread.lastV).getD 0
            let s := writePlaced s agent v 0 cs
            let x := if laneH then { x with waitH := x.waitH.drop 1, postedH := n + 1 }
                     else { x with waitR := x.waitR.drop 1, postedR := n + 1 }
            some (afterPost { s with tails := Tbl.put s.tails d x } d r)
        | _, _, _ => none

/-- Records that cannot be posted yet wait: `wait` counts them, and one of lane H raises its vector (R382). -/
def keepWaiting (s : State) (d : Nat) : State :=
  let x := s.tail d
  let s := x.waitH.foldl alertFor s
  let s := { s with tails := Tbl.put s.tails d { x with waitH := x.waitH.map (fun r => { r with alerted := true }) } }
  match x.block with
  | none => s
  | some blk =>
    let bs := bytesOf 8 (waitWord x.waitH.length x.waitR.length)
    match placeCells s 0 .write (blk.toNat + 48) bs with
    | none => s
    | some cs =>
      if cs.all (fun e => Memory.get s.mem e.1.1 == e.1.2) then s
      else if !agentFree s (agentId 5 (8 + d)) (nodesOf cs) then agentWait s (agentId 5 (8 + d)) (nodesOf cs)
      else writePlaced s (agentId 5 (8 + d)) 0 0 cs

/-- TAILRACE_POST (R381, R382): lane H first. -/
def execTailracePost (d : Nat) (s : State) : Out :=
  let x := s.tail d
  match x.waitH, x.waitR with
  | r :: _, _ => .next ((postRecord s d true r).getD (keepWaiting (releaseNodes s (agentId 5 (2 * d + 1)) false) d))
  | [], r :: _ => .next ((postRecord s d false r).getD (keepWaiting (releaseNodes s (agentId 5 (2 * d)) false) d))
  | [], [] => .next s

/-- A FENCE with system scope goes on when the last of its thread's writes has been acknowledged (R340). -/
def endFence (s : State) (tid : Nat) : State :=
  match s.thread tid with
  | none => s
  | some t => if t.wait = .fence ∧ writesAcked s tid then s.setThread { t with wait := .none } else s

/-- A record of an operation that failed after its chunk had committed (R353, R383, R384, R434). -/
def lateRecord (s : State) (cause tid asid v : Nat) (launch : Option Nat) (pc va val2 : Word) : State :=
  handAlone s (dieOf (clusterOf tid)) { bareRecord s cause false va val2 with
    pc := pc, tid := tid, asid := asid, launch := launch, cseq := BitVec.ofNat 64 (v * 65536) }

/-- The shipped 128-bit atomic of a thread whose AtomicOp the host has not answered (R353, R357). -/
def askedShip (s : State) (tid : Nat) : Option Ship :=
  s.ships.find? (fun x => x.tid == tid && x.asked && x.hostOk.isNone && !x.replied)

/-- HOST_ATOMIC_COMPLETION (R353, R354, R428), with the value that it carries: the AtomicOp that a thread waits for, itself or
at a big core, or else the oldest FetchAdd of its REDs. None says that it has failed: a FetchAdd is taken back and leaves a
record (R383). -/
def execHostAtomicCompletion (tid : Nat) (val : Option (BitVec 128)) (s : State) : Out :=
  match s.thread tid with
  | none => .next s
  | some t =>
    if t.wait = .host ∧ !tileFrozen s (tileOf tid) then
      .next (s.setThread { t with wait := .none, ex := { t.ex with answer := some (bitOf val.isNone, 0), lanes := [(val.getD 0).toNat] } })
    else match askedShip s tid, s.links.hostAdds.find? (fun h => h.tid == tid) with
      | some x, _ => .next (s.mapShip x.id (fun x => { x with hostOk := some val.isSome, hostVal := val.getD 0 }))
      | none, none => .next s
      | none, some h =>
        let s := { s with links := { s.links with hostAdds := s.links.hostAdds.erase h } }
        let s := if val.isSome then s
          else lateRecord { s with mem := addNum s.mem h.key h.size (2 ^ (8 * h.size) - h.x.toNat % 2 ^ (8 * h.size)) }
            cHAOP tid h.asid h.v h.launch h.pc h.va 0
        .next (endFence s tid)

/-- The bytes of a peer's answer enter the chunk of one that waits for them, and the thread goes on with the last
(R338). -/
def takeOutside (s : State) (t : Thread) (key n : Nat) (data : List Byte) : State :=
  let more := s.links.peerOut.any (fun m => m.tid == t.tid && (match m.act with
    | .read .. => true
    | _ => false))
  let out := (List.range n).foldl (fun b k => bufSet b (key + k) (data.getD k 0)) t.ex.outside
  s.setThread { t with wait := if more then t.wait else .none, ex := { t.ex with outside := out } }

/-- The answer to an access, its status 0 or an error (R434). -/
def answerPeer (s : State) (m : PeerMsg) (status : Nat) (data : List Byte) : State :=
  let s := { s with links := { s.links with peerOut := s.links.peerOut.erase m } }
  match m.act with
  | .fetch c ch n =>
    s.mapHoist c (fun h => match Tbl.find h.channels ch with
      | none => h
      | some x => { h with channels := Tbl.put h.channels ch { x with got := some (status, data.take n) } })
  | .read n _ => (match s.thread m.tid with
    | none => s
    | some t =>
      if t.wait ≠ .peer then s
      else if status = 0 then takeOutside s t (2 ^ 60 + m.dev * 2 ^ 48 + m.off) n data
      else
        let s := { s with links := { s.links with peerOut := s.links.peerOut.filter (fun x =>
          !(x.tid == m.tid && (match x.act with
            | .read .. => true
            | _ => false))) } }
        s.setThread { t with wait := .none, ex := { t.ex with answer := some (status, m.va) } })
  | _ =>
    let s := if status = 0 then s else lateRecord s cPEER m.tid m.asid m.v m.launch m.pc m.va (BitVec.ofNat 64 status)
    endFence s m.tid

/-- The oldest access of a thread to a peer device that can be answered now: a frozen tile takes no reply. -/
def peerHead (s : State) (tid : Nat) : Option PeerMsg :=
  s.links.peerOut.find? (fun m => m.tid == tid && (match m.act with
    | .read .. => !tileFrozen s (tileOf tid)
    | _ => true))

/-- PEER_RESPONSE (R434). -/
def execPeerResponse (tid : Nat) (status : Fin 8) (data : List (BitVec 8)) (s : State) : Out :=
  match peerHead s tid with
  | none => .next s
  | some m => .next (answerPeer s m status.val data)

/-- PEER_TIMEOUT (R434): 2^20 cycles without an answer are status 6. -/
def execPeerTimeout (tid : Nat) (s : State) : Out :=
  match peerHead s tid with
  | none => .next s
  | some m => if m.since + 2 ^ 20 ≤ s.cycle then .next (answerPeer s m 6 []) else .next s

/-- Whether a Weir node is that of a core whose tile is frozen. -/
def nodeFrozen (s : State) (k : Nat) : Bool := 256 ≤ k && tileFrozen s (coreTile (k - 256))

/-- What the watchdog finds for a thread: an unanswered reply slot, or a commit with its number, outstanding for 2^20 cycles while
neither tile concerned is frozen: TRVAL2 of its record (R375). -/
def watchdogFinds (s : State) (t : Thread) (commit : Bool) : Option Nat :=
  if tileFrozen s (tileOf t.tid) then none
  else if commit then
    t.com.bind (fun c => if c.phase = .numbered ∧ c.since + 2 ^ 20 ≤ s.cycle ∧ !nodeFrozen s (c.num % 65536) then some (c.num % 65536)
      else none)
  else
    (s.ships.find? (fun x => x.tid == t.tid && !tileFrozen s (1024 + x.cluster) && decide (x.since + 2 ^ 20 ≤ s.cycle))).map
      Ship.sid

/-- WATCHDOG_EXPIRY (R375): the thread parks at its checkpoint with a record on lane H. -/
def execWatchdogExpiry (tid : Nat) (commit : Bool) (s : State) : Out :=
  match s.thread tid with
  | none => .next s
  | some t =>
    match watchdogFinds s t commit with
    | none => .next s
    | some n =>
      if t.place ≠ .run then .next s
      else if t.inBody then .next (squash s tid false 7)
      else
        let older := (t.com.map Chunk.phase) == some .ended
        let s := cancelShips (if older || t.com.isNone then dropPins s tid else s) tid
          (t.ex.gen :: (if older then (t.com.map Chunk.gen).toList else []))
        let t := rollThread t older s.cycle
        .next (parkWith s t t.r.pc (recordOf s t cWDOG t.r.pc (if commit then 2 else 1) (BitVec.ofNat 64 n)))

/-- The die of a memory key: that whose near or far memory holds a device address, or the core of a local array (R273, R438). -/
def memoryDie (key : Nat) : Nat :=
  if key < 0x400000000 then key / 2 ^ 32 else if key < 2 ^ 40 then (key - 0x4000000000) / 0x3000000000
  else dieOf (coreCluster ((key - 2 ^ 40) / 2 ^ 21))

/-- Whether a thread's launch runs under paired execution (R416). -/
def pairedRun (s : State) (t : Thread) : Bool := ((t.launch.bind s.launchAt).map Launch.paired).getD false

/-- A paired thread's chunk differs from its trailer's at its end: both are squashed with cause 5; at the second mismatch
in a row the thread parks for good with PAIR, whose reason is free (R375, R418; logs 4 and 20). -/
def pairMismatch (s : State) (t : Thread) (va : Word) : State :=
  if (t.com.map Chunk.phase) ≠ some .ended then s
  else if t.chcause = 5 ∧ t.chrun ≠ 0 then
    fatalPark { s with free := s.free + 1 } t.tid cPAIR va (BitVec.ofNat 64 (bitOf (Config.freeBool s.free))) 5
  else squash s t.tid true 5

/-- The job or 128-bit atomic of a thread that has read a line where it executes (R328, R357). -/
def readingShip (s : State) (tid : Nat) (line : Line) : Option Ship :=
  s.ships.find? (fun x => x.tid == tid && !x.cancelled && x.chunk.any (fun c => c.rlines.contains line))

/-- ECC_UNCORRECTABLE (R175, R414, R418): data that a thread's job has read makes the reply's status 3; origin is the
structure of R375; for a register or signature TRVAL is 0. Under paired execution a register error is mended from the other
thread, and origin 0 is a mismatch of the two (log 20: DEDUCED, safe). -/
def execEccUncorrectable (tid : Nat) (va : BitVec 64) (origin : Fin 8) (s : State) : Out :=
  match s.thread tid with
  | none => .next s
  | some t =>
    if t.place ≠ .run ∨ tileFrozen s (tileOf tid) then .next s
    else if origin = 0 then .next (if pairedRun s t then pairMismatch s t va else s)
    else if origin = 6 ∧ pairedRun s t then .next (squash s tid false 4)
    else
      let place := if 6 ≤ origin.val then none else match resolve s t va 1 .read with
        | .ok l => some l
        | _ => none
      let key := if origin = 2 then none else place.map Loc.key
      match place.bind (fun l => readingShip s tid l.line) with
      | some x =>
        let s := s.mapShip x.id (fun x => { x with replied := true, status := 3, cause := origin.val, val := va, chunk := none })
        .next (((key.map (markPoison s)).getD s).bump t.die 5 1)
      | none => .next ((consumeError s tid (if 6 ≤ origin.val then 0 else va) key origin.val).bump t.die 5 1)

/-- The key that SCRUB gives the sharer vector of a line of an address space, and that line (log 19: DESIGN CHOICE, safe). -/
def sharerKey (asid n : Nat) : Nat := 2 ^ 68 + asid * 2 ^ 57 + n
def sharerLine (key : Nat) : Line := .glob ((key - 2 ^ 68) / 2 ^ 57) ((key - 2 ^ 68) % 2 ^ 57)

/-- SCRUB (R413, R415, R438): an error that no thread consumes is corrected where it lies, or its line or word is marked
poisoned: one of near or far memory that the scrubber finds, or one of a local array that a piece of a copy or a correctable
read meets. A parity error in a sharer vector sets every bit of it. -/
def execScrub (key : Nat) (bad : Bool) (s : State) : Out :=
  if 2 ^ 68 ≤ key then .next ((List.range 64).foldl (fun s c => s.share c [sharerLine key]) s)
  else if !deviceBacked key && !(2 ^ 40 ≤ key && key < 2 ^ 40 + 8256 * 2 ^ 21) then .next s
  else if bad then .next ((markPoison s key).bump (memoryDie key) 5 1)
  else .next (s.bump (memoryDie key) 4 1)

end Sys2Proof.Machine
end

