-- ==== Sys2Proof/Machine/Link.lean ====
section
/-! DEFINITION. Sys2Proof/Machine/Link.lean: what the host link and the peer links bring: host accesses and AtomicOps
(R425-R427), acknowledgements (R340, R429), CXL (R430), peer accesses (R433), resets (R431, R442), and the thermal and
power events (R443-R445). -/

namespace Sys2Proof.Machine

/-- The source of an arrival: units of one source take their points in order (R337). -/
def Arrival.source : Arrival → Nat × Nat
  | .write f .. | .read f .. | .atomic f .. | .flr f | .tail f _ => (0, f.val)
  | .snoop _ => (1, 0)
  | .peer src .. => (2, src.toNat)
  | .unmap u .. | .protect u .. | .areg u .. | .adel u .. | .trcb u .. => (3, u)

/-- The name under which an arrival holds nodes and waits for them (R337). -/
def Arrival.agent (a : Arrival) : Nat :=
  match a.source with
  | (0, f) => agentId 0 f
  | (1, _) => agentId 0 512
  | (2, d) => agentId 0 (32 + d)
  | (_, u) => agentId 3 u

/-- An arrival that must wait stays the first of its source (R337, R345). -/
def later (s : State) (a : Arrival) : State := { s with links := { s.links with waiting := a :: s.links.waiting } }

/-- An arrival that writes waits for nodes, in their queues (R337, R343). -/
def laterAt (s : State) (agent : Nat) (nodes : List Nat) (a : Arrival) : State := later (agentWait s agent nodes) a

/-- An arrival takes its turn: it waits behind those of its source, else it is performed. -/
def takeTurn (s : State) (a : Arrival) (go : State → State) : State :=
  if s.links.waiting.any (fun b => b.source == a.source) then
    { s with links := { s.links with waiting := s.links.waiting ++ [a] } }
  else go s

/-- The place of a byte of ASID 0 for an access from the host or a peer; none where a check of R426 fails. -/
def hostLoc (s : State) (va : Nat) (k : Access) : Option Loc :=
  if cluBase ≤ va then none
  else match translate s 0 va k with
    | .ok l => if (l.leaf.map (fun f => f.loc == 0 && !f.irrev)).getD false then some l else none
    | _ => none

/-- Whether a read from outside must wait for a line: a commit past its number writes it, or an append holds it (R336,
R345). -/
def lineBusy (s : State) (l : Loc) : Bool :=
  s.weir.heldCounts.contains l.line ||
  s.threads.any (fun t => match t.com with
    | none => false
    | some c => c.phase == .numbered && (c.wlines.contains l.line || c.dlines.contains l.line))

/-- Under CXL.mem the host may hold a line that it has accessed (R430). -/
def hostTakes (s : State) (l : Loc) : State :=
  if s.links.cxl then { s with links := { s.links with hostHeld := addOnce (l.key / 128) s.links.hostHeld } } else s

/-- The ASID 0 address of an offset of a function's BAR2, where the BAR and the aperture hold it (R425). -/
def apertureVa (s : State) (f off n : Nat) : Option Nat :=
  let x := s.func f
  if s.boot.started ∧ off + n ≤ x.barSize then some (x.apva.toNat + off) else none

/-- A host write: the first line is checked and written at its own point, or dropped and counted; the rest follows. Before START
there is no page (R426; log 14: DESIGN CHOICE, unsafe). -/
def hostWriteLines (f : Fin 17) (off : Nat) (data : List Byte) : Nat → State → State
  | 0, s => s
  | fuel + 1, s =>
    match apertureVa s f.val off data.length with
    | none => if s.boot.started then s else logError s f.val ((s.func f.val).apva.toNat + off) 1
    | some va =>
      let k := min data.length (128 - va % 128)
      if k = 0 then s
      else match hostLoc s va .write with
        | none => hostWriteLines f (off + k) (data.drop k) fuel (logError s f.val va 1)
        | some l =>
          if !agentFree s (agentId 0 f.val) [l.node] then laterAt s (agentId 0 f.val) [l.node] (.write f off data)
          else
            let s := hostTakes (sourcePoint s f.val [l.node] (cellsAt l.key (data.take k)) [l.line]) l
            if k < data.length then later s (.write f (off + k) (data.drop k)) else s

/-- HOST_WRITE (R426): the lines that follow the first take their points in steps of their own. -/
def execHostWrite (f : Fin 17) (off : Nat) (data : List (BitVec 8)) (s : State) : Out :=
  .next (takeTurn s (.write f off data) (hostWriteLines f off data data.length))

/-- An answer to the host. -/
def answerHost (s : State) (f : Nat) (a : Option (List Byte × Bool)) : State :=
  { s with links := { s.links with answers := s.links.answers ++ [(f, a)] } }

/-- A host read: answered whole, each line read at its own point; got holds the lines read so far and bad tells whether one of
them was poisoned (R426). A read holds no node, so its number is recorded nowhere (R337, R341). -/
def hostReadLines (f : Fin 17) (off len : Nat) (got : List Byte) (bad : Bool) (s : State) : State :=
  match apertureVa s f.val off len with
  | none => answerHost s f.val none
  | some base =>
    let va := base + got.length
    let k := min (len - got.length) (128 - va % 128)
    if k = 0 then answerHost s f.val (some (got, bad))
    else match hostLoc s va .read with
      | none => answerHost s f.val none
      | some l =>
        if lineBusy s l then later s (.read f off len got bad)
        else
          let s := hostTakes (countPoint s [l.node]) l
          let got := got ++ Memory.bytes s.mem l.key k
          let bad := bad || poisoned s l k
          if got.length < len then later s (.read f off len got bad) else answerHost s f.val (some (got, bad))

/-- HOST_READ (R426). -/
def execHostRead (f : Fin 17) (off len : Nat) (s : State) : Out :=
  .next (takeTurn s (.read f off len [] false) (hostReadLines f off len [] false))

/-- The value that a completer AtomicOp stores (R427): 0 FetchAdd, 1 Swap, 2 CAS. -/
def hostOp (op n old x y : Nat) : Nat :=
  match op with
  | 0 => (old + x) % 2 ^ (8 * n)
  | 1 => x % 2 ^ (8 * n)
  | _ => if old = x % 2 ^ (8 * n) then y % 2 ^ (8 * n) else old

/-- A completer AtomicOp: FetchAdd and Swap at 4 and 8 bytes, CAS at 4, 8 and 16, naturally aligned, on a device page
with R, W and SYS; else Unsupported Request (R427). -/
def hostAtomic (f : Fin 17) (off : Nat) (op size : Fin 3) (x y : BitVec 128) (s : State) : State :=
  let n := 4 * 2 ^ size.val
  match apertureVa s f.val off n with
  | none => answerHost s f.val none
  | some va =>
    if va % n ≠ 0 ∨ (size = 2 ∧ op ≠ 2) then answerHost s f.val none
    else match hostLoc s va .rmw with
      | none => answerHost s f.val none
      | some l =>
        if !(l.leaf.map Leaf.sys).getD false then answerHost s f.val none
        else if !agentFree s (agentId 0 f.val) [l.node] then laterAt s (agentId 0 f.val) [l.node] (.atomic f off op size x y)
        else if s.weir.heldCounts.contains l.line then later s (.atomic f off op size x y)
        else
          let old := Memory.num s.mem l.key n
          let bad := poisoned s l n
          let s := sourcePoint s f.val [l.node] (cellsAt l.key (bytesOf n (hostOp op.val n old x.toNat y.toNat))) [l.line]
          answerHost (hostTakes s l) f.val (some (bytesOf n old, bad))

/-- HOST_ATOMICOP (R427). -/
def execHostAtomicop (f : Fin 17) (off : Nat) (op size : Fin 3) (x y : BitVec 128) (s : State) : Out :=
  .next (takeTurn s (.atomic f off op size x y) (hostAtomic f off op size x y))

/-- A host line keeps what a refused write has replaced, unless a later write that is on its way covers it, which then
replaces the same (R338, R429). -/
def refuseWrite (mem : Memory) (rest : List HostWrite) (old : List Host.Cell) : Memory × List HostWrite :=
  match old with
  | [] => (mem, rest)
  | c :: l =>
    let (mem, rest) := refuseWrite mem rest l
    let covers (w : HostWrite) : Bool := w.old.any (fun o => o.1 == c.1)
    match rest.find? covers with
    | none => (Memory.setAll mem [c], rest)
    | some w => (mem, rest.takeWhile (fun x => !covers x) ++
        { w with old := w.old.map (fun o => if o.1 = c.1 then c else o) } :: (rest.dropWhile (fun x => !covers x)).drop 1)

/-- HOST_WRITE_ACK (R338, R340, R429): the host has accepted the oldest write, or has refused it, which is logged against the
function under whose requester ID it went, with its bus address. -/
def execHostWriteAck (ok : Bool) (s : State) : Out :=
  match s.links.hostWrites with
  | [] => .next s
  | e :: rest =>
    let (mem, rest) := if ok then (s.mem, rest) else refuseWrite s.mem rest e.old
    let s := { s with mem := mem, links := { s.links with hostWrites := rest } }
    .next (endFence (if ok then s else logError s e.fn (e.line * 128 - hostKey 0) 0) e.tid)

/-- LCTAIL_WRITE (R56, R57, R339): after every access of the function that precedes it on the link. -/
def execLctailWrite (f : Fin 17) (v : BitVec 64) (s : State) : Out := .next (takeTurn s (.tail f v) (writeTail f v))

/-- HOST_OWNERSHIP_GRANT (R430): the next SYS line that a thread's commit waits for. -/
def execHostOwnershipGrant (tid : Nat) (s : State) : Out :=
  match (s.thread tid).bind Thread.com with
  | none => .next s
  | some c => match c.sysLines.find? (fun l => !s.links.cxlOwned.contains l) with
    | some l =>
      if s.links.cxl && c.phase == .ended then
        .next { s with links := { s.links with cxlOwned := s.links.cxlOwned ++ [l] } }
      else .next s
    | none => .next s

/-- CXL_BI_RESPONSE (R430): the host has given up the device lines that a thread's commit writes. -/
def execCxlBiResponse (tid : Nat) (s : State) : Out :=
  match s.thread tid, (s.thread tid).bind Thread.com with
  | some t, some c =>
    let mine := (keysOf s t c).map (fun k => k / 128)
    .next { s with links := { s.links with hostHeld := s.links.hostHeld.filter (fun l => !mine.contains l) } }
  | _, _ => .next s

/-- The lines of a chunk's lists. -/
def Chunk.lines (c : Chunk) : List Line := c.rlines ++ c.wlines ++ c.dlines

/-- The names under which open and parked chunks, jobs and WAITV sleepers hold a host line: ASID, line and home. -/
def namesOf (s : State) (hline : Nat) : List (Nat × Line × Nat) :=
  let lines := (everyThread s).flatMap (fun t => (t.ex :: (t.com.toList ++ t.fins)).flatMap Chunk.lines ++
    (match t.wait with
      | .waitv l .. => [l]
      | _ => [])) ++ (s.ships.filterMap Ship.chunk).flatMap Chunk.lines
  (lines.foldl (fun l x => addOnce x l) []).filterMap (fun l => match l with
    | .glob a n => (match translate s a (n * 128) .read with
      | .ok p => if p.key / 128 = hline then some (a, l, p.node) else none
      | _ => none)
    | _ => none)

/-- A snoop that invalidates a host line: a point like a host write's, with its signature; a line that a commit holds
makes it wait (R430). -/
def snoopLine (line : Nat) (s : State) : State :=
  if !s.links.cxl then s
  else
    let names := namesOf s line
    let nodes := names.foldl (fun l e => insertAsc e.2.2 l) []
    if !agentFree s (agentId 0 512) nodes then laterAt s (agentId 0 512) nodes (.snoop line)
    else
      let s := { s with links := { s.links with cxlOwned := s.links.cxlOwned.filter (fun l => l != line) } }
      let asids := names.foldl (fun l e => insertAsc e.1 l) []
      let s := asids.foldl (fun s a =>
        let ls := (names.filter (fun e => e.1 == a)).map (fun e => e.2.1)
        broadcast (touch s ls) a ls) s
      sourcePoint s 512 nodes [] []

/-- CXL_SNOOP (R430). -/
def execCxlSnoop (line : Nat) (s : State) : Out := .next (takeTurn s (.snoop line) (snoopLine line))

/-- The import window that holds an offset: base, size, VA, rights (1 read, 2 write, 4 reduce) (R433). -/
def windowOf (s : State) (off : Nat) : Option (Nat × Nat × Nat × Nat) :=
  s.links.windows.find? (fun w => decide (w.1 ≤ off ∧ off < w.1 + w.2.1))

/-- An answer to a peer device. -/
def answerDevice (s : State) (dev status : Nat) (bs : List Byte) : State :=
  { s with links := { s.links with peerAnswers := s.links.peerAnswers ++ [(dev, status, bs)] } }

/-- The number that a remote reduction stores (R358, R433): codes of R142, from 16 on for REDF and REDD. -/
def peerRed (op n old x : Nat) : Nat := if op < 16 then redInt op n old x else memFloat (op - 16) (n == 8) old x

/-- Whether a line that a peer's access covers passes its checks: 0, or the status of its failure (R433, R434). -/
def peerCheck (s : State) (kind : Fin 3) (va n : Nat) : Nat :=
  match hostLoc s va (if kind = 0 then .read else if kind = 1 then .write else .rmw) with
  | none => 4
  | some l => if kind ≠ 1 && poisoned s l n then 5 else 0

/-- The first failing check of the lines of an access at a VA (R433, R434). -/
def peerChecks (s : State) (kind : Fin 3) (va : Nat) : Nat → Nat → Nat
  | 0, _ => 0
  | fuel + 1, n =>
    let k := min n (128 - va % 128)
    if k = 0 then 0
    else match peerCheck s kind va k with
      | 0 => peerChecks s kind (va + k) fuel (n - k)
      | e => e

/-- The next line of a peer's access whose window and checks have been passed, at a VA of ASID 0: kind 0 reads op bytes, of which
got are there, 1 writes, 2 reduces; each line has its own point (R337, R433). -/
def peerLine (src : BitVec 8) (va : Nat) (kind : Fin 3) (op : Nat) (data got : List Byte) (s : State) : State :=
  let dev := src.toNat
  let agent := agentId 0 (32 + dev)
  let here := va + got.length
  let n := if kind = 0 then op - got.length else data.length
  let k := min n (128 - here % 128)
  let wait (s : State) : State := later s (.peer src va kind op data got true)
  match peerCheck s kind here k, hostLoc s here (if kind = 0 then .read else if kind = 1 then .write else .rmw) with
  | 0, some l =>
    if k = 0 then answerDevice s dev 0 got
    else if kind = 0 then
      if lineBusy s l then wait s
      else
        let got := got ++ Memory.bytes s.mem l.key k
        let s := countPoint s [l.node]
        if k < n then later s (.peer src va kind op data got true) else answerDevice s dev 0 got
    else if !agentFree s agent [l.node] then wait (agentWait s agent [l.node])
    else if kind = 1 then
      let s := sourcePoint s (32 + dev) [l.node] (cellsAt l.key (data.take k)) [l.line]
      if k < n then later s (.peer src (va + k) kind op (data.drop k) [] true) else answerDevice s dev 0 []
    else
      let x := peerRed op n (Memory.num s.mem l.key n) (ofBytes data)
      answerDevice (sourcePoint s (32 + dev) [l.node] (cellsAt l.key (bytesOf n x)) [l.line]) dev 0 []
  | e, _ => answerDevice s dev (if e = 0 then 4 else e) []

/-- Whether a write from a peer has passed its checks and has lines to come; and whether a mapping command waits for such
writes, so that no other begins (R434). -/
def writesBegun (s : State) : Bool := s.links.waiting.any (fun a => match a with
  | .peer _ _ kind _ _ _ begun => kind == 1 && begun
  | _ => false)
def remapWaits (s : State) : Bool := s.links.waiting.any (fun a => match a with
  | .unmap .. | .protect .. => true
  | _ => false)

/-- An access from a peer: its bytes lie in one window, and every check of a write comes before any line's point, so that a failed
one leaves the destination as it is; the lines follow one by one (R337, R433, R434). -/
def peerAccess (src : BitVec 8) (off : Nat) (kind : Fin 3) (op : Nat) (data got : List Byte) (begun : Bool) (s : State) : State :=
  let dev := src.toNat
  let n := if kind = 0 then op else data.length
  if begun then peerLine src off kind op data got s
  else match windowOf s off with
    | none => answerDevice s dev 2 []
    | some (base, size, va, rights) =>
      if base + size < off + n then answerDevice s dev 2 []
      else if rights / 2 ^ kind.val % 2 = 0 then answerDevice s dev 3 []
      else if kind = 1 ∧ remapWaits s then later s (.peer src off kind op data got false)
      else match peerChecks s kind (va + (off - base)) n n with
        | 0 => if n = 0 then answerDevice s dev 0 [] else peerLine src (va + (off - base)) kind op data [] s
        | e => answerDevice s dev e []

/-- PEER_ACCESS_ARRIVE (R433, R434). -/
def execPeerAccessArrive (src : BitVec 8) (off : Nat) (kind : Fin 3) (op : Nat) (data : List (BitVec 8)) (s : State) : Out :=
  .next (takeTurn s (.peer src off kind op data [] false) (peerAccess src off kind op data [] false))

/-- Whether an access's port is down. -/
def onDown (s : State) (m : PeerMsg) : Bool :=
  match m.port with
  | some p => s.links.down.contains p
  | none => false

/-- Whether an access to a peer can be answered now: a read of a thread of a frozen tile cannot. -/
def canAnswer (s : State) (m : PeerMsg) : Bool :=
  match m.act with
  | .read .. => !tileFrozen s (tileOf m.tid)
  | _ => true

/-- PEER_PORT_DOWN (R434, R435): the outstanding accesses of the port's pairs fail with status 7. -/
def execPeerPortDown (port : Fin 16) (s : State) : Out :=
  let s := { s with links := { s.links with down := addOnce port.val s.links.down } }
  .next ((s.links.peerOut.filter (fun m => m.port == some port.val && canAnswer s m)).foldl
    (fun s m => answerPeer s m 7 []) s)

/-- The module after a reset: memory of the device keeps what it holds until START zeroes it, the host's own memory and
the links' pending deliveries are not the device's, and the clusters that are absent stay so (R25, R442; log 2: DESIGN CHOICE,
unsafe). -/
def resetModule (s : State) : State :=
  { State.reset with
    mem := s.mem, poison := s.poison, free := s.free, inputs := s.inputs
    boot := { State.reset.boot with absent := s.boot.absent } }

/-- MODULE_RESET (R442). -/
def execModuleReset (s : State) : Out := .next (resetModule s)

/-- A partition joins the physical function's (R431). -/
def returnPartition (l : List Partition) (f : Nat) : List Partition :=
  match l.find? (fun p => p.fn == f) with
  | none => l
  | some p =>
    let rest := l.filter (fun q => q.fn != f)
    if rest.any (fun q => q.fn == 0) then
      rest.map (fun q => if q.fn = 0 then { q with clusters := q.clusters ++ p.clusters, tiles := q.tiles ++ p.tiles } else q)
    else rest ++ [{ p with fn := 0 }]

/-- The launches of a function that are not complete, by index. -/
def openLaunches (s : State) (f : Nat) : List Nat :=
  (List.range s.work.launches.length).filter (fun k =>
    ((s.launchAt k).map (fun l => l.fn == f && !l.complete)).getD false)

/-- Steps 1-4 of a Function Level Reset of a virtual function. An ASID retires once no launch of it is incomplete (R65,
R431). -/
def resetFunction (f : Nat) (s : State) : State :=
  let s := s.mapFunc f (fun x => { x with lcctl := BitVec.ofNat 64 (bitsOf x.lcctl 0 5) })
  let s := (openLaunches s f).foldl (fun s k => endLaunch s k 2) s
  let mine := (s.work.asids.filter (fun e => e.2.owner == f)).map Prod.fst
  let s := retireLeft { s with work := { s.work with retiring := mine.foldl (fun l a => addOnce a l) s.work.retiring } }
  { s with parts := returnPartition s.parts f }

/-- FUNCTION_LEVEL_RESET (R431, R435, R446): one of the physical function resets the module; one of a virtual function is
ignored during bring-up, and comes after the host's accesses that were accepted before it. -/
def execFunctionLevelReset (f : Fin 17) (s : State) : Out :=
  if f = 0 then .next (resetModule s)
  else if !s.boot.started then .next s
  else .next (takeTurn s (.flr f) (resetFunction f.val))

/-- A change of the operating point that is outstanding is answered STATE (R446). -/
def dropTarget (s : State) : State :=
  match s.power.target with
  | some (_, _, some u) => { s with power := { s.power with target := none } }.reply u 2 []
  | some (_, _, none) => { s with power := { s.power with target := none } }
  | none => s

/-- THERMAL_TRIP (R445, R446). -/
def execThermalTrip (die : Fin 4) (sensor temp : Nat) (s : State) : Out :=
  if temp < 105 then .next s
  else
    let s := dropTarget s
    let s := { s with power := { s.power with clock := 800, mv := 550, hold := true
                                              log := s.power.log ++ [(die.val, sensor, temp, s.cycle)] } }
    .next (raiseVector (s.bump die.val 6 1) 0 2)

/-- THERMAL_CRITICAL (R445): every clock stops, and the mailboxes report FATAL. -/
def execThermalCritical (s : State) : Out :=
  .next { s with power := { s.power with critical := true }
                 boxes := s.boxes.map (fun e => (e.1, if e.2.busy then { e.2 with result := some (5, []) } else e.2)) }

/-- POWER_VOLTAGE_SETTLED (R444): the clock switches, and POWER replies. -/
def execPowerVoltageSettled (s : State) : Out :=
  match s.power.target with
  | none => .next s
  | some (clock, mv, u) =>
    let s := { s with power := { s.power with clock := clock, mv := mv, target := none } }
    .next (match u with
      | some u => s.reply u 0 []
      | none => s)

/-- LINK_TRAINING_COMPLETE (R422, R430): width and rate as the host agrees, and CXL where the option is enabled. -/
def execLinkTrainingComplete (width : Fin 5) (gen : Fin 3) (s : State) : Out :=
  .next { s with links := { s.links with trained := true, width := width.val, gen := gen.val, cxl := Config.cxl } }

end Sys2Proof.Machine
end

