-- ==== Sys2Proof/Machine/Mailbox.lean ====
section
/-! DEFINITION. Sys2Proof/Machine/Mailbox.lean: the management mailbox: doorbells and replies (R439, R440) and every command
of R441; the operands stand in the step (log 12: DESIGN CHOICE, unsafe). -/

namespace Sys2Proof.Machine

/-- Whether a mailbox is a supervisor's (R440). -/
def isSuper (u : Fin 21) : Bool := 17 ≤ u.val

/-- Answers one of two codes where the spec names none (log 12: DESIGN CHOICE, unsafe). -/
def replyEither (s : State) (u x y : Nat) : State :=
  { s with free := s.free + 1 }.reply u (if Config.freeBool s.free then x else y) []

/-- A doorbell (R440, R441): one for another command's code does not concern this step; while busy is 1 it is discarded;
after a fatal event FATAL is reported; a caller that may not issue the command is REFUSED; before START only INFO,
FWLOAD and START are accepted. -/
def submit (s : State) (u : Fin 21) (code : Nat) (allowed : Bool) (go : State → State) : Out :=
  let b := s.box u.val
  if u.val < 17 ∧ b.op.toNat % 65536 ≠ code then .next s
  else if b.busy then .next (s.mapBox u.val (fun b => { b with lost := true }))
  else
    let s := s.mapBox u.val (fun b => { b with
      busy := true, lost := false, code := code, result := none, stat := putBits b.stat 0 2 1 })
    if s.power.critical || s.boot.halted then .next (s.reply u.val 5 [])
    else if !allowed then .next (s.reply u.val 1 [])
    else if 3 < code ∧ !s.boot.started then .next (replyEither s u.val 1 2)
    else .next (go s)

/-- MAILBOX_COMPLETION (R424, R440): the reply is in place, busy is 0, and the caller is told. -/
def execMailboxCompletion (u : Fin 21) (s : State) : Out :=
  let b := s.box u.val
  match b.busy, b.result with
  | true, some (st, bs) =>
    let stat := BitVec.ofNat 64 (b.op.toNat / 2 ^ 32 * 2 ^ 32 + st % 256 * 256 + bitOf b.lost * 2)
    let s := s.mapBox u.val (fun b => { b with
      busy := false, result := none, stat := stat, len := BitVec.ofNat 64 bs.length, rep := bs })
    .next (if isSuper u then wakeSuper s (u.val - 17) else raiseVector s u.val 0)
  | _, _ => .next s

/-- DOORBELL_WHILE_BUSY (R440). -/
def execDoorbellWhileBusy (u : Fin 21) (s : State) : Out :=
  .next (if (s.box u.val).busy then s.mapBox u.val (fun b => { b with lost := true }) else s)

/-- The assigned command codes (R441). -/
def commandCodes : List Nat :=
  [0x01, 0x02, 0x03, 0x10, 0x11, 0x12, 0x13, 0x20, 0x21, 0x22, 0x23, 0x24, 0x30, 0x31, 0x32, 0x33, 0x34, 0x35, 0x40, 0x41,
   0x42, 0x43, 0x50, 0x51, 0x52, 0x60, 0x61, 0x62, 0x63]

/-- MAILBOX_UNKNOWN_COMMAND (R440): status UNKNOWN. -/
def execMailboxUnknownCommand (u : Fin 21) (code : BitVec 16) (s : State) : Out :=
  if commandCodes.contains code.toNat then .next s
  else
    let b := s.box u.val
    if u.val < 17 ∧ b.op.toNat % 65536 ≠ code.toNat then .next s
    else if b.busy then .next (s.mapBox u.val (fun b => { b with lost := true }))
    else
      let s := s.mapBox u.val (fun b => { b with
        busy := true, lost := false, code := code.toNat, result := none, stat := putBits b.stat 0 2 1 })
      .next (s.reply u.val (if s.power.critical || s.boot.halted then 5 else 6) [])

/-- The map of present clusters as a word (R1). -/
def presentMap (s : State) : Nat := sumOf ((presentClusters s).map (fun c => 2 ^ c))

/-- The protocols that are active on the link: bit 0 PCI Express or CXL.io, bits 1 and 2 CXL.cache and CXL.mem (R430; log 12:
DESIGN CHOICE, unsafe). -/
def protocols (s : State) : Nat := bitOf s.links.trained + bitOf s.links.cxl * 6

/-- INFO (R1, R430, R441): stepping, grade, the present-cluster map and the active protocols. -/
def execInfo (u : Fin 21) (s : State) : Out :=
  submit s u 0x01 true (fun s =>
    s.reply u.val 0 ([Config.stepping.toNat, (Config.infoWord 0).toNat, presentMap s, protocols s].flatMap (bytesOf 8)))

/-- FWLOAD (R442): firmware read from the host and checked; a bad CRC is REFUSED. -/
def execFwload (u : Fin 21) (addr : BitVec 64) (len : Nat) (crcOk : Bool) (s : State) : Out :=
  submit s u 0x02 (u == 0) (fun s =>
    if s.boot.started || s.boot.failed.isSome then replyEither s u.val 1 2
    else if !crcOk || decide (2 ^ 64 < addr.toNat + len) then s.reply u.val 1 []
    else { s with boot := { s.boot with firmware := true } }.reply u.val 0 [])

/-- A supervisor slot at the end of bring-up: at supervisor level in ASID 0, where the firmware starts it (R104, R442
step 4; log 2: DESIGN CHOICE, unsafe). -/
def startSuper (t : Thread) : Thread :=
  if t.super then
    let r := { t.r with pc := Config.bootPc t.die &&& ~~~1#64 }
    { t with asid := 0, place := .run, r := r, ex := newChunk r none 0, ready := 0, wait := .none }
  else t

/-- Bring-up steps 3 and 4: every array and all memory zero, every owner none, clocks at 1.25 GHz and 600 mV, CYCLE 0 with what is
counted from it, the tables of ASID 0 set up (R86, R442). -/
def bringUp (s : State) : State :=
  let host := s.mem.filter (fun c => 2 ^ 56 ≤ c.1)
  let asid0 : Asid := { root := Config.bootRoot, directed := false, owner := 0 }
  let s := { s with
    mem := Memory.setAll host (Config.bootCells.filter (fun c => c.1 < 2 ^ 40)), poison := [], cycle := 0
    boot := { s.boot with started := true, lockTimes := [] }, power := { s.power with clock := 1250, mv := 600 }
    work := { State.reset.work with asids := [(0, asid0)] }
    maps := { s.maps with frameOwner := [] } }
  s.mapThreads startSuper

/-- START (R442): a tile that fails self test makes it FATAL. -/
def execStart (u : Fin 21) (failed : Option Nat) (s : State) : Out :=
  submit s u 0x03 (u == 0) (fun s =>
    if s.boot.started || s.boot.failed.isSome || !s.boot.firmware then replyEither s u.val 1 2
    else match failed with
      | some t => { s with boot := { s.boot with failed := some t } }.reply u.val 5 (bytesOf 8 t)
      | none => (bringUp s).reply u.val 0 (bytesOf 8 (presentMap s)))

/-- Whether two partitions share a tile (R63). -/
def overlaps (p q : Partition) : Bool :=
  p.clusters.any (fun c => q.clusters.contains c || q.tiles.any (fun t => tileCluster t == c)) ||
  p.tiles.any (fun t => q.tiles.contains t || q.clusters.contains (tileCluster t))

/-- PART (R63): a function's partition, of present clusters and little tiles of others; an empty one takes it away. Launches
keep the cores that they hold of a partition that is changed or taken away (log 28: DESIGN CHOICE, unsafe). -/
def execPart (u : Fin 21) (f : Fin 17) (clusters tiles : List Nat) (s : State) : Out :=
  submit s u 0x10 (u == 0) (fun s =>
    let p : Partition := { fn := f.val, clusters := clusters, tiles := tiles }
    let rest := s.parts.filter (fun q => q.fn != f.val)
    if clusters.any (fun c => !(presentClusters s).contains c) ||
        tiles.any (fun t => 1024 ≤ t || !(presentClusters s).contains (tileCluster t) || clusters.contains (tileCluster t)) ||
        rest.any (overlaps p) || 16 ≤ rest.length then s.reply u.val 1 []
    else { s with parts := if clusters.isEmpty && tiles.isEmpty then rest else rest ++ [p] }.reply u.val 0 [])

/-- ASIDs that a function owns. -/
def asidsOf (s : State) (f : Nat) : Nat := (s.work.asids.filter (fun e => e.2.owner == f && e.1 != 0)).length

/-- ASCREATE (R64): within the quota, by the function that owns it. -/
def execAscreate (u : Fin 21) (asid : Fin 1024) (root : BitVec 64) (place : Bool) (owner : Fin 17) (s : State) : Out :=
  submit s u 0x11 (u.val == owner.val) (fun s =>
    if asid = 0 ∨ (Tbl.find s.work.asids asid.val).isSome ∨ root.toNat % 65536 ≠ 0 ∨ !deviceBacked root.toNat ∨
        (s.func u.val).quota ≤ asidsOf s u.val then s.reply u.val 1 []
    else
      let d : Asid := { root := root.toNat, directed := place, owner := u.val }
      { s with work := { s.work with asids := Tbl.put s.work.asids asid.val d
                                     retiredAsids := s.work.retiredAsids.filter (fun a => a != asid.val) } }.reply u.val 0 [])

/-- Whether a caller owns a live ASID (R64, R441). -/
def ownsAsid (s : State) (u : Fin 21) (asid : Nat) : Bool :=
  !isSuper u && ((Tbl.find s.work.asids asid).map (fun d => d.owner == u.val)).getD false

/-- ASRETIRE (R65): refused while a launch of the ASID is incomplete. -/
def execAsretire (u : Fin 21) (asid : Fin 1024) (s : State) : Out :=
  submit s u 0x12 (ownsAsid s u asid.val) (fun s =>
    if asid = 0 ∨ s.work.launches.any (fun l => l.asid == asid.val && !l.complete) then s.reply u.val 1 []
    else (retireAsid s asid.val).reply u.val 0 [])

/-- QUOTA (R64). -/
def execQuota (u : Fin 21) (f : Fin 17) (n : Nat) (s : State) : Out :=
  submit s u 0x13 (u == 0) (fun s => (s.mapFunc f.val (fun x => { x with quota := n })).reply u.val 0 [])

/-- Bytes of a page. -/
def pageSize (big : Bool) : Nat := if big then 2 ^ 29 else 2 ^ 16

/-- Whether MAP refuses an entry for an address (R273, R275, R276, R280, R282, R283). -/
def badLeaf (leaf va : Nat) (big : Bool) : Bool :=
  let l := leafOf leaf big
  let pa := l.frame * 65536
  leaf % 2 == 0 || leaf / 16 % 2 == 0 || entryReserved leaf true || va % pageSize big != 0 || decide (cluBase ≤ va) ||
  (l.w && !l.r) || decide (14 ≤ l.fmt) || (l.fmt == 13 && l.geom != 0) || (l.fmt != 0 && decide (scaleBase ≤ va)) ||
  (l.loc == 0 && (!deviceBacked pa || !deviceBacked (pa + pageSize big - 1) ||
    (l.tier == 1) != decide (0x4000000000 ≤ pa)))

/-- The valid entries of a table node of n entries. -/
def entriesIn (m : Memory) (node n : Nat) : List Nat :=
  ((List.range n).map (fun k => Memory.num m (node + 8 * k) 8)).filter (fun e => e % 2 == 1)

/-- The leaves of a table (R274). -/
def leavesOf (m : Memory) (root : Nat) : List Leaf :=
  (entriesIn m root 1024).flatMap (fun e1 => (entriesIn m (e1 / 2 ^ 24 * 65536) 8192).flatMap (fun e2 =>
    if e2 / 16 % 2 = 1 then [leafOf e2 true]
    else ((entriesIn m (e2 / 2 ^ 24 * 65536) 8192).filter (fun e => e / 16 % 2 == 1)).map (fun e => leafOf e false)))

/-- Whether an ASID maps the device frame at an address. -/
def mapsFrame (s : State) (asid pa : Nat) : Bool :=
  match Tbl.find s.work.asids asid with
  | none => false
  | some d => (leavesOf s.mem d.root).any (fun l =>
      l.loc == 0 && decide (l.frame * 65536 ≤ pa ∧ pa < l.frame * 65536 + leafBytes l))

/-- The device frames of a page, by address. -/
def framesOf (leaf : Nat) (big : Bool) : List Nat :=
  if leaf / 256 % 4 = 0 then (List.range (pageSize big / 65536)).map (fun k => leaf / 2 ^ 24 * 65536 + 65536 * k) else []

/-- Frame owners other than an ASID that still map the frame: MAP with ALIAS shares it with them (R281). -/
def sharer (s : State) (asid leaf pa : Nat) : Option Nat :=
  match Tbl.find s.maps.frameOwner (pa / 65536) with
  | some o => if leaf / 64 % 2 = 1 ∧ o ≠ asid ∧ mapsFrame s o pa then some o else none
  | none => none

/-- The frames that MAP zero-fills: those of another owner, or of none, that are not shared (R281). -/
def framesToFill (s : State) (asid leaf : Nat) (big : Bool) : List Nat :=
  (framesOf leaf big).filter (fun pa =>
    Tbl.find s.maps.frameOwner (pa / 65536) != some asid && (sharer s asid leaf pa).isNone)

/-- Whether a function may share the frames that a MAP would share (R281). -/
def mayShare (s : State) (u asid leaf : Nat) (big : Bool) : Bool :=
  (framesOf leaf big).all (fun pa => match sharer s asid leaf pa with
    | none => true
    | some o => o == 0 || ownerOf s o == u)

/-- The next node of a table at an entry; a missing node is a zeroed frame that the device chooses (log 4: DESIGN CHOICE,
safe). -/
def nextNode (s : State) (entry : Nat) : State × Nat :=
  let e := Memory.num s.mem entry 8
  if e % 2 = 1 then (s, e / 2 ^ 24 * 65536)
  else
    let frame := Config.freeNat s.free % 2 ^ 18
    let m := s.mem.filter (fun c => c.1 < frame * 65536 || frame * 65536 + 65536 ≤ c.1)
    ({ s with free := s.free + 1, mem := Memory.setNum m entry 8 (frame * 2 ^ 24 + 1) }, frame * 65536)

/-- The root of an ASID's table. -/
def rootOf (s : State) (asid : Nat) : Nat := ((Tbl.find s.work.asids asid).map Asid.root).getD 0

/-- Writes a leaf into an ASID's table (R274, R280). -/
def writeLeaf (s : State) (asid va leaf : Nat) (big : Bool) : State :=
  let (s, n2) := nextNode s (rootOf s asid + 8 * (va / 2 ^ 42 % 1024))
  let e2 := n2 + 8 * (va / 2 ^ 29 % 8192)
  if big then { s with mem := Memory.setNum s.mem e2 8 leaf }
  else
    let (s, n3) := nextNode s e2
    { s with mem := Memory.setNum s.mem (n3 + 8 * (va / 2 ^ 16 % 8192)) 8 leaf }

/-- Whether a leaf already covers an address, or part of a 512 MiB page, or the table's entries on the way are
malformed. -/
def covered (s : State) (asid va : Nat) (big : Bool) : Bool :=
  match walk s.mem [] (rootOf s asid) va with
  | .inr _ => true
  | .inl r =>
    r % 16 != 0 || (big && decide (48 ≤ r) &&
      (match walkLevel s.mem [] 1 (rootOf s asid) (va / 2 ^ 42 % 1024) with
        | .inr (e1, _) =>
          let e2 := Memory.num s.mem (e1 / 2 ^ 24 * 65536 + 8 * (va / 2 ^ 29 % 8192)) 8
          !(entriesIn s.mem (e2 / 2 ^ 24 * 65536) 8192).isEmpty
        | _ => true))

/-- Whether an alias page that is registered with another size would be covered (R280). -/
def sizeClash (s : State) (asid va : Nat) (big : Bool) : Bool :=
  s.maps.aliases.any (fun e => e.1 == asid && e.2.2.2.2 != (if big then 29 else 16) && e.2.1 / 2 ^ 29 == va / 2 ^ 29)

/-- The canonical names of the lines of a page, with their ASID (R284). -/
def pageLines (s : State) (asid va : Nat) (big : Bool) : Nat × List Line :=
  let base := va / pageSize big * pageSize big
  let (ca, cva) := (aliasIn s.maps.aliases asid base).getD (asid, base)
  (ca, (List.range (pageSize big / 128)).map (fun k => Line.glob ca (cva / 128 + k)))

/-- The homes of lines. -/
def homesOfLines (s : State) (ls : List Line) : List Nat :=
  ls.foldl (fun m l => match l with
    | .glob a n => insertAsc (homeSlice s a (n * 128)) m
    | _ => m) []

/-- The homes of a page's lines. -/
def pageHomes (s : State) (asid va : Nat) (big : Bool) : List Nat := homesOfLines s (pageLines s asid va big).2

/-- MAP's point: the leaf is valid (R280, R331, R337). No open chunk has a line of the page. -/
def mapPoint (s : State) (u asid va leaf : Nat) (big : Bool) : State :=
  let s := writeLeaf s asid va leaf big
  (agentPoint s (agentId 3 u) 0 (pageHomes s asid va big) asid [] []).1

/-- MAP (R280, R281, R337): the leaf becomes valid after the zero fill that its frames need, at a point that waits as a
commit's would. -/
def execMap (u : Fin 21) (asid : Fin 1024) (va leaf : BitVec 64) (big : Bool) (s : State) : Out :=
  submit s u 0x20 (ownsAsid s u asid.val) (fun s =>
    let a := va.toNat
    let e := leaf.toNat
    if badLeaf e a big || covered s asid.val a big || sizeClash s asid.val a big || !mayShare s u.val asid.val e big then
      s.reply u.val 1 []
    else if (framesToFill s asid.val e big).isEmpty && s.maps.fills.isEmpty && agentFree s (agentId 3 u.val) (pageHomes s asid.val a big) then
      (mapPoint s u.val asid.val a e big).reply u.val 0 []
    else { s with maps := { s.maps with fills := s.maps.fills ++ [(u.val, asid.val, va, leaf, big)] } })

/-- The zero fill of a frame, after which an ASID owns it (R281, R415). -/
def fillFrame (asid : Nat) (s : State) (pa : Nat) : State :=
  { s with mem := s.mem.filter (fun c => c.1 < pa || pa + 65536 ≤ c.1)
           poison := s.poison.filter (fun k => k < pa || pa + 65536 ≤ k)
           maps := { s.maps with frameOwner := Tbl.put s.maps.frameOwner (pa / 65536) asid } }

/-- MAP_FILL_COMPLETE (R281, R337): the oldest MAP that waits takes its point, once its page's nodes are free. -/
def execMapFillComplete (s : State) : Out :=
  match s.maps.fills with
  | [] => .next s
  | (u, asid, va, leaf, big) :: rest =>
    if !agentFree s (agentId 3 u) (pageHomes s asid va.toNat big) then
      .next (agentWait s (agentId 3 u) (pageHomes s asid va.toNat big))
    else
      let s := { s with maps := { s.maps with fills := rest } }
      let s := (framesToFill s asid leaf.toNat big).foldl (fillFrame asid) s
      .next ((mapPoint s u asid va.toNat leaf.toNat big).reply u 0 [])

/-- The address of the leaf entry that covers an address, with the leaf. -/
def leafEntry (s : State) (asid va : Nat) : Option (Nat × Leaf) :=
  match walkLevel s.mem [] 1 (rootOf s asid) (va / 2 ^ 42 % 1024), walk s.mem [] (rootOf s asid) va with
  | .inr (e1, _), .inr l =>
    let e2 := e1 / 2 ^ 24 * 65536 + 8 * (va / 2 ^ 29 % 8192)
    if l.big then some (e2, l)
    else some (Memory.num s.mem e2 8 / 2 ^ 24 * 65536 + 8 * (va / 2 ^ 16 % 8192), l)
  | _, _ => none

/-- Whether a chunk will reduce or append to a line of a page: its reduction list, which no signature meets (R335). -/
def reducesOn (lines : List Line) (c : Chunk) : Bool := c.dlines.any (fun l => lines.contains l)

/-- A thread of a stopped tile with its chunks doomed that would reduce on a page. -/
def doomReds (lines : List Line) (t : Thread) : Thread :=
  { t with com := t.com.map (fun c => { c with doomed := c.doomed || (c.phase != .numbered && reducesOn lines c) })
           fins := t.fins.map (fun c => { c with doomed := c.doomed || reducesOn lines c })
           ex := { t.ex with doomed := t.ex.doomed || reducesOn lines t.ex } }

/-- A FINISHED body whose commit is refused: its task is QUEUED again, and nothing counts (R88, R280). -/
def refuseFin (s : State) (tid : Nat) (c : Chunk) : State :=
  match s.thread tid, c.task with
  | some t, some key =>
    (s.mapTask key (fun k => { k with state := .queued, tid := none, leave := false })).setThread
      { t with fins := t.fins.filter (fun x => x.task != c.task) }
  | _, _ => s

/-- The homes refuse the commit of every chunk of a thread that would reduce on a page that takes no writes any more: it rolls
back without counting and finds the fault when it runs again, in a frozen tile at its restore (R279, R280, R352). -/
def refuseReds (lines : List Line) (s : State) (tid : Nat) : State :=
  match s.thread tid with
  | none => s
  | some t =>
    if tileFrozen s (tileOf tid) then
      s.setThread (doomReds lines t)
    else
      let s := (t.fins.filter (reducesOn lines)).foldl (fun s c => refuseFin s tid c) s
      let old := t.com.any (fun c => c.phase != .numbered && reducesOn lines c)
      let s := if old then undo s tid true none else s
      if reducesOn lines t.ex && !(old && (t.com.bind Chunk.task).isNone) then undo s tid false none else s

/-- The point of UNMAP and PROTECT: the entry takes its new value, and a write signature covers the page (R280, R337); a
peer's write that has passed its checks is done first (R434). -/
def remap (s : State) (u asid : Nat) (va : Word) (new : Option Word) : State :=
  match leafEntry s asid va.toNat with
  | none => s.reply u 1 []
  | some (entry, l) =>
    let (ca, ls) := pageLines s asid va.toNat l.big
    let homes := homesOfLines s ls
    let again : Arrival := match new with
      | none => .unmap u asid va
      | some e => .protect u asid va e
    if writesBegun s then later (releaseNodes s (agentId 3 u) false) again
    else if !agentFree s (agentId 3 u) homes then laterAt s (agentId 3 u) homes again
    else
      let e := (new.getD 0).toNat
      if new.isSome ∧ (e / 2 ^ 24 ≠ l.frame ∨ badLeaf e (va.toNat / pageSize l.big * pageSize l.big) l.big) then
        (releaseNodes s (agentId 3 u) false).reply u 1 []
      else
        let s := { s with mem := Memory.setNum s.mem entry 8 e }
        let s := (agentPoint s (agentId 3 u) 0 homes ca [] ls).1
        let gone := match translate s asid va.toNat .write with
          | .ok _ => false
          | _ => true
        (if gone then
          (let s := (s.threads.map Thread.tid).foldl (refuseReds ls) s
           { s with freeze := { s.freeze with images := s.freeze.images.map (fun i => { i with
               threads := i.threads.map (doomReds ls) }) } })
         else s).reply u 0 []

/-- UNMAP (R280). -/
def execUnmap (u : Fin 21) (asid : Fin 1024) (va : BitVec 64) (s : State) : Out :=
  submit s u 0x21 (ownsAsid s u asid.val) (fun s => takeTurn s (.unmap u.val asid.val va) (fun s => remap s u.val asid.val va none))

/-- PROTECT (R280). -/
def execProtect (u : Fin 21) (asid : Fin 1024) (va leaf : BitVec 64) (s : State) : Out :=
  submit s u 0x22 (ownsAsid s u asid.val) (fun s =>
    takeTurn s (.protect u.val asid.val va leaf) (fun s => remap s u.val asid.val va (some leaf)))

/-- The size of the page that an ASID maps at an address. -/
def mappedBig (s : State) (asid va : Nat) : Option Bool :=
  match walk s.mem [] (rootOf s asid) va with
  | .inr l => some l.big
  | .inl _ => none

/-- A mapping command that writes no line takes its point at the homes of its page, once they are free (R331, R337). -/
def mappingPoint (s : State) (u asid va : Nat) (big : Bool) (again : Arrival) (go : State → State) : State :=
  let homes := pageHomes s asid va big
  if !agentFree s (agentId 3 u) homes then laterAt s (agentId 3 u) homes again
  else (agentPoint (go s) (agentId 3 u) 0 homes asid [] []).1.reply u 0 []

/-- A registration of a synonym: checked, then made at its point (R280, R284). A 512 MiB alias page may hold no smaller
mapping. -/
def register (u asid : Nat) (va : Word) (casid : Nat) (cva : Word) (big : Bool) (s : State) : State :=
  let a := va.toNat
  let c := cva.toNat
  if 16384 ≤ s.maps.aliases.length || a % pageSize big != 0 || c % pageSize big != 0 ||
      (Tbl.find s.work.asids casid).isNone || mappedBig s casid c != some big ||
      mappedBig s asid a == some (!big) || (big && mappedBig s asid a != some true && covered s asid a true) ||
      (aliasIn s.maps.aliases asid a).isSome then (releaseNodes s (agentId 3 u) false).reply u 1 []
  else
    let e := (asid, a, casid, c, if big then 29 else 16)
    mappingPoint s u asid a big (.areg u asid va casid cva big) (fun s =>
      { s with maps := { s.maps with aliases := s.maps.aliases ++ [e] } })

/-- AREG (R280, R284, R337). -/
def execAreg (u : Fin 21) (asid : Fin 1024) (va : BitVec 64) (casid : Fin 1024) (cva : BitVec 64) (big : Bool) (s : State) : Out :=
  submit s u 0x23 (ownsAsid s u asid.val) (fun s =>
    takeTurn s (.areg u.val asid.val va casid.val cva big) (register u.val asid.val va casid.val cva big))

/-- The removal of a registration, whose page must be unmapped (R280). -/
def unregister (u asid : Nat) (va : Word) (s : State) : State :=
  let hit (e : Nat × Nat × Nat × Nat × Nat) : Bool := e.1 == asid && e.2.1 == va.toNat
  if !s.maps.aliases.any hit || (mappedBig s asid va.toNat).isSome then (releaseNodes s (agentId 3 u) false).reply u 1 []
  else
    let big := s.maps.aliases.any (fun e => hit e && e.2.2.2.2 == 29)
    mappingPoint s u asid va.toNat big (.adel u asid va) (fun s =>
      { s with maps := { s.maps with aliases := s.maps.aliases.filter (fun e => !hit e) } })

/-- ADEL (R280, R337). -/
def execAdel (u : Fin 21) (asid : Fin 1024) (va : BitVec 64) (s : State) : Out :=
  submit s u 0x24 (ownsAsid s u asid.val) (fun s => takeTurn s (.adel u.val asid.val va) (unregister u.val asid.val va))

/-- Whether a caller may freeze and restore tiles: the physical function or a supervisor (R441). -/
def mayFreeze (u : Fin 21) : Bool := u == 0 || isSuper u

/-- Whether a number names a tile of a present cluster. -/
def tileThere (s : State) (tile : Nat) : Bool := tile < 1088 && (presentClusters s).contains (tileCluster tile)

/-- Whether a tile holds a supervisor slot (R396). -/
def holdsSuper (tile : Nat) : Bool := (List.range 4).any (fun d => tileOf (superTid d) == tile)

/-- FREEZE (R395-R397). -/
def execFreeze (u : Fin 21) (tiles : List Nat) (s : State) : Out :=
  submit s u 0x30 (mayFreeze u) (fun s =>
    if tiles.any (fun t => !tileThere s t) || (isSuper u && tiles.any holdsSuper) then s.reply u.val 1 []
    else if tiles.any (fun t => !tileTakes s t) then s.reply u.val 2 []
    else ((tiles.foldl (fun l t => addOnce t l) []).foldl freezeTile s).reply u.val 0 [])

/-- SAVE (R395, R396, R403): the image and the Pond overflow lie in near memory of ASID 0. -/
def execSave (u : Fin 21) (tile : Nat) (image pond : BitVec 64) (s : State) : Out :=
  submit s u 0x31 (mayFreeze u) (fun s =>
    let x := s.tile tile
    if !(x.state == .frozen || x.state == .saved) || x.saving.isSome then s.reply u.val 2 []
    else if image.toNat % 65536 ≠ 0 ∨ pond.toNat % 65536 ≠ 0 ∨
        (spanFrames s image.toNat .write (imageSize tile / 65536)).isNone ∨ (spanFrames s pond.toNat .write 1).isNone then
      s.reply u.val 1 []
    else s.mapTile tile (fun x => { x with saving := some (image, pond, u.val), late := (tileThreads s tile).any goesOn }))

/-- THAW (R396, R406, R408). -/
def execThaw (u : Fin 21) (tile : Nat) (s : State) : Out :=
  submit s u 0x32 (mayFreeze u) (fun s =>
    let x := s.tile tile
    if !(x.state == .frozen || x.state == .saved) || x.saving.isSome then s.reply u.val 2 []
    else (thawTile s tile).reply u.val 0 [])

/-- VACATE (R395, R396). -/
def execVacate (u : Fin 21) (tile : Nat) (s : State) : Out :=
  submit s u 0x33 (mayFreeze u) (fun s =>
    let x := s.tile tile
    if x.state != .saved || x.saving.isSome then s.reply u.val 2 []
    else (vacateTile s tile).reply u.val 0 [])

/-- RESTORE (R407, R409): refused with a record on lane R of the target's die, with STATE where a tile's state is why (R395), or
loading begins. -/
def execRestore (u : Fin 21) (image : BitVec 64) (target : Nat) (arch : Bool) (s : State) : Out :=
  submit s u 0x34 (mayFreeze u) (fun s =>
    if !tileThere s target then s.reply u.val 1 []
    else match restoreFault s (readHeader s image) target arch with
      | 0 => s.mapTile target (fun x => { x with loading := some (image, arch, u.val) })
      | k => refuseRestore s u.val target (rawTile s image) k)

/-- The image, of those that SAVE has written, that lies at an address: a copy of it as well, which its generation names (R395,
R406). -/
def imageAt (s : State) (image : Word) : Option Image :=
  (readHeader s image).bind (fun h => s.freeze.images.find? (fun i => i.gen == h.gen))

/-- DISCARD (R395). -/
def execDiscard (u : Fin 21) (image : BitVec 64) (s : State) : Out :=
  submit s u 0x35 (mayFreeze u) (fun s =>
    match imageAt s image with
    | none => s.reply u.val 1 []
    | some i => (discardImage s i).reply u.val 0 [])

/-- PLACE (R86): in range, from the next balancing interval on. -/
def execPlace (u : Fin 21) (interval threshold aging : Nat) (s : State) : Out :=
  submit s u 0x40 (u == 0) (fun s =>
    if [1024, 2048, 4096, 8192, 16384, 32768, 65536].contains interval ∧ 8 ≤ threshold ∧ threshold ≤ 1024 ∧
        1 ≤ aging ∧ aging ≤ 255 then
      { s with work := { s.work with nextParams := some (interval, threshold, aging) } }.reply u.val 0 []
    else s.reply u.val 1 [])

/-- The launch of a function with a number: where numbers have begun again at an enabling, the latest (R56, R70). -/
def launchBy (s : State) (f seq : Nat) : Option Nat :=
  (List.range s.work.launches.length).reverse.find? (fun k =>
    ((s.launchAt k).map (fun l => l.fn == f && l.seq == seq)).getD false)

/-- GRIDMAP (R70): a launch's map. -/
def execGridmap (u : Fin 21) (f : Fin 17) (seq : Nat) (s : State) : Out :=
  submit s u 0x41 (u.val == f.val) (fun s =>
    match (launchBy s f.val seq).bind s.launchAt with
    | none => s.reply u.val 1 []
    | some l => s.reply u.val 0 (l.map.map (BitVec.ofNat 8)))

/-- Whether the host driver stands in for a supervisor: its slot is parked, or its tile is frozen (R379, R396). -/
def hostStands (s : State) : Bool :=
  (List.range 4).any (fun d => tileFrozen s (tileOf (superTid d)) || (s.thread (superTid d)).any (fun t => t.place == .parked))

/-- ABORT (R436, R446): of the launch's owner, of a supervisor, or of the host in a supervisor's stead (R104). -/
def execAbort (u : Fin 21) (f : Fin 17) (seq : Nat) (s : State) : Out :=
  submit s u 0x42 (u.val == f.val || isSuper u || (u == 0 && hostStands s)) (fun s =>
    match launchBy s f.val seq with
    | none => s.reply u.val 1 []
    | some k =>
      if ((s.launchAt k).map (fun l => l.complete || (l.acked && launchIdle s k l))).getD true then s.reply u.val 1 []
      else (endLaunch s k 2).reply u.val 0 [])

/-- SHARE (R97): reads or sets the guest share of a big core; an absent cluster has none. -/
def execShare (u : Fin 21) (cluster : Fin 64) (value : Option (BitVec 4)) (s : State) : Out :=
  submit s u 0x43 (mayFreeze u) (fun s =>
    if s.boot.absent.contains cluster.val then s.reply u.val 1 []
    else
    let s := match value with
      | some x => { s with shares := Tbl.put s.shares cluster.val x }
      | none => s
    s.reply u.val 0 (bytesOf 8 (Tbl.at s.shares cluster.val 8).toNat))

/-- The sizes that BAR2 can take: 64 MiB to 256 GiB (R423). -/
def barSizes : List Nat := (List.range 13).map (fun k => 2 ^ (26 + k))

/-- APERTURE (R423, R425): one size for all virtual functions. -/
def execAperture (u : Fin 21) (f : Fin 17) (size : Nat) (apva : BitVec 64) (s : State) : Out :=
  submit s u 0x50 (u == 0) (fun s =>
    if !barSizes.contains size || apva.toNat % 65536 != 0 then s.reply u.val 1 []
    else
      let sized := if f = 0 then [0] else (List.range 16).map (fun k => k + 1)
      let s := sized.foldl (fun s k => s.mapFunc k (fun x => { x with barSize := size })) s
      (s.mapFunc f.val (fun x => { x with apva := apva })).reply u.val 0 [])

/-- The control block of a die and the bases of its rings are given: the bases are written into it as one point (R337, R380). -/
def giveBlock (u die : Nat) (va rbase hbase : Word) (s : State) : State :=
  let agent := agentId 3 u
  match placeCells s 0 .write (va.toNat + 32) (bytesOf 8 rbase.toNat ++ bytesOf 8 hbase.toNat) with
  | none => (releaseNodes s agent false).reply u 1 []
  | some cs =>
    if !agentFree s agent (nodesOf cs) then laterAt s agent (nodesOf cs) (.trcb u die va rbase hbase)
    else
      let s := writePlaced s agent 0 0 cs
      { s with tails := Tbl.put s.tails die { s.tail die with block := some va, rbase := rbase, hbase := hbase } }.reply u 0 []

/-- TRCB (R380): the control block of a die and the bases of its rings. -/
def execTrcb (u : Fin 21) (die : Fin 4) (va rbase hbase : BitVec 64) (s : State) : Out :=
  submit s u 0x51 (mayFreeze u) (fun s =>
    if va.toNat % 64 ≠ 0 ∨ rbase.toNat % 65536 ≠ 0 ∨ hbase.toNat % 16384 ≠ 0 then s.reply u.val 1 []
    else takeTurn s (.trcb u.val die.val va rbase hbase) (giveBlock u.val die.val va rbase hbase))

/-- PEERCFG (R432, R433): device number, routes and import windows. -/
def execPeercfg (u : Fin 21) (dev : BitVec 8) (routes : List (Nat × List Nat)) (windows : List (Nat × Nat × Nat × Nat))
    (s : State) : Out :=
  submit s u 0x52 (u == 0) (fun s =>
    if 64 < windows.length || windows.any (fun w => w.1 % 65536 != 0 || w.2.1 % 65536 != 0 || decide (8 ≤ w.2.2.2)) ||
        routes.any (fun r => decide (256 ≤ r.1) || r.2.any (fun p => decide (16 ≤ p))) then s.reply u.val 1 []
    else
      let table := routes.foldl (fun t r => Tbl.put t r.1 r.2) []
      { s with links := { s.links with device := dev.toNat, routes := table, windows := windows } }.reply u.val 0 [])

/-- The least supply of a clock state (R443). -/
def leastSupply (clock : Nat) : Option Nat :=
  match clock with
  | 1250 => some 600
  | 1000 => some 560
  | 800 => some 550
  | _ => none

/-- POWER (R443-R446): refused outside the limits; STATE until every sensor is below 95 °C after a trip, which the model
leaves to the outside (log 12: DESIGN CHOICE, unsafe). -/
def execPower (u : Fin 21) (clock mv : Nat) (s : State) : Out :=
  submit s u 0x60 (u == 0) (fun s =>
    match leastSupply clock with
    | none => s.reply u.val 1 []
    | some least =>
      if mv < 550 ∨ 750 < mv ∨ mv % 5 ≠ 0 ∨ mv < least then s.reply u.val 1 []
      else
        let cool := !s.power.hold || Config.freeBool s.free
        let s := if s.power.hold then { s with free := s.free + 1 } else s
        if !cool then s.reply u.val 2 []
        else if s.power.clock < clock then
          { s with power := { s.power with hold := false, mv := mv, was := s.power.mv, target := some (clock, mv, some u.val) } }
        else { s with power := { s.power with hold := false, clock := clock, mv := mv } }.reply u.val 0 [])

/-- THERM (R445): sensors, which the outside sets (log 12: DESIGN CHOICE, unsafe), and the trip log. -/
def execTherm (u : Fin 21) (die : Fin 4) (s : State) : Out :=
  submit s u 0x61 true (fun s =>
    let trips : List (Nat × Nat × Nat × Nat) := s.power.log.filter (fun e => e.1 == die.val)
    let bytes := trips.flatMap (fun e => [e.2.1, e.2.2.1, e.2.2.2].flatMap (bytesOf 8))
    { s with free := s.free + 1 }.reply u.val 0
      (bytesOf 8 (Config.freeNat s.free) ++ bytes))

/-- TELEM (R438). -/
def execTelem (u : Fin 21) (die : Fin 4) (s : State) : Out :=
  submit s u 0x62 true (fun s => s.reply u.val 0 ((Tbl.at s.telem die.val [0, 0, 0, 0, 0, 0, 0]).flatMap (bytesOf 8)))

/-- ERRLOG (R426, R429, R441). -/
def execErrlog (u : Fin 21) (f : Fin 17) (s : State) : Out :=
  submit s u 0x63 (u.val == f.val) (fun s =>
    s.reply u.val 0 ((s.func f.val).errlog.flatMap (fun e => bytesOf 8 e.1 ++ bytesOf 8 e.2)))

/-- SUPERVISOR_RESTART (R379): a supervisor slot that a trap has parked runs again from an address that the host gives. -/
def execSupervisorRestart (die : Fin 4) (pc : BitVec 64) (s : State) : Out :=
  match s.thread (superTid die.val) with
  | none => .next s
  | some t =>
    if t.place ≠ .parked then .next s
    else
      let r := { t.r with pc := pc &&& ~~~1#64 }
      .next (s.setThread { t with place := .run, trap := none, posted := false, r := r, wait := .none, stepping := false
                                  ex := newChunk r none (t.ex.gen + 1) })

/-- What an arrival that waits does when its turn comes again. -/
def runArrival (a : Arrival) (s : State) : State :=
  match a with
  | .write f off data => hostWriteLines f off data data.length s
  | .read f off len got bad => hostReadLines f off len got bad s
  | .atomic f off op size x y => hostAtomic f off op size x y s
  | .snoop line => snoopLine line s
  | .peer src off kind op data got begun => peerAccess src off kind op data got begun s
  | .unmap u asid va => remap s u asid va none
  | .protect u asid va leaf => remap s u asid va (some leaf)
  | .areg u asid va casid cva big => register u asid va casid cva big s
  | .adel u asid va => unregister u asid va s
  | .trcb u die va rbase hbase => giveBlock u die va rbase hbase s
  | .flr f => resetFunction f.val s
  | .tail f v => writeTail f v s

/-- An arrival that waits has its turn again; one that waits no more holds no node (R337). -/
def performArrival (a : Arrival) (s : State) : State :=
  let t := runArrival a s
  if s.links.waiting.length < t.links.waiting.length then t else releaseNodes t a.agent false

/-- What a function's driver reads at an offset of BAR0: its mailbox, its launch chain, its MSI-X table and its pending bits;
a read changes nothing, and a reserved offset reads 0 (R55, R423, R439). -/
def barRead (s : State) (f off : Nat) : Word :=
  let x := s.func f
  let b := s.box f
  if off % 8 ≠ 0 then 0
  else if 0x40 ≤ off ∧ off < 0x440 then BitVec.ofNat 64 (Memory.num b.req (off - 0x40) 8)
  else if 0x800 ≤ off ∧ off < 0x1000 then BitVec.ofNat 64 (ofBytes ((b.rep.drop (off - 0x800)).take 8))
  else if 0x2000 ≤ off ∧ off < 0x2040 then x.msixWord ((off - 0x2000) / 8)
  else match off with
    | 0x0000 => b.op
    | 0x0010 => b.stat
    | 0x0018 => b.len
    | 0x1000 => x.lcbase
    | 0x1008 => x.lcctl
    | 0x1010 => BitVec.ofNat 64 x.lchead
    | 0x1018 => BitVec.ofNat 64 x.lctail
    | 0x1020 => BitVec.ofNat 64 x.lcseq
    | 0x1028 => BitVec.ofNat 64 x.lcstat
    | 0x1030 => BitVec.ofNat 64 x.lcack
    | 0x3000 => BitVec.ofNat 64 (sumOf (x.pending.map (fun v => 2 ^ v)))
    | _ => 0

end Sys2Proof.Machine
end

