-- ==== Sys2Proof/Machine/Dispatch.lean ====
section
/-! DEFINITION. Sys2Proof/Machine/Dispatch.lean: the meaning of every instruction and device step. -/

namespace Sys2Proof.Machine

def exec (i : Instr) (s : State) : Host.Outcome State Fault Refusal :=
  match i with
  | .add w d a b z => Sys2Proof.Machine.execAdd w d a b z s
  | .sub w d a b z => Sys2Proof.Machine.execSub w d a b z s
  | .mul w d a b z => Sys2Proof.Machine.execMul w d a b z s
  | .mulh w d a b z => Sys2Proof.Machine.execMulh w d a b z s
  | .mulhz w d a b z => Sys2Proof.Machine.execMulhz w d a b z s
  | .div w d a b z => Sys2Proof.Machine.execDiv w d a b z s
  | .divz w d a b z => Sys2Proof.Machine.execDivz w d a b z s
  | .rem w d a b z => Sys2Proof.Machine.execRem w d a b z s
  | .remz w d a b z => Sys2Proof.Machine.execRemz w d a b z s
  | .and w d a b z => Sys2Proof.Machine.execAnd w d a b z s
  | .or w d a b z => Sys2Proof.Machine.execOr w d a b z s
  | .xor w d a b z => Sys2Proof.Machine.execXor w d a b z s
  | .andn w d a b z => Sys2Proof.Machine.execAndn w d a b z s
  | .shl w d a b z => Sys2Proof.Machine.execShl w d a b z s
  | .shr w d a b z => Sys2Proof.Machine.execShr w d a b z s
  | .sha w d a b z => Sys2Proof.Machine.execSha w d a b z s
  | .min w d a b z => Sys2Proof.Machine.execMin w d a b z s
  | .max w d a b z => Sys2Proof.Machine.execMax w d a b z s
  | .minz w d a b z => Sys2Proof.Machine.execMinz w d a b z s
  | .maxz w d a b z => Sys2Proof.Machine.execMaxz w d a b z s
  | .clz w d a z => Sys2Proof.Machine.execClz w d a z s
  | .ctz w d a z => Sys2Proof.Machine.execCtz w d a z s
  | .popc w d a z => Sys2Proof.Machine.execPopc w d a z s
  | .abs w d a z => Sys2Proof.Machine.execAbs w d a z s
  | .extb w d a b z => Sys2Proof.Machine.execExtb w d a b z s
  | .insb w d a b z => Sys2Proof.Machine.execInsb w d a b z s
  | .sel p d a b z => Sys2Proof.Machine.execSel p d a b z s
  | .lea h d a b z => Sys2Proof.Machine.execLea h d a b z s
  | .addi d a im z => Sys2Proof.Machine.execAddi d a im z s
  | .andi d a im z => Sys2Proof.Machine.execAndi d a im z s
  | .ori d a im z => Sys2Proof.Machine.execOri d a im z s
  | .xori d a im z => Sys2Proof.Machine.execXori d a im z s
  | .shli n d a z => Sys2Proof.Machine.execShli n d a z s
  | .shri n d a z => Sys2Proof.Machine.execShri n d a z s
  | .shai n d a z => Sys2Proof.Machine.execShai n d a z s
  | .li d im z => Sys2Proof.Machine.execLi d im z s
  | .lih d im z => Sys2Proof.Machine.execLih d im z s
  | .cmp w c p a b z => Sys2Proof.Machine.execCmp w c p a b z s
  | .cmpi c p a im z => Sys2Proof.Machine.execCmpi c p a im z s
  | .pand d a b z => Sys2Proof.Machine.execPand d a b z s
  | .por d a b z => Sys2Proof.Machine.execPor d a b z s
  | .pxor d a b z => Sys2Proof.Machine.execPxor d a b z s
  | .pnot d a z => Sys2Proof.Machine.execPnot d a z s
  | .pget d a z => Sys2Proof.Machine.execPget d a z s
  | .pput d a z => Sys2Proof.Machine.execPput d a z s
  | .pcnt d a z => Sys2Proof.Machine.execPcnt d a z s
  | .beq o a b z => Sys2Proof.Machine.execBeq o a b z s
  | .bne o a b z => Sys2Proof.Machine.execBne o a b z s
  | .blt o a b z => Sys2Proof.Machine.execBlt o a b z s
  | .bge o a b z => Sys2Proof.Machine.execBge o a b z s
  | .blo o a b z => Sys2Proof.Machine.execBlo o a b z s
  | .bhs o a b z => Sys2Proof.Machine.execBhs o a b z s
  | .bp o p im z => Sys2Proof.Machine.execBp o p im z s
  | .bnp o p im z => Sys2Proof.Machine.execBnp o p im z s
  | .jmp o z => Sys2Proof.Machine.execJmp o z s
  | .call o z => Sys2Proof.Machine.execCall o z s
  | .jr a im z => Sys2Proof.Machine.execJr a im z s
  | .callr a im z => Sys2Proof.Machine.execCallr a im z s
  | .loop o a z => Sys2Proof.Machine.execLoop o a z s
  | .ext d a z => Sys2Proof.Machine.execExt d a z s
  | .extget d a z => Sys2Proof.Machine.execExtget d a z s
  | .exti d im z => Sys2Proof.Machine.execExti d im z s
  | .extld d a im z => Sys2Proof.Machine.execExtld d a im z s
  | .fadd t d a b z => Sys2Proof.Machine.execFadd t d a b z s
  | .fsub t d a b z => Sys2Proof.Machine.execFsub t d a b z s
  | .fmul t d a b z => Sys2Proof.Machine.execFmul t d a b z s
  | .fmin t d a b z => Sys2Proof.Machine.execFmin t d a b z s
  | .fmax t d a b z => Sys2Proof.Machine.execFmax t d a b z s
  | .fsgn t d a b z => Sys2Proof.Machine.execFsgn t d a b z s
  | .fcmp t d a b z => Sys2Proof.Machine.execFcmp t d a b z s
  | .fcvt x y d a z => Sys2Proof.Machine.execFcvt x y d a z s
  | .frcp t d a z => Sys2Proof.Machine.execFrcp t d a z s
  | .frsq t d a z => Sys2Proof.Machine.execFrsq t d a z s
  | .frfn t d a b z => Sys2Proof.Machine.execFrfn t d a b z s
  | .fclass t d a z => Sys2Proof.Machine.execFclass t d a z s
  | .ffma t c d a b z => Sys2Proof.Machine.execFfma t c d a b z s
  | .dadd d a b z => Sys2Proof.Machine.execDadd d a b z s
  | .dsub d a b z => Sys2Proof.Machine.execDsub d a b z s
  | .dmul d a b z => Sys2Proof.Machine.execDmul d a b z s
  | .ddiv d a b z => Sys2Proof.Machine.execDdiv d a b z s
  | .dsqrt d a z => Sys2Proof.Machine.execDsqrt d a z s
  | .dmin d a b z => Sys2Proof.Machine.execDmin d a b z s
  | .dmax d a b z => Sys2Proof.Machine.execDmax d a b z s
  | .dcmp d a b z => Sys2Proof.Machine.execDcmp d a b z s
  | .dcvt x y d a z => Sys2Proof.Machine.execDcvt x y d a z s
  | .fexp2 d a z => Sys2Proof.Machine.execFexp2 d a z s
  | .flog2 d a z => Sys2Proof.Machine.execFlog2 d a z s
  | .fsin d a z => Sys2Proof.Machine.execFsin d a z s
  | .fcos d a z => Sys2Proof.Machine.execFcos d a z s
  | .fdiv d a b z => Sys2Proof.Machine.execFdiv d a b z s
  | .fsqrt d a z => Sys2Proof.Machine.execFsqrt d a z s
  | .dfma c d a b z => Sys2Proof.Machine.execDfma c d a b z s
  | .vadd t g d a b z => Sys2Proof.Machine.execVadd t g d a b z s
  | .vsub t g d a b z => Sys2Proof.Machine.execVsub t g d a b z s
  | .vmul t g d a b z => Sys2Proof.Machine.execVmul t g d a b z s
  | .vfma t g d a b z => Sys2Proof.Machine.execVfma t g d a b z s
  | .vmin t g d a b z => Sys2Proof.Machine.execVmin t g d a b z s
  | .vmax t g d a b z => Sys2Proof.Machine.execVmax t g d a b z s
  | .vsgn t g d a b z => Sys2Proof.Machine.execVsgn t g d a b z s
  | .vcmp t c p g a b z => Sys2Proof.Machine.execVcmp t c p g a b z s
  | .vand t g d a b z => Sys2Proof.Machine.execVand t g d a b z s
  | .vor t g d a b z => Sys2Proof.Machine.execVor t g d a b z s
  | .vxor t g d a b z => Sys2Proof.Machine.execVxor t g d a b z s
  | .vsel t g d a b z => Sys2Proof.Machine.execVsel t g d a b z s
  | .vshl t g d a b z => Sys2Proof.Machine.execVshl t g d a b z s
  | .vshr t g d a b z => Sys2Proof.Machine.execVshr t g d a b z s
  | .vsha t g d a b z => Sys2Proof.Machine.execVsha t g d a b z s
  | .viota t g d z => Sys2Proof.Machine.execViota t g d z s
  | .vcvt t y g d a z => Sys2Proof.Machine.execVcvt t y g d a z s
  | .vqnt f g d a b z => Sys2Proof.Machine.execVqnt f g d a b z s
  | .vscx g d a z => Sys2Proof.Machine.execVscx g d a z s
  | .vdot t g d a b z => Sys2Proof.Machine.execVdot t g d a b z s
  | .vreds t o g d a z => Sys2Proof.Machine.execVreds t o g d a z s
  | .vscan t o g d a z => Sys2Proof.Machine.execVscan t o g d a z s
  | .vperm t g d a b z => Sys2Proof.Machine.execVperm t g d a b z s
  | .vbcst t g d a z => Sys2Proof.Machine.execVbcst t g d a z s
  | .vcmpr t g d a z => Sys2Proof.Machine.execVcmpr t g d a z s
  | .vexpd t g d a z => Sys2Proof.Machine.execVexpd t g d a z s
  | .vgetl t g d a b z => Sys2Proof.Machine.execVgetl t g d a b z s
  | .vsetl t g d a b z => Sys2Proof.Machine.execVsetl t g d a b z s
  | .vrcp t g d a z => Sys2Proof.Machine.execVrcp t g d a z s
  | .vrsq t g d a z => Sys2Proof.Machine.execVrsq t g d a z s
  | .vtrn t n g d a z => Sys2Proof.Machine.execVtrn t n g d a z s
  | .ld w d a im z => Sys2Proof.Machine.execLd w d a im z s
  | .ldz w d a im z => Sys2Proof.Machine.execLdz w d a im z s
  | .st w d a im z => Sys2Proof.Machine.execSt w d a im z s
  | .vld h g d a im z => Sys2Proof.Machine.execVld h g d a im z s
  | .vst h g d a im z => Sys2Proof.Machine.execVst h g d a im z s
  | .vlds h g d a b z => Sys2Proof.Machine.execVlds h g d a b z s
  | .vsts h g d a b z => Sys2Proof.Machine.execVsts h g d a b z s
  | .vgath h g d a b z => Sys2Proof.Machine.execVgath h g d a b z s
  | .vscat h g d a b z => Sys2Proof.Machine.execVscat h g d a b z s
  | .vldf t g d a z => Sys2Proof.Machine.execVldf t g d a z s
  | .vstf t g d a z => Sys2Proof.Machine.execVstf t g d a z s
  | .pref h a z => Sys2Proof.Machine.execPref h a z s
  | .dscrd a z => Sys2Proof.Machine.execDscrd a z s
  | .copy d z => Sys2Proof.Machine.execCopy d z s
  | .copyw a z => Sys2Proof.Machine.execCopyw a z s
  | .copyq d z => Sys2Proof.Machine.execCopyq d z s
  | .zfill d z => Sys2Proof.Machine.execZfill d z s
  | .mma d z => Sys2Proof.Machine.execMma d z s
  | .mmaz d z => Sys2Proof.Machine.execMmaz d z s
  | .mdrn d z => Sys2Proof.Machine.execMdrn d z s
  | .mtrn d z => Sys2Proof.Machine.execMtrn d z s
  | .mrsum d z => Sys2Proof.Machine.execMrsum d z s
  | .amo w o d a b z => Sys2Proof.Machine.execAmo w o d a b z s
  | .amow o d a b z => Sys2Proof.Machine.execAmow o d a b z s
  | .red w o a b z => Sys2Proof.Machine.execRed w o a b z s
  | .redf o a b z => Sys2Proof.Machine.execRedf o a b z s
  | .redd o a b z => Sys2Proof.Machine.execRedd o a b z s
  | .amocas t c d a b z => Sys2Proof.Machine.execAmocas t c d a b z s
  | .amowcas c d a b z => Sys2Proof.Machine.execAmowcas c d a b z s
  | .vred t g d a b z => Sys2Proof.Machine.execVred t g d a b z s
  | .vbina t g a b z => Sys2Proof.Machine.execVbina t g a b z s
  | .chend z => Sys2Proof.Machine.execChend z s
  | .chid d z => Sys2Proof.Machine.execChid d z s
  | .bar n z => Sys2Proof.Machine.execBar n z s
  | .bara n z => Sys2Proof.Machine.execBara n z s
  | .barw n z => Sys2Proof.Machine.execBarw n z s
  | .waitv d a z => Sys2Proof.Machine.execWaitv d a z s
  | .fence e z => Sys2Proof.Machine.execFence e z s
  | .waitw z => Sys2Proof.Machine.execWaitw z s
  | .spawn a b z => Sys2Proof.Machine.execSpawn a b z s
  | .ospawn a b z => Sys2Proof.Machine.execOspawn a b z s
  | .wend z => Sys2Proof.Machine.execWend z s
  | .yield z => Sys2Proof.Machine.execYield z s
  | .csrr n d z => Sys2Proof.Machine.execCsrr n d z s
  | .csrw n d a z => Sys2Proof.Machine.execCsrw n d a z s
  | .csrs n d a z => Sys2Proof.Machine.execCsrs n d a z s
  | .csrc n d a z => Sys2Proof.Machine.execCsrc n d a z s
  | .trap c z => Sys2Proof.Machine.execTrap c z s
  | .brk c z => Sys2Proof.Machine.execBrk c z s
  | .eret z => Sys2Proof.Machine.execEret z s
  | .park z => Sys2Proof.Machine.execPark z s
  | .nop z => Sys2Proof.Machine.execNop z s
  | .ill => Sys2Proof.Machine.execIll s
  | .addC d a b => Sys2Proof.Machine.execAddC d a b s
  | .subC d a b => Sys2Proof.Machine.execSubC d a b s
  | .andC d a b => Sys2Proof.Machine.execAndC d a b s
  | .orC d a b => Sys2Proof.Machine.execOrC d a b s
  | .addiC d a im => Sys2Proof.Machine.execAddiC d a im s
  | .shliC n d a => Sys2Proof.Machine.execShliC n d a s
  | .shriC n d a => Sys2Proof.Machine.execShriC n d a s
  | .shaiC n d a => Sys2Proof.Machine.execShaiC n d a s
  | .liC d im => Sys2Proof.Machine.execLiC d im s
  | .ldDC d a im => Sys2Proof.Machine.execLdDC d a im s
  | .stDC d a im => Sys2Proof.Machine.execStDC d a im s
  | .beqC o a => Sys2Proof.Machine.execBeqC o a s
  | .bneC o a => Sys2Proof.Machine.execBneC o a s
  | .jmpC o => Sys2Proof.Machine.execJmpC o s
  | .jrC => Sys2Proof.Machine.execJrC s
  | .lcbaseWrite f v => Sys2Proof.Machine.execLcbaseWrite f v s
  | .lcctlEnable f v => Sys2Proof.Machine.execLcctlEnable f v s
  | .lcctlDisable f v => Sys2Proof.Machine.execLcctlDisable f v s
  | .lctailWrite f v => Sys2Proof.Machine.execLctailWrite f v s
  | .lcstatStoppedClear f => Sys2Proof.Machine.execLcstatStoppedClear f s
  | .lcstatFlagClear f badtail fetch => Sys2Proof.Machine.execLcstatFlagClear f badtail fetch s
  | .registerWrite f off v => Sys2Proof.Machine.execRegisterWrite f off v s
  | .recordTake f ok => Sys2Proof.Machine.execRecordTake f ok s
  | .cpItemDeliver l => Sys2Proof.Machine.execCpItemDeliver l s
  | .launchAcknowledge f => Sys2Proof.Machine.execLaunchAcknowledge f s
  | .launchComplete l => Sys2Proof.Machine.execLaunchComplete l s
  | .lockstepMismatch => Sys2Proof.Machine.execLockstepMismatch s
  | .firmwareRestartComplete => Sys2Proof.Machine.execFirmwareRestartComplete s
  | .coreTake l => Sys2Proof.Machine.execCoreTake l s
  | .nocluCoreRelease core => Sys2Proof.Machine.execNocluCoreRelease core s
  | .zeroingComplete tile => Sys2Proof.Machine.execZeroingComplete tile s
  | .shoeDispatch c => Sys2Proof.Machine.execShoeDispatch c s
  | .slotLoadComplete tid => Sys2Proof.Machine.execSlotLoadComplete tid s
  | .shoeItemArrive c => Sys2Proof.Machine.execShoeItemArrive c s
  | .shoeRefill c => Sys2Proof.Machine.execShoeRefill c s
  | .itemAging c => Sys2Proof.Machine.execItemAging c s
  | .gangSlotReserve agent => Sys2Proof.Machine.execGangSlotReserve agent s
  | .itemWalkHop => Sys2Proof.Machine.execItemWalkHop s
  | .balancingStep c => Sys2Proof.Machine.execBalancingStep c s
  | .fantailBatchArrive c => Sys2Proof.Machine.execFantailBatchArrive c s
  | .sluiceAccept d => Sys2Proof.Machine.execSluiceAccept d s
  | .sluiceRefill d => Sys2Proof.Machine.execSluiceRefill d s
  | .sluiceGrant tid => Sys2Proof.Machine.execSluiceGrant tid s
  | .sluiceMinimaExchange l => Sys2Proof.Machine.execSluiceMinimaExchange l s
  | .leaveToCommit l => Sys2Proof.Machine.execLeaveToCommit l s
  | .orderedTaskRetire l => Sys2Proof.Machine.execOrderedTaskRetire l s
  | .gvtSample => Sys2Proof.Machine.execGvtSample s
  | .chunkBoundary tid kind => Sys2Proof.Machine.execChunkBoundary tid kind s
  | .resultWriteback tid => Sys2Proof.Machine.execResultWriteback tid s
  | .memoryReply tid => Sys2Proof.Machine.execMemoryReply tid s
  | .penstockAdmit k => Sys2Proof.Machine.execPenstockAdmit k s
  | .shipRetry k => Sys2Proof.Machine.execShipRetry k s
  | .guestExecute c => Sys2Proof.Machine.execGuestExecute c s
  | .matrixJobComplete tid => Sys2Proof.Machine.execMatrixJobComplete tid s
  | .shipReply k => Sys2Proof.Machine.execShipReply k s
  | .cancelNotice k => Sys2Proof.Machine.execCancelNotice k s
  | .vscxTimeout tid => Sys2Proof.Machine.execVscxTimeout tid s
  | .chunkCommitRequest tid => Sys2Proof.Machine.execChunkCommitRequest tid s
  | .weirNodeGrant tid => Sys2Proof.Machine.execWeirNodeGrant tid s
  | .writeSignatureReceive tid tile => Sys2Proof.Machine.execWriteSignatureReceive tid tile s
  | .commitRelease tid => Sys2Proof.Machine.execCommitRelease tid s
  | .pinAcquire tid => Sys2Proof.Machine.execPinAcquire tid s
  | .serialTokenGrant => Sys2Proof.Machine.execSerialTokenGrant s
  | .appendElementAck line => Sys2Proof.Machine.execAppendElementAck line s
  | .hoistCopyStart c => Sys2Proof.Machine.execHoistCopyStart c s
  | .hoistPiece c ch => Sys2Proof.Machine.execHoistPiece c ch s
  | .barrierRelease k => Sys2Proof.Machine.execBarrierRelease k s
  | .waitvWake tid => Sys2Proof.Machine.execWaitvWake tid s
  | .waitvTimeout tid => Sys2Proof.Machine.execWaitvTimeout tid s
  | .tailracePost d => Sys2Proof.Machine.execTailracePost d s
  | .hostAtomicCompletion tid val => Sys2Proof.Machine.execHostAtomicCompletion tid val s
  | .peerResponse tid status data => Sys2Proof.Machine.execPeerResponse tid status data s
  | .peerTimeout tid => Sys2Proof.Machine.execPeerTimeout tid s
  | .watchdogExpiry tid commit => Sys2Proof.Machine.execWatchdogExpiry tid commit s
  | .eccUncorrectable tid va origin => Sys2Proof.Machine.execEccUncorrectable tid va origin s
  | .scrub key bad => Sys2Proof.Machine.execScrub key bad s
  | .pondAbsorb tile => Sys2Proof.Machine.execPondAbsorb tile s
  | .packetForward tile => Sys2Proof.Machine.execPacketForward tile s
  | .forwardEntryFree tile => Sys2Proof.Machine.execForwardEntryFree tile s
  | .saveComplete tile => Sys2Proof.Machine.execSaveComplete tile s
  | .restoreLoaded tile => Sys2Proof.Machine.execRestoreLoaded tile s
  | .hostWrite f off data => Sys2Proof.Machine.execHostWrite f off data s
  | .hostRead f off len => Sys2Proof.Machine.execHostRead f off len s
  | .hostAtomicop f off op size x y => Sys2Proof.Machine.execHostAtomicop f off op size x y s
  | .hostWriteAck ok => Sys2Proof.Machine.execHostWriteAck ok s
  | .cxlSnoop line => Sys2Proof.Machine.execCxlSnoop line s
  | .cxlBiResponse tid => Sys2Proof.Machine.execCxlBiResponse tid s
  | .peerAccessArrive src off kind op data => Sys2Proof.Machine.execPeerAccessArrive src off kind op data s
  | .peerPortDown port => Sys2Proof.Machine.execPeerPortDown port s
  | .functionLevelReset f => Sys2Proof.Machine.execFunctionLevelReset f s
  | .moduleReset => Sys2Proof.Machine.execModuleReset s
  | .thermalTrip die sensor temp => Sys2Proof.Machine.execThermalTrip die sensor temp s
  | .thermalCritical => Sys2Proof.Machine.execThermalCritical s
  | .powerVoltageSettled => Sys2Proof.Machine.execPowerVoltageSettled s
  | .mailboxCompletion u => Sys2Proof.Machine.execMailboxCompletion u s
  | .mapFillComplete => Sys2Proof.Machine.execMapFillComplete s
  | .mailboxUnknownCommand u code => Sys2Proof.Machine.execMailboxUnknownCommand u code s
  | .info u => Sys2Proof.Machine.execInfo u s
  | .fwload u addr len crcOk => Sys2Proof.Machine.execFwload u addr len crcOk s
  | .start u failed => Sys2Proof.Machine.execStart u failed s
  | .part u f clusters tiles => Sys2Proof.Machine.execPart u f clusters tiles s
  | .ascreate u asid root place owner => Sys2Proof.Machine.execAscreate u asid root place owner s
  | .asretire u asid => Sys2Proof.Machine.execAsretire u asid s
  | .quota u f n => Sys2Proof.Machine.execQuota u f n s
  | .map u asid va leaf big => Sys2Proof.Machine.execMap u asid va leaf big s
  | .unmap u asid va => Sys2Proof.Machine.execUnmap u asid va s
  | .protect u asid va leaf => Sys2Proof.Machine.execProtect u asid va leaf s
  | .areg u asid va casid cva big => Sys2Proof.Machine.execAreg u asid va casid cva big s
  | .adel u asid va => Sys2Proof.Machine.execAdel u asid va s
  | .freeze u tiles => Sys2Proof.Machine.execFreeze u tiles s
  | .save u tile image pond => Sys2Proof.Machine.execSave u tile image pond s
  | .thaw u tile => Sys2Proof.Machine.execThaw u tile s
  | .vacate u tile => Sys2Proof.Machine.execVacate u tile s
  | .restore u image target arch => Sys2Proof.Machine.execRestore u image target arch s
  | .discard u image => Sys2Proof.Machine.execDiscard u image s
  | .place u interval threshold aging => Sys2Proof.Machine.execPlace u interval threshold aging s
  | .gridmap u f seq => Sys2Proof.Machine.execGridmap u f seq s
  | .abort u f seq => Sys2Proof.Machine.execAbort u f seq s
  | .share u cluster value => Sys2Proof.Machine.execShare u cluster value s
  | .aperture u f size apva => Sys2Proof.Machine.execAperture u f size apva s
  | .trcb u die va rbase hbase => Sys2Proof.Machine.execTrcb u die va rbase hbase s
  | .peercfg u dev routes windows => Sys2Proof.Machine.execPeercfg u dev routes windows s
  | .power u clock mv => Sys2Proof.Machine.execPower u clock mv s
  | .therm u die => Sys2Proof.Machine.execTherm u die s
  | .telem u die => Sys2Proof.Machine.execTelem u die s
  | .errlog u f => Sys2Proof.Machine.execErrlog u f s
  | .doorbellWhileBusy u => Sys2Proof.Machine.execDoorbellWhileBusy u s
  | .hostOwnershipGrant tid => Sys2Proof.Machine.execHostOwnershipGrant tid s
  | .supervisorRestart die pc => Sys2Proof.Machine.execSupervisorRestart die pc s
  | .linkTrainingComplete width gen => Sys2Proof.Machine.execLinkTrainingComplete width gen s

end Sys2Proof.Machine
end

