-- ==== Sys2Proof/Machine/Due.lean ====
section
/-! DEFINITION. Sys2Proof/Machine/Due.lean: the device steps that a state makes due, each as what it does, those that must
come before the cycle passes, and the choice among them and the next instruction (log 5: DESIGN CHOICE, safe). What comes from
outside stands in inputs. -/

namespace Sys2Proof.Machine

/-- A device step, where a condition makes it due. -/
def dueIf (b : Bool) (f : State → Out) : List (State → Out) := if b then [f] else []

/-- Device steps of the command processors and launches (chapter 3). -/
def dueLaunch (s : State) : List (State → Out) :=
  s.funcs.flatMap (fun e =>
    let f : Fin 17 := Fin.ofNat 17 e.1
    dueIf (chainReady s e.1) (execRecordTake f true) ++
    dueIf (((firstUnacked s e.1).bind (fun k => (s.launchAt k).map (ackReady s k))).getD false) (execLaunchAcknowledge f)) ++
  (List.range s.work.launches.length).flatMap (fun k => match s.launchAt k with
    | none => []
    | some l =>
      dueIf (l.delivered < l.nitems && !l.complete) (execCpItemDeliver k) ++
      dueIf (l.acked && !l.complete && launchIdle s k l) (execLaunchComplete k) ++
      dueIf (!l.complete && !l.ended && ((demandOf s k l).isSome || (!l.noclu && (coresOf s k).isEmpty))) (execCoreTake k)) ++
  dueIf s.boot.lockRestart execFirmwareRestartComplete ++
  s.work.holds.flatMap (fun e => dueIf (coreIdle s e.1) (execNocluCoreRelease e.1)) ++
  s.work.zeroing.flatMap (fun e => dueIf (e.2 ≤ s.cycle) (execZeroingComplete e.1))

/-- Device steps of Shoes, gangs, walks and the Fantail (chapter 4). -/
def duePlace (s : State) : List (State → Out) :=
  s.work.arriving.map (fun e => execShoeItemArrive e.1) ++
  (s.work.batches.filter (fun e => decide (e.left < s.cycle))).map (fun e => execFantailBatchArrive e.goal) ++
  dueIf (walkDue s).isSome execItemWalkHop ++
  s.work.gangs.flatMap (fun g => dueIf (gangReady s g.agent) (execGangSlotReserve g.agent)) ++
  s.work.shoes.flatMap (fun e =>
    dueIf (shoeReady s e.1) (execShoeDispatch e.1) ++ dueIf (refillFor s e.1).isSome (execShoeRefill e.1) ++
    dueIf (e.2.items.any (fun i => i.aged < agingOf s i)) (execItemAging e.1) ++
    dueIf (!e.2.stepped) (execBalancingStep e.1))

/-- Grants of the Sluices to slots, one dispatch to a Shoe in a cycle (R76, R89). -/
def dueGrants (s : State) : List (State → Out) :=
  if s.work.tasks.isEmpty then []
  else (presentClusters s).flatMap (fun c => match grantChoice s c with
    | none => []
    | some (tid, _) => dueIf (shoeFree s c) (execSluiceGrant tid))

/-- The sample of the GVT at a multiple of 1,024 cycles (R92). -/
def dueGvt (s : State) : List (State → Out) :=
  dueIf (gvtDue s && !(s.work.tasks.isEmpty && s.work.gvt.isEmpty)) execGvtSample

/-- Device steps of the Sluices (chapter 4). -/
def dueSluice (s : State) : List (State → Out) :=
  s.work.offered.map (fun e => execSluiceAccept e.1) ++
  (s.work.tasks.filter Task.spilled).map (fun k => execSluiceRefill k.die) ++
  s.work.tasks.flatMap (fun k =>
    [execSluiceMinimaExchange k.launch, execLeaveToCommit k.launch, execOrderedTaskRetire k.launch]) ++
  dueGrants s ++ dueGvt s

/-- Device steps that a thread waits for, or that its commit takes (chapters 7, 15, 16, 17). -/
def dueThread (s : State) (t : Thread) : List (State → Out) :=
  dueIf (loadDue s t) (execSlotLoadComplete t.tid) ++
  dueIf (t.busy.any (localDone s t) || t.stale.any (fun e => e.due ≤ s.cycle)) (execResultWriteback t.tid) ++
  dueIf (t.busy.any (fun b => b.why == .load)) (execMemoryReply t.tid) ++
  dueIf (t.busy.any (fun b => b.why == .job) || (runningJob s t.tid).isSome) (execMatrixJobComplete t.tid) ++
  dueIf (trailDue t && tileTakes s (tileOf t.tid)) (fun s => .next (s.atCore t.tid trailStep)) ++
  (match t.com with
    | none => dueIf (t.fins.any (hasLeave s)) (execChunkCommitRequest t.tid)
    | some c => match c.phase with
      | .ended => [execChunkCommitRequest t.tid]
      | .requested => [execWeirNodeGrant t.tid]
      | .numbered =>
        if c.acks.isEmpty then [execCommitRelease t.tid] else c.acks.map (fun k => execWriteSignatureReceive t.tid k)
      | _ => []) ++
  dueIf (wantsPins t) (execPinAcquire t.tid) ++
  (match t.wait with
    | .waitv .. => execWaitvWake t.tid :: dueIf (watchOver s t) (execWaitvTimeout t.tid)
    | .vscx .. => dueIf (scxOver s t) (execVscxTimeout t.tid)
    | _ => []) ++
  dueIf (t.com.isSome && (watchdogFinds s t true).isSome) (execWatchdogExpiry t.tid true)

/-- Device steps of shipped instructions (chapter 7). -/
def dueShips (s : State) : List (State → Out) :=
  s.ships.flatMap (fun x =>
    if x.replied then [execShipReply x.id]
    else
      dueIf (x.cancelled && decide (x.noticeAt ≤ s.cycle)) (execCancelNotice x.id) ++
      dueIf ((s.thread x.tid).any (fun t => (watchdogFinds s t false).isSome)) (execWatchdogExpiry x.tid false) ++
      (if x.admitted then dueIf (!x.issued && guestTurn s x.cluster && (nextGuest s x.cluster).isSome) (execGuestExecute x.cluster)
       else if x.retryAt = 0 then [execPenstockAdmit x.id]
       else dueIf (x.retryAt ≤ s.cycle) (execShipRetry x.id)))

/-- Device steps of the Weir, the Hoists, barriers and the Tailraces. -/
def dueUnits (s : State) : List (State → Out) :=
  dueIf (s.weir.serial.isNone && !s.weir.serialQueue.isEmpty) execSerialTokenGrant ++
  (List.range s.weir.heldCounts.length).map (fun k => execAppendElementAck k) ++
  s.hoists.flatMap (fun e =>
    dueIf (!e.2.queue.isEmpty && (freeChannel e.2).isSome) (execHoistCopyStart e.1) ++
    e.2.channels.map (fun x => execHoistPiece e.1 (Fin.ofNat 4 x.1))) ++
  (List.range s.work.barriers.length).flatMap (fun k =>
    dueIf (((s.work.barriers[k]?).map (barrierFull s)).getD false) (execBarrierRelease k)) ++
  s.queues.flatMap (fun e => match e.2 with
    | [] => []
    | c :: _ => dueIf (!tileFrozen s (tileOf c.tid)) (execResultWriteback c.tid)) ++
  s.tails.flatMap (fun e => dueIf (!(e.2.waitH.isEmpty && e.2.waitR.isEmpty)) (execTailracePost e.1))

/-- Device steps of frozen and moving tiles (chapter 18). -/
def dueTiles (s : State) : List (State → Out) :=
  s.freeze.tiles.flatMap (fun e =>
    dueIf e.2.saving.isSome (execSaveComplete e.1) ++ dueIf e.2.loading.isSome (execRestoreLoaded e.1) ++
    dueIf (!tileTakes s e.1 && (nextPacket s e.1).isSome) (execPondAbsorb e.1) ++
    dueIf (hasOnward s e.1) (execPacketForward e.1) ++
    dueIf (e.2.forwards.any (forwardDone s e.1)) (execForwardEntryFree e.1))

/-- Device steps at the edge: peer accesses without a route, on a port that is down, or without an answer for 2^20
cycles; arrivals that wait; mailbox replies; fills; a settled supply (chapters 19 and 20). -/
def dueEdge (s : State) : List (State → Out) :=
  s.links.peerOut.flatMap (fun m =>
    if peerHead s m.tid = some m then
      (match m.port with
        | none => [execPeerResponse m.tid 1 []]
        | some _ => dueIf (onDown s m) (execPeerResponse m.tid 7 [])) ++
      dueIf (m.since + 2 ^ 20 ≤ s.cycle) (execPeerTimeout m.tid)
    else []) ++
  (List.range s.links.waiting.length).flatMap (fun k => match s.links.waiting[k]? with
    | none => []
    | some a =>
      dueIf (!(s.links.waiting.take k).any (fun b => b.source == a.source)) (fun s =>
        .next (performArrival a { s with links := { s.links with waiting := s.links.waiting.eraseIdx k } }))) ++
  s.boxes.flatMap (fun e => dueIf (e.2.busy && e.2.result.isSome) (execMailboxCompletion (Fin.ofNat 21 e.1))) ++
  dueIf (!s.maps.fills.isEmpty) execMapFillComplete ++
  dueIf s.power.target.isSome execPowerVoltageSettled

/-- The first input, where there is one: taking it is a device step of its own. -/
def dueInput (s : State) : List (State → Out) :=
  match s.inputs with
  | [] => []
  | i :: rest => [fun s => exec i { s with inputs := rest }]

/-- Device steps of a thread that have a stated time, and that time has come: a slot's loading ends (R73), a division's
result is written 36 cycles after its issue (R157), and a sleeper's or an exchange's time runs out (R253, R367). -/
def pressThread (s : State) (t : Thread) : List (State → Out) :=
  dueIf (loadDue s t && (t.launch.bind s.launchAt).isSome) (execSlotLoadComplete t.tid) ++
  dueIf (!tileFrozen s (tileOf t.tid) && t.busy.any (fun b => b.why == .div && decide (b.since + 36 ≤ s.cycle)))
    (execResultWriteback t.tid) ++
  dueIf (watchOver s t) (execWaitvTimeout t.tid) ++ dueIf (scxOver s t) (execVscxTimeout t.tid)

/-- Whether a Shoe dispatches an item in this cycle (R76). -/
def dispatches (s : State) (c : Nat) : Bool :=
  shoeReady s c && ((shoeChoice s c).bind (fun i => chooseSlot (eligible s c i))).isSome

/-- Device steps that must come before this cycle passes, because the spec gives their time: a slot is loaded in 6 cycles
(R73), a Shoe dispatches once in each cycle (R76), a Sluice grants (R89), a gang head whose slots are free reserves them (R79),
a hop of a walk ends (R81), a batch crosses a die boundary in 200 cycles at most (R85), every Shoe makes its balancing step
within the interval (R84), the GVT is sampled (R92), minima are at most 64 cycles old (R91), a tile is zeroed (R68), a
big core issues its guests (R97), a refused request goes again (R177), a peer's answer has its limit (R434). -/
def pressing (s : State) : List (State → Out) :=
  if s.power.critical then []
  else
    s.threads.flatMap (pressThread s) ++
    s.work.shoes.flatMap (fun e => dueIf (dispatches s e.1) (execShoeDispatch e.1)) ++ dueGrants s ++
    s.work.gangs.flatMap (fun g => dueIf (gangReady s g.agent) (execGangSlotReserve g.agent)) ++
    dueIf (walkDue s).isSome execItemWalkHop ++
    s.work.batches.flatMap (fun e => dueIf (e.due.any (fun n => decide (n ≤ s.cycle))) (execFantailBatchArrive e.goal)) ++
    s.work.shoes.flatMap (fun e => dueIf (s.work.lastBalance + s.work.interval ≤ s.cycle + 1 && !e.2.stepped)
      (execBalancingStep e.1)) ++
    dueGvt s ++ s.work.tasks.flatMap (fun k => dueIf (minimaOld s k.launch) (execSluiceMinimaExchange k.launch)) ++
    s.work.zeroing.flatMap (fun e => dueIf (e.2 ≤ s.cycle) (execZeroingComplete e.1)) ++
    s.ships.flatMap (fun x =>
      dueIf (x.admitted && guestTurn s x.cluster && (nextGuest s x.cluster).isSome) (execGuestExecute x.cluster) ++
      dueIf (!x.admitted && !x.replied && x.retryAt != 0 && decide (x.retryAt ≤ s.cycle)) (execShipRetry x.id)) ++
    s.links.peerOut.flatMap (fun m =>
      dueIf (peerHead s m.tid == some m && decide (m.since + 2 ^ 20 ≤ s.cycle)) (execPeerTimeout m.tid))

/-- Everything that can happen beside the next instruction. With every clock stopped only what comes from outside and
the replies of the mailbox remain (R445). -/
def due (s : State) : List (State → Out) :=
  if s.power.critical then
    dueInput s ++ s.boxes.flatMap (fun e => dueIf (e.2.busy && e.2.result.isSome) (execMailboxCompletion (Fin.ofNat 21 e.1)))
  else
    dueInput s ++ dueEdge s ++ dueTiles s ++ dueUnits s ++ dueShips s ++ s.threads.flatMap (dueThread s) ++ dueSluice s ++
    duePlace s ++ dueLaunch s

/-- The state in which a step acts: where something is due, a free choice has been drawn (log 5: DESIGN CHOICE, safe). -/
def drawn (s : State) : State := if (due s).isEmpty then s else { s with free := s.free + 1 }

/-- What happens in this step beside the next instruction: nothing where nothing is due; else one of the due device steps
or none, a free choice (log 5: DESIGN CHOICE, safe). -/
def chooseEvent (s : State) : Option Out :=
  match due s with
  | [] => none
  | l => (l[Config.freeNat s.free % (l.length + 1)]?).map (fun f => f (drawn s))

end Sys2Proof.Machine
end

