-- ==== Sys2Proof/Machine/Fetch.lean ====
section
/-! DEFINITION. Sys2Proof/Machine/Fetch.lean: the turn of the threads and what happens when one may issue: a trap that it
owes, a boundary, a fetch fault, or its next instruction (R127, R149, R154, R166, R385), and what follows the issue (R161,
R417). -/

namespace Sys2Proof.Machine

/-- Whether an instruction, as the first of a chunk, traps. -/
def trapsAlone (i : Instr) (s : State) : Bool :=
  match exec i (s.withCur { s.cur with com := none, ex := newChunk s.cur.r none s.cur.ex.gen }) with
  | .next u => u.cur.place == .parked
  | _ => false

/-- Whether an instruction, run as the next one of its chunk, itself calls for a boundary before it: one that closes its
chunk, also where only its access shows that, or would take it past a limit (R155, R166). -/
def callsBoundary (i : Instr) (s : State) : Bool :=
  match exec i s with
  | .next u =>
    u.cur.tid == s.cur.tid && u.cur.place == .run && u.cur.ex.count == 0 && !u.cur.mustSerial && u.cur.squashes == s.cur.squashes &&
    ((u.cur.r.pc == s.cur.r.pc && u.cur.stopAt.isNone) ||
      (s.cur.stopAt.isNone && u.cur.stopAt == some s.cur.ex.count && !trapsAlone i s))
  | _ => false

/-- The boundary before the issuing thread's next instruction, as the kind of CHUNK_BOUNDARY: 0 none, 1 a safe point alone, 2
capacity, 3 truncation, 4 one that the instruction calls for too, whose checkpoint is full (R166). -/
def boundaryDue (s : State) : Nat :=
  let k := boundaryBefore s s.cur
  if k ≠ 1 then k
  else match fetchWord s s.cur with
    | .ok w => match decode w with
      | some i => if callsBoundary i s then 4 else 1
      | none => 1
    | _ => 1

/-- The launch with TABLE set where the safe-point lookup of the issuing thread fails (R36). The tables are read when the
instruction issues: one whose fetch or decode traps reads none (log 27: DESIGN CHOICE, unsafe). -/
def noteTable (s : State) : State :=
  let t := s.cur
  if t.ex.count != 0 && !t.irrev && !t.inBody && decide (t.r.chmin.toNat ≤ t.ex.count) && safePointAt s t = .failed then
    markTable s t
  else s

/-- Whether the issuing thread may issue in this cycle (R154). -/
def canIssue (s : State) : Bool := s.boot.started && !s.power.critical && elected s s.cur

/-- A thread's core has issued: one of the instructions that it may issue in this cycle, and its pointer moves on (R154). -/
def State.spent (s : State) (tid : Nat) : State :=
  { s with turn := coreOf tid :: s.turn, barrel := Tbl.put s.barrel (coreOf tid) ((tid % 8 + 1) % (if isBig tid then 4 else 8)) }

/-- A cycle passes; with it a balancing interval may begin, whose occupancies are sampled then (R84, R86). -/
def State.tick (s : State) : State :=
  let s := { watchSlots s with cycle := s.cycle + 1, turn := [] }
  if intervalOver s then newInterval s else s

/-- Gives the turn to another thread that issues in this cycle, where there is one, the present one going to the end of
the list. -/
def passTurn (s : State) : Option State :=
  (s.others.find? (elected s)).map (fun t =>
    { s with cur := t, others := s.others.filter (fun u => u.tid != t.tid) ++ [s.cur] })

/-- The turn goes on: to another thread in this cycle, or to the next cycle, which comes when nothing must happen before it
(R154, log 18: DESIGN CHOICE, unsafe in timing). -/
def rotate (s : State) : State :=
  match passTurn s with
  | some s => s
  | none => if (pressing s).isEmpty then (passTurn s.tick).getD s.tick else s

/-- What a step does: nothing but let time pass or take a trap, a device step with its outcome, or an instruction. -/
inductive Plan where
  | rest (s : State)
  | event (o : Out)
  | run (i : Instr) (s : State)

/-- Whether something that a thread's last commit spawned is still on its way to a Shoe or a Sluice (R185). -/
def spawnPending (s : State) (t : Thread) : Bool :=
  let mine (i : Item) : Bool := t.launch == some i.launch && i.v == t.chseq.toNat / 65536 && t.chseq != 0
  s.work.arriving.any (fun e => mine e.2) || s.work.offered.any (fun e => mine e.2) || s.work.walking.any (fun w => mine w.item)

/-- The STEP trap that follows an instruction under single step: its record holds the address of the next instruction and
of the one executed (R385). The step ends when what it handed off has been received (R185). -/
def takeStep (s : State) : State :=
  let u := if s.cur.inBody then s else drain s
  if u.cur.clean && spawnPending u u.cur then u.stall
  else takeTrapRec u u.cur.r.pc (fun w => recordOf w w.cur cSTEP w.cur.r.pc (u.cur.stepOwed.getD 0) 0)

/-- What happens when the issuing thread may issue: a trap that it owes comes, or a boundary falls, or the fetch traps, or the
word is no instruction, or a busy register holds it, or the instruction runs (R127, R149, R154, R158, R166, R377, R385). -/
def issuePlan (s : State) : Plan :=
  if s.cur.stepOwed.isSome then .rest (takeStep s)
  else match s.cur.owing, s.cur.owed with
    | true, some r => .rest (takeOwed s r)
    | _, _ =>
      if boundaryDue s ≠ 0 then .event (execChunkBoundary s.cur.tid (Fin.ofNat 5 (boundaryDue s)) s)
      else match fetchWord s s.cur with
        | .trap c v w => .rest ((takeTrap s c v w).spent s.cur.tid)
        | .nomem p => .event (.fault (.noMemory p))
        | .ok w => match decode w with
          | none => .rest ((takeTrap s cILL (BitVec.ofNat 64 w) 0).spent s.cur.tid)
          | some i =>
            if holdsBack s s.cur i then .rest (rotate s) else .run i (noteTable s)

/-- A step in which the issuing thread issues nothing: another takes the turn, or a device step happens that must come before
the cycle passes, or the cycle passes; with every clock stopped none does (R445). -/
def idle (s : State) : Plan :=
  if s.power.critical then .rest s
  else match passTurn s, pressing s with
    | none, f :: _ => .event (f s)
    | _, _ => .rest (rotate s)

/-- The plan of a step: a device step that is due, or an input, chosen by a free choice before the issue (log 5: DESIGN CHOICE,
safe); else the issuing thread's next instruction. -/
def plan (s : State) : Plan :=
  match chooseEvent s with
  | some o => .event o
  | none => if canIssue (drawn s) then issuePlan (drawn s) else idle (drawn s)

/-- Whether a thread has issued, and not only been put off: a boundary fell first, or its access must wait (R154, R166). -/
def hasIssued (t u : Thread) : Bool :=
  !(t.place == u.place && t.r.pc == u.r.pc && (u.ex.count == t.ex.count || u.ex.count == 0) &&
    (u.wait == .none || u.wait == .commit))

/-- Whether an instruction of a thread has completed in place, or as a chunk of one. -/
def hasEnded (t u : Thread) : Bool :=
  (u.ex.gen == t.ex.gen && u.ex.count == t.ex.count + 1) || (t.clean && u.place == .run && u.r.pc == t.r.pc + 4)

/-- A vector command that has issued enters its core's queue: its register's write is scoreboarded where the queue was not
empty, and so is what waits for its place (R161, R293). -/
def enqueue (i : Instr) (tid : Nat) (s : State) : State :=
  match vectorCommand i, s.thread tid with
  | some r, some t =>
    if isBig tid then s
    else
      let q := s.queueOf (coreOf tid)
      let r := match r with
        | some reg => some reg
        | none => (loadSlot? i).filter (fun r => t.busy.any (fun b => b.why == .slot && b.reg == r))
      let long := t.busy.any (fun b => b.queued && some b.reg == r)
      let u := match r with
        | some reg => if q.isEmpty || long || reg == .g 0 || reg == .p 0 then t else t.hold reg .unit
        | none => t
      let c : VecCmd := ⟨tid, if q.isEmpty && !long then none else r⟩
      { (s.setThread u) with queues := Tbl.put s.queues (coreOf tid) (q ++ [c]) }
  | _, _ => s

/-- A register's content as an entry of the load-value queue. -/
def regVec (r : Regs) (x : Reg) : Vec :=
  match x with
  | .g n => r.g[n].setWidth 512
  | .p n => r.p[n].setWidth 512
  | .v n => r.v[n]
  | .e n => r.e[n].setWidth 512

/-- The value from outside its registers that an instruction has taken: what its destination has received, a pair whole, or the
data of a format-aware load whose conversion is shipped (R417). -/
def ledValue (s : State) (i : Instr) (u : Thread) : Vec :=
  match i with
  | .amow _ d .. | .amowcas _ d .. => u.r.g[evenReg d].setWidth 512 ||| u.r.g[oddReg d].setWidth 512 <<< 64
  | .vldf .. => if shipsOff i && !isBig u.tid then ((s.ships.find? (fun x => x.tid == u.tid && x.id + 1 == s.nextShip)).map Ship.x).getD 0
                else ((instrRegs i).head?.map (regVec u.r)).getD 0
  | _ => ((instrRegs i).head?.map (regVec u.r)).getD 0

/-- What the trailing thread takes for an instruction that has ended (R417). -/
def leadValues (s : State) (i : Instr) (u : Thread) : List Vec := List.replicate (takenValues i) (ledValue s i u)

/-- What follows an instruction's outcome in its thread: its cluster shares the lines that it has accessed, a vector command is
queued, a trailing thread has it to do, and the core has spent an issue (R154, R161, R343, R417). -/
def settled (i : Instr) (t : Thread) (s : State) : State :=
  match s.thread t.tid with
  | none => s.spent t.tid
  | some u =>
    let s := s.share (clusterOf u.tid) (u.ex.rlines ++ u.ex.wlines)
    let s := if hasEnded t u then enqueue i t.tid (s.setThread (u.leads t.ex.gen (leadValues s i u))) else s
    if hasIssued t u then s.spent t.tid else s

/-- The end of an issue: what follows it, and the turn goes on (R154). -/
def settle (i : Instr) (t : Thread) (o : Out) : Out :=
  match o with
  | .next s => .next (rotate (settled i t s))
  | .fault f => .fault f
  | .refused r => .refused r

/-- The ASID 0 tables, code page and running supervisor thread that withFetchWord gives a module that cannot fetch
(log 2: DESIGN CHOICE, unsafe): root, second and third node at 1 MiB, a code frame, VA 0x10000. -/
def bootMemory (m : Memory) : Memory :=
  let m := Memory.setNum m 0x100000 8 (0x11 * 2 ^ 24 + 1)
  let m := Memory.setNum m 0x110000 8 (0x12 * 2 ^ 24 + 1)
  Memory.setNum m 0x120008 8 (0x13 * 2 ^ 24 + 0x1F)

/-- A running supervisor thread at the start of the code page. -/
def bootThread (t : Thread) : Thread :=
  let r := { t.r with pc := 0x10000 }
  { t.still with super := true, asid := 0, place := .run, r := r, ready := 0, com := none, trail := none, slots := 0
                 stepping := false, ordered := false, irrev := false, mustPin := false, mustSerial := false
                 ex := newChunk r none 0 }

/-- The module made ready to fetch: cores started, one thread in RUN, its code page mapped, nothing else due: the other
slots hold no work, and the units are as after reset. -/
def bootState (s : State) : State :=
  { State.reset with
    cur := bootThread s.cur, others := s.others.map (fun t => Thread.fresh t.tid t.super)
    cycle := s.cycle, free := s.free, mem := bootMemory s.mem
    boot := { State.reset.boot with started := true, absent := s.boot.absent }
    work := { State.reset.work with asids := [(0, { root := 0x100000, directed := false, owner := 0 })] } }

/-- Whether the next step fetches and runs the instruction at PC. -/
def fetchReady (s : State) : Bool :=
  (due s).isEmpty && canIssue s && s.cur.r.pc.toNat % 2 == 0 && boundaryDue s == 0 &&
  s.cur.busy.isEmpty && s.cur.landed.isEmpty && s.cur.trail.isNone && slotFree s s.cur &&
  (s.queueOf (coreOf s.cur.tid)).isEmpty && s.poison.isEmpty && s.cur.stepOwed.isNone && s.cur.owed.isNone &&
  (match fetchLoc s s.cur s.cur.r.pc, fetchLoc s s.cur (s.cur.r.pc + 2) with
    | .ok _, .ok _ => true
    | _, _ => false)

/-- The memory with a code word laid out at a thread's PC as two little-endian halfwords (R126). -/
def putWord (s : State) (w : Nat) : State :=
  match fetchLoc s s.cur s.cur.r.pc, fetchLoc s s.cur (s.cur.r.pc + 2) with
  | .ok l, .ok l2 =>
    { s with mem := Memory.setNum (Memory.setNum s.mem l.key 2 (w % 65536)) l2.key 2 (w / 65536 % 65536) }
  | _, _ => s

end Sys2Proof.Machine
end

