-- ==== Sys2Proof/Machine/Step.lean ====
section
/-! DEFINITION. Sys2Proof/Machine/Step.lean: one step of the module: what plan chooses, run by exec. -/

namespace Sys2Proof.Machine

/-- One step: time passes or a trap is taken, a device step happens, or the issuing thread runs one instruction. -/
def step (s : State) : Host.Outcome State Fault Refusal :=
  match plan s with
  | .rest s => .next s
  | .event o => o
  | .run i t => settle i t.cur (exec i t)

/-- The state with an instruction laid out where the next step fetches; a module that cannot fetch is first made
ready (log 2: DESIGN CHOICE, unsafe). -/
def State.withFetchWord (s : State) (nbits w : Nat) : State :=
  putWord (if fetchReady s then s else bootState s) (w % 2 ^ nbits)

end Sys2Proof.Machine
end

