-- ==== Sys2Proof/Safety.lean ====
section
/-! DEFINITION. Sys2Proof/Safety.lean: what a safe run is, and the terms in which claims say what an instruction gives and
what it leaves alone. -/

namespace Sys2Proof

/-- A step that ends in a next state. -/
def Machine.stepsOn (s : Machine.State) : Prop := ∃ t, Machine.step s = .next t

/-- A run of n steps that ends in a state. -/
inductive Machine.Runs : Machine.State → Nat → Machine.State → Prop where
  | refl (s : Machine.State) : Machine.Runs s 0 s
  | step {s t u : Machine.State} {n : Nat} (h : Machine.step s = .next t) (r : Machine.Runs t n u) :
      Machine.Runs s (n + 1) u

/-- A state from which every run keeps going. -/
def Machine.Safe (s : Machine.State) : Prop := ∀ n t, Machine.Runs s n t → Machine.stepsOn t

/-- A run without end, by its states. -/
def Machine.Endless (r : Nat → Machine.State) : Prop := ∀ n, Machine.step (r n) = .next (r (n + 1))

/-- The choices of a run without end are fair: a device step that stays due is taken, and cycles pass. The promises of R99 are
promises of such runs; that the hardware makes no others is part of them (log 5: DEDUCED, safe). -/
structure Machine.Fair (r : Nat → Machine.State) : Prop where
  taken : ∀ f n, (∀ m, n ≤ m → f ∈ Machine.due (r m)) → ∃ m, n ≤ m ∧ Machine.step (r m) = f (Machine.drawn (r m))
  cycles : ∀ n, ∃ m, n ≤ m ∧ (r n).cycle < (r m).cycle

namespace Machine

/-- No register of a list is read early under the checking scoreboard (R159). -/
def State.readable (s : State) (srcs : List Reg) : Prop :=
  s.cur.r.sbchk = false ∨ firstEarly s.cur.stale s.cycle srcs = none

/-- Of the registers R100-R113 of the issuing thread only those listed may differ, with PC, FFLAGS and SRSEED. -/
structure KeepsRegs (s t : State) (g : List (Fin 32)) (p : List (Fin 8)) (v : List (Fin 32)) (e : List (Fin 8)) :
    Prop where
  gs : ∀ n : Fin 32, n ∉ g → t.cur.r.g[n] = s.cur.r.g[n]
  ps : ∀ n : Fin 8, n ∉ p → t.cur.r.p[n] = s.cur.r.p[n]
  vs : ∀ n : Fin 32, n ∉ v → t.cur.r.v[n] = s.cur.r.v[n]
  es : ∀ n : Fin 8, n ∉ e → t.cur.r.e[n] = s.cur.r.e[n]
  csrs : t.cur.r.fmode = s.cur.r.fmode ∧ t.cur.r.scxg = s.cur.r.scxg ∧ t.cur.r.waitto = s.cur.r.waitto ∧
    t.cur.r.chmin = s.cur.r.chmin ∧ t.cur.r.pin = s.cur.r.pin ∧ t.cur.r.sbchk = s.cur.r.sbchk ∧
    t.cur.r.level = s.cur.r.level ∧ t.cur.r.item = s.cur.r.item ∧ t.cur.r.copySeq = s.cur.r.copySeq

/-- Every byte of memory reads as before, both committed memory and what the thread's chunk reads; the other threads and
every unit of the module are as before. -/
structure KeepsModule (s t : State) : Prop where
  committed : ∀ a, Memory.get t.mem a = Memory.get s.mem a
  reads : ∀ a, readByte t t.cur a = readByte s s.cur a
  outside : t = s.withCur t.cur

/-- The frame of an instruction that only writes registers. -/
structure Frame (s t : State) (g : List (Fin 32)) (p : List (Fin 8)) (v : List (Fin 32)) (e : List (Fin 8)) :
    Prop where
  regs : KeepsRegs s t g p v e
  /-- the slot's identity, placement, trap registers, committing and finished chunks and counters stay -/
  slot : { t.cur with r := s.cur.r, stale := s.cur.stale, busy := s.cur.busy, ready := s.cur.ready,
                      stepOwed := s.cur.stepOwed, ex := s.cur.ex } = s.cur
  module : KeepsModule s t
  /-- the chunk only counts the instruction -/
  chunk : t.cur.ex = { s.cur.ex with count := s.cur.ex.count + 1 }

/-- FFLAGS and SRSEED stay. -/
def KeepsFlags (s t : State) : Prop := t.cur.r.fflags = s.cur.r.fflags ∧ t.cur.r.srseed = s.cur.r.srseed

/-- PC moves past an instruction of len bytes. -/
def Advances (s t : State) (len : Nat) : Prop := t.cur.r.pc = s.cur.r.pc + BitVec.ofNat 64 len

/-- The instruction completes: gd takes x (g0 keeps its contents), and nothing else changes. -/
def GivesG (s : State) (i : Instr) (len : Nat) (d : Fin 32) (x : Word) : Prop :=
  ∃ t, exec i s = .next t ∧ (if d = 0 then t.cur.r.g = s.cur.r.g else t.cur.r.g[d] = x) ∧ Advances s t len ∧
    KeepsFlags s t ∧ Frame s t [d] [] [] []

/-- The instruction completes: pd takes x (p0 keeps its contents), and nothing else changes. -/
def GivesP (s : State) (i : Instr) (d : Fin 8) (x : Pred) : Prop :=
  ∃ t, exec i s = .next t ∧ (if d = 0 then t.cur.r.p = s.cur.r.p else t.cur.r.p[d] = x) ∧ Advances s t 4 ∧
    KeepsFlags s t ∧ Frame s t [] [d] [] []

/-- The instruction completes: ed takes x, and nothing else changes. -/
def GivesE (s : State) (i : Instr) (d : Fin 8) (x : Word) : Prop :=
  ∃ t, exec i s = .next t ∧ t.cur.r.e[d] = x ∧ Advances s t 4 ∧ KeepsFlags s t ∧ Frame s t [] [] [] [d]

/-- The instruction completes: PC takes a value, and nothing else changes. -/
def GivesPc (s : State) (i : Instr) (x : Word) : Prop :=
  ∃ t, exec i s = .next t ∧ t.cur.r.pc = x ∧ KeepsFlags s t ∧ Frame s t [] [] [] []

/-- A branch of len bytes completes: PC takes the target where the condition holds, else moves on. -/
def GivesBranch (s : State) (i : Instr) (len : Nat) (c : Prop) [Decidable c] (target : Word) : Prop :=
  GivesPc s i (if c then target else s.cur.r.pc + BitVec.ofNat 64 len)

/-- A floating-point instruction completes: gd takes the result, FFLAGS gains its flags, the generator moves to seed, and
nothing else changes (R223, R231). -/
def GivesFp (s : State) (i : Instr) (d : Fin 32) (r : Nat × Flags) (seed : Word) : Prop :=
  ∃ t, exec i s = .next t ∧ (if d = 0 then t.cur.r.g = s.cur.r.g else t.cur.r.g[d] = BitVec.ofNat 64 r.1) ∧
    t.cur.r.fflags = s.cur.r.fflags ||| r.2 ∧ t.cur.r.srseed = seed ∧ Advances s t 4 ∧ Frame s t [d] [] [] []

/-- Where the result of a vector instruction goes: vd, gd where it is written at all, or pd (R101, R261). -/
def Dst.holds (d : Dst) (s t : State) (r : VRes) : Prop :=
  match d with
  | .v n => t.cur.r.v[n] = r.vec
  | .g n => if n = 0 ∨ r.writes = false then t.cur.r.g = s.cur.r.g else t.cur.r.g[n] = r.word
  | .p n => if n = 0 then t.cur.r.p = s.cur.r.p else t.cur.r.p[n] = r.pred

/-- The register lists of a destination. -/
def Dst.gs : Dst → List (Fin 32)
  | .g n => [n]
  | _ => []
def Dst.ps : Dst → List (Fin 8)
  | .p n => [n]
  | _ => []
def Dst.vs : Dst → List (Fin 32)
  | .v n => [n]
  | _ => []

/-- A vector instruction completes in the core: its destination takes the result, FFLAGS gains the flags of its elements,
the generator moves on, and nothing else changes. -/
def GivesV (s : State) (i : Instr) (d : Dst) (r : VRes) : Prop :=
  ∃ t, exec i s = .next t ∧ d.holds s t r ∧ t.cur.r.fflags = s.cur.r.fflags ||| joinFlags r.elems ∧
    t.cur.r.srseed = r.seed ∧ Advances s t 4 ∧ Frame s t d.gs d.ps d.vs []

/-- No flag of a list of elements is enabled to trap (R224). -/
def quietFlags (s : State) (l : List Flags) : Prop := joinFlags l &&& enOf s.cur.r.fmode = 0

/-- The frame of an access of the executing chunk: registers other than those listed, the slot, committed memory and the
rest of the module are as before; the chunk counts the instruction. -/
structure AccessFrame (s t : State) (g : List (Fin 32)) (p : List (Fin 8)) (v : List (Fin 32)) (e : List (Fin 8)) :
    Prop where
  regs : KeepsRegs s t g p v e
  slot : { t.cur with r := s.cur.r, stale := s.cur.stale, busy := s.cur.busy, ready := s.cur.ready,
                      stepOwed := s.cur.stepOwed, ex := s.cur.ex } = s.cur
  committed : ∀ a, Memory.get t.mem a = Memory.get s.mem a
  outside : t = s.withCur t.cur
  count : t.cur.ex.count = s.cur.ex.count + 1

/-- What the chunk reads at every byte stays. -/
def SameReads (s t : State) : Prop := ∀ a, readByte t t.cur a = readByte s s.cur a

/-- The accesses go ahead in place: every page is reversible and local to the module or the host, nothing holds the
lines, no limit of the chunk is passed (R166, R278, R289, R345, R415), and the chunk is no serial one (R349). -/
structure GoesAhead (s : State) (ls : List (Word × Loc)) (n : Nat) (k : Access) : Prop where
  pages : ∀ e ∈ ls, e.2.irrev s = false ∧ e.2.peer = none
  free : screen s ls n k = none
  plain : s.cur.ex.serial = false ∧ s.cur.ex.answer = none

/-- The same of accesses that differ in how they access their places. -/
structure GoesAheadAll (s : State) (ps : List Probe) : Prop where
  pages : ∀ p ∈ ps, p.loc.irrev s = false ∧ p.loc.peer = none
  free : screenAll s ps = none
  plain : s.cur.ex.serial = false ∧ s.cur.ex.answer = none

/-- The thread stands where an instruction runs as a chunk of one: everything before it has committed, it runs no ordered body
and no serial chunk, and it has received nothing from outside the module (R170). -/
structure Alone (s : State) : Prop where
  clean : s.cur.clean = true
  body : s.cur.ex.task = none
  plain : s.cur.ex.serial = false ∧ s.cur.ex.outside = []

/-- The accesses make their instruction chunk-closing, because their pages are irrevocable, and go ahead as its chunk of one
(R151, R170, R278). -/
structure GoesAlone (s : State) (ls : List (Word × Loc)) (n : Nat) (k : Access) : Prop where
  alone : Alone s
  pages : ∀ e ∈ ls, e.2.irrev s = true ∧ e.2.peer = none
  free : screen s ls n k = none
  fresh : s.cur.ex.answer = none

/-- The accesses go ahead, in place or as a chunk of one. -/
def Goes (alone : Bool) (s : State) (ls : List (Word × Loc)) (n : Nat) (k : Access) : Prop :=
  if alone then GoesAlone s ls n k else GoesAhead s ls n k

/-- n bytes as the executing chunk reads them from a place, as a number (R3, R294). -/
def chunkNum (s : State) (l : Loc) (n : Nat) : Nat := readNum s s.cur l n

/-- The chunk's store of the low n bytes of x at a key: those bytes read as stored, every other byte as before (R3,
R294). -/
def Stores (s t : State) (key n x : Nat) : Prop :=
  (∀ j < n, readByte t t.cur (key + j) = BitVec.ofNat 8 (x / 256 ^ j)) ∧
  ∀ a, (a < key ∨ key + n ≤ a) → readByte t t.cur a = readByte s s.cur a

/-- The thread stands at a boundary and may close chunks: nothing of it is uncommitted, and it runs no ordered body that
would overflow (R170, R171). -/
structure AtBoundary (s : State) : Prop where
  clean : s.cur.clean = true
  body : s.cur.inBody = false

/-- A chunk-closing instruction completes: its chunk of one ends in a state u with the property, and commits (R170). -/
def Closes (s : State) (i : Instr) (P : State → Prop) : Prop := ∃ u, exec i s = .next u.sealed ∧ P u

/-- The trap that the instruction takes at a boundary: the slot parks with its registers kept, TRPC, TRVAL and TRVAL2 set
and the record handed to the Tailrace of its die; in a supervisor slot the record is fatal and goes to lane H. Memory
and the other threads stay (R375, R377, R379, R384). -/
def Parks (s : State) (i : Instr) (cause : Nat) (val val2 resume : Word) : Prop :=
  ∃ t r, exec i s = .next t ∧ t.cur.place = .parked ∧ t.cur.trpc = resume &&& ~~~1#64 ∧ t.cur.trap = some r ∧
    r.cause = cause ∧ r.pc = s.cur.r.pc ∧ r.val = val ∧ r.val2 = val2 ∧ r.tid = s.cur.tid ∧ r.asid = s.cur.asid ∧
    r.stamp = s.cycle ∧ r.cseq = s.cur.chseq ∧ r.laneH = (laneHOf cause || s.cur.super) ∧
    (r.fatal = true ↔ s.cur.super = true ∨ cause = cECCU ∨ cause = cPAIR) ∧
    (if r.laneH then (t.tail s.cur.die).waitH = (s.tail s.cur.die).waitH ++ [r]
     else (t.tail s.cur.die).waitR = (s.tail s.cur.die).waitR ++ [r]) ∧
    t.cur.r = s.cur.r ∧ t.cur.stepFlag = s.cur.stepFlag ∧ t.mem = s.mem ∧ t.others = s.others

/-- The chunk of one of a chunk-closing instruction that touches no memory: of the registers R100-R113 only those listed
may differ, with PC, FFLAGS and SRSEED; a pending barrier phase may change; the chunk counts the instruction and drops what
the thread waited for; memory, the other threads and every unit of the module are as before. -/
structure ClosedFrame (s u : State) (g : List (Fin 32)) (v : List (Fin 32)) : Prop where
  regs : KeepsRegs s u g [] v []
  slot : { u.cur with r := s.cur.r, stale := s.cur.stale, busy := s.cur.busy, ready := s.cur.ready,
                      stepOwed := s.cur.stepOwed, ex := s.cur.ex, pending := s.cur.pending } = s.cur
  outside : u = s.withCur u.cur
  chunk : u.cur.ex = { (if s.cur.irrev then s.cur.taken else s.cur).ex with count := s.cur.ex.count + 1 }

/-- A chunk that has touched no memory and buffers nothing, of a plain item. -/
structure Untouched (c : Chunk) : Prop where
  writes : c.writes = []
  lines : c.rlines = [] ∧ c.wlines = [] ∧ c.dlines = [] ∧ c.shared = [] ∧ c.excl = [] ∧ c.sysLines = []
  buffered : c.effects = [] ∧ c.hands = [] ∧ c.hostOut = [] ∧ c.later = []
  plain : c.serial = false ∧ c.task = none

/-- The instruction or device step completes in a state with the property. -/
def Leads (s : State) (i : Instr) (P : State → Prop) : Prop := ∃ t, exec i s = .next t ∧ P t

/-- The instruction completes, in place or as a chunk of one that then commits, in a state with the property. -/
def Performs (alone : Bool) (s : State) (i : Instr) (P : State → Prop) : Prop :=
  if alone then Closes s i P else Leads s i P

/-- A thread has become another. -/
def BecomesThread (t : State) (tid : Nat) (P : Thread → Prop) : Prop := ∃ u, t.thread tid = some u ∧ P u

/-- A mailbox takes the command of a doorbell: the doorbell is for it, nothing is outstanding, the module is in order, and
START has run where the command needs it (R440, R441). -/
structure Accepts (s : State) (u : Fin 21) (code : Nat) : Prop where
  mine : 17 ≤ u.val ∨ (s.box u.val).op.toNat % 65536 = code
  free : (s.box u.val).busy = false
  runs : s.power.critical = false ∧ s.boot.halted = false
  started : 3 < code → s.boot.started = true

/-- The command completes with a status and up to 2,048 reply bytes, which stand in the mailbox until they are given to the
caller (R440), in a state with the property. -/
def Replies (s : State) (i : Instr) (u : Fin 21) (code status : Nat) (bytes : List Byte) (P : State → Prop) : Prop :=
  Leads s i (fun t => (t.box u.val).busy = true ∧ (t.box u.val).code = code ∧
    (t.box u.val).result = some (status, bytes.take 2048) ∧ P t)

/-- The number of bits of an integer operation (R188). -/
def widthOf (w : Bool) : Nat := if w then 32 else 64

/-- The low bits of a register at the width of an integer operation, unsigned and signed (R190). -/
def lowBits (w : Bool) (x : Word) : Nat := x.toNat % 2 ^ widthOf w
def signedLow (w : Bool) (x : Word) : Int :=
  if 2 ^ (widthOf w - 1) ≤ lowBits w x then (lowBits w x : Int) - 2 ^ widthOf w else lowBits w x

/-- An N-bit result sign-extended into 64 bits (R188, R190). -/
def widen (w : Bool) (r : Int) : Word := (BitVec.ofInt (widthOf w) r).signExtend 64

/-- Bit i of a number counts from 0; its set bits below n. -/
def setBits (n x : Nat) : Nat := ((List.range n).filter (fun i => x.testBit i)).length

end Machine

end Sys2Proof
end

