-- ==== Sys2Proof/Certificates/Slice0/Obligations.lean ====
section
/-! DEFINITION. Sys2Proof/Certificates/Slice0/Obligations.lean: the statements for the provers. Each docstring names the
rules of spec/ that it formalises. -/

open Sys2Proof Sys2Proof.Machine

/-- R190: the twenty-four integer operations at both widths, as the rule's pseudocode computes them on the low N bits x
and y of the sources and their signed readings xs and ys; the N-bit result is sign-extended; only gd and PC change. -/
def Obligations.IntegerOperations : Prop :=
  ∀ (s : State) (w : Bool) (d a b : Fin 32) (z : Fin 8),
    let N := widthOf w
    let x := lowBits w (s.rg a)
    let y := lowBits w (s.rg b)
    let xs := signedLow w (s.rg a)
    let ys := signedLow w (s.rg b)
    let n := y % N
    (s.readable [.g a, .g b] →
      GivesG s (.add w d a b z) 4 d (widen w (x + y)) ∧
      GivesG s (.sub w d a b z) 4 d (widen w (x - y)) ∧
      GivesG s (.mul w d a b z) 4 d (widen w (x * y)) ∧
      GivesG s (.mulh w d a b z) 4 d (widen w (xs * ys / 2 ^ N)) ∧
      GivesG s (.mulhz w d a b z) 4 d (widen w (x * y / 2 ^ N : Nat)) ∧
      GivesG s (.div w d a b z) 4 d (widen w (if y = 0 then -1 else xs.tdiv ys)) ∧
      GivesG s (.divz w d a b z) 4 d (widen w (if y = 0 then 2 ^ N - 1 else (x / y : Nat))) ∧
      GivesG s (.rem w d a b z) 4 d (widen w (if y = 0 then xs else xs.tmod ys)) ∧
      GivesG s (.remz w d a b z) 4 d (widen w (if y = 0 then x else (x % y : Nat))) ∧
      GivesG s (.and w d a b z) 4 d (widen w (x &&& y : Nat)) ∧
      GivesG s (.or w d a b z) 4 d (widen w (x ||| y : Nat)) ∧
      GivesG s (.xor w d a b z) 4 d (widen w (x ^^^ y : Nat)) ∧
      GivesG s (.andn w d a b z) 4 d (widen w (x &&& (2 ^ N - 1 - y) : Nat)) ∧
      GivesG s (.shl w d a b z) 4 d (widen w (x <<< n : Nat)) ∧
      GivesG s (.shr w d a b z) 4 d (widen w (x >>> n : Nat)) ∧
      GivesG s (.sha w d a b z) 4 d (widen w (xs / 2 ^ n)) ∧
      GivesG s (.min w d a b z) 4 d (widen w (if xs ≤ ys then x else y)) ∧
      GivesG s (.max w d a b z) 4 d (widen w (if ys ≤ xs then x else y)) ∧
      GivesG s (.minz w d a b z) 4 d (widen w (if x ≤ y then x else y)) ∧
      GivesG s (.maxz w d a b z) 4 d (widen w (if y ≤ x then x else y))) ∧
    (s.readable [.g a] →
      GivesG s (.clz w d a z) 4 d (widen w (if x = 0 then N else N - 1 - Nat.log2 x : Nat)) ∧
      (∀ k : Nat, (if x = 0 then k = N else x.testBit k ∧ ∀ j < k, x.testBit j = false) →
        GivesG s (.ctz w d a z) 4 d (widen w k)) ∧
      GivesG s (.popc w d a z) 4 d (widen w (setBits N x)) ∧
      GivesG s (.abs w d a z) 4 d (widen w (if 0 ≤ xs then xs else -xs)))

/-- R191: the bit fields of EXTB and INSB; pos, len and sg stand in gb. -/
def Obligations.BitFields : Prop :=
  ∀ (s : State) (w : Bool) (d a b : Fin 32) (z : Fin 8),
    let N := widthOf w
    let x := lowBits w (s.rg a)
    let pos := (s.rg b).toNat % 2 ^ 6
    let len := (s.rg b).toNat / 2 ^ 8 % 2 ^ 7
    let k := if N ≤ pos then 0 else min len (N - pos)
    let f := x / 2 ^ pos % 2 ^ k
    let old := lowBits w (s.rg d)
    let mask := (2 ^ k - 1) * 2 ^ pos
    (s.readable [.g a, .g b] → GivesG s (.extb w d a b z) 4 d
      (widen w (if (s.rg b).getLsbD 16 ∧ 0 < k ∧ f.testBit (k - 1) then (f : Int) - 2 ^ k else f))) ∧
    (s.readable [.g a, .g b, .g d] → GivesG s (.insb w d a b z) 4 d
      (widen w ((old &&& (2 ^ N - 1 - mask % 2 ^ N)) ||| (x % 2 ^ k * 2 ^ pos) : Nat)))

/-- R193: SEL and LEA. R194: the immediate forms; R195 with R135: LI and LIH. -/
def Obligations.SelectionsAndConstants : Prop :=
  (∀ (s : State) (p h : Fin 8) (d a b : Fin 32) (z : Fin 8),
     (s.readable [.p p, .g a, .g b] →
       GivesG s (.sel p d a b z) 4 d (if (s.rp p).getLsbD 0 then s.rg a else s.rg b)) ∧
     (s.readable [.g a, .g b] →
       GivesG s (.lea h d a b z) 4 d (BitVec.ofNat 64 ((s.rg a).toNat + (s.rg b).toNat * 2 ^ h.val)))) ∧
  (∀ (s : State) (d a : Fin 32) (i : BitVec 12) (n : BitVec 6) (k : BitVec 17) (z : Fin 8),
     (s.readable [.g a] →
       GivesG s (.addi d a i z) 4 d (BitVec.ofInt 64 ((s.rg a).toInt + i.toInt)) ∧
       GivesG s (.andi d a i z) 4 d (s.rg a &&& BitVec.ofInt 64 i.toInt) ∧
       GivesG s (.ori d a i z) 4 d (s.rg a ||| BitVec.ofInt 64 i.toInt) ∧
       GivesG s (.xori d a i z) 4 d (s.rg a ^^^ BitVec.ofInt 64 i.toInt) ∧
       GivesG s (.shli n d a z) 4 d (BitVec.ofNat 64 ((s.rg a).toNat * 2 ^ n.toNat)) ∧
       GivesG s (.shri n d a z) 4 d (BitVec.ofNat 64 ((s.rg a).toNat / 2 ^ n.toNat)) ∧
       GivesG s (.shai n d a z) 4 d (BitVec.ofInt 64 ((s.rg a).toInt / 2 ^ n.toNat))) ∧
     GivesG s (.li d k z) 4 d (BitVec.ofInt 64 k.toInt) ∧
     (s.readable [.g d] → GivesG s (.lih d k z) 4 d (BitVec.ofNat 64 ((s.rg d).toNat * 2 ^ 17 + k.toNat))))

/-- R146 with R145 and R131: the 16-bit forms that only write a register do what their expansions do, on g8 to g15, two
bytes long. -/
def Obligations.ShortForms : Prop :=
  ∀ (s : State) (d a b : Fin 8) (i n : BitVec 5) (k : BitVec 8),
    let D : Fin 32 := Fin.ofNat 32 (8 + d.val)
    let x := s.rg (Fin.ofNat 32 (8 + a.val))
    let y := s.rg (Fin.ofNat 32 (8 + b.val))
    (s.readable [.g (Fin.ofNat 32 (8 + a.val)), .g (Fin.ofNat 32 (8 + b.val))] →
      GivesG s (.addC d a b) 2 D (x + y) ∧ GivesG s (.subC d a b) 2 D (x - y) ∧
      GivesG s (.andC d a b) 2 D (x &&& y) ∧ GivesG s (.orC d a b) 2 D (x ||| y)) ∧
    (s.readable [.g (Fin.ofNat 32 (8 + a.val))] →
      GivesG s (.addiC d a i) 2 D (BitVec.ofInt 64 (x.toInt + i.toInt)) ∧
      GivesG s (.shliC n d a) 2 D (BitVec.ofNat 64 (x.toNat * 2 ^ n.toNat)) ∧
      GivesG s (.shriC n d a) 2 D (BitVec.ofNat 64 (x.toNat / 2 ^ n.toNat)) ∧
      GivesG s (.shaiC n d a) 2 D (BitVec.ofInt 64 (x.toInt / 2 ^ n.toNat))) ∧
    GivesG s (.liC d k) 2 D (BitVec.ofInt 64 k.toInt)

/-- R196: CMP and CMPI fill the predicate with the outcome of the condition. R197: the predicate operations. -/
def Obligations.ComparesAndPredicates : Prop :=
  (∀ (s : State) (w : Bool) (p : Fin 8) (a b : Fin 32) (i : BitVec 9) (z : Fin 8),
     let outcome (w : Bool) (u v : Word) (c : Fin 8) : Bool :=
       let x := lowBits w u
       let y := lowBits w v
       let xs := signedLow w u
       let ys := signedLow w v
       match c with
       | 0 => decide (x = y)
       | 1 => decide (x ≠ y)
       | 2 => decide (xs < ys)
       | 3 => decide (ys ≤ xs)
       | 4 => decide (x < y)
       | 5 => decide (y ≤ x)
       | 6 => decide (x &&& y ≠ 0)
       | 7 => decide (x &&& y = 0)
     ∀ c : Fin 8,
       (s.readable [.g a, .g b] →
         GivesP s (.cmp w c p a b z) p (if outcome w (s.rg a) (s.rg b) c then 0xFFFF else 0)) ∧
       (s.readable [.g a] →
         GivesP s (.cmpi c p a i z) p (if outcome false (s.rg a) (BitVec.ofInt 64 i.toInt) c then 0xFFFF else 0))) ∧
  (∀ (s : State) (d a b : Fin 8) (g : Fin 32) (z : Fin 8),
     (s.readable [.p a, .p b] →
       GivesP s (.pand d a b z) d (s.rp a &&& s.rp b) ∧ GivesP s (.por d a b z) d (s.rp a ||| s.rp b) ∧
       GivesP s (.pxor d a b z) d (s.rp a ^^^ s.rp b)) ∧
     (s.readable [.p a] →
       GivesP s (.pnot d a z) d (~~~(s.rp a)) ∧ GivesG s (.pget g a z) 4 g (BitVec.ofNat 64 (s.rp a).toNat) ∧
       GivesG s (.pcnt g a z) 4 g (BitVec.ofNat 64 (setBits 16 (s.rp a).toNat))) ∧
     (s.readable [.g g] → GivesP s (.pput d g z) d (BitVec.ofNat 16 (s.rg g).toNat)))

/-- R203: EXT, EXTGET and EXTI. R304 and R390: PREF, DSCRD and NOP have no architectural effect but the advance of PC. -/
def Obligations.ExtensionsAndHints : Prop :=
  (∀ (s : State) (e : Fin 8) (g : Fin 32) (k : BitVec 17) (z : Fin 8),
     (s.readable [.g g] → GivesE s (.ext e g z) e (s.rg g)) ∧
     (s.readable [.e e] →
       GivesG s (.extget g e z) 4 g (s.re e) ∧
       GivesE s (.exti e k z) e (BitVec.ofNat 64 ((s.re e).toNat * 2 ^ 17 + k.toNat)))) ∧
  (∀ (s : State) (h : Bool) (a : Fin 32) (z : Fin 8),
     GivesPc s (.nop z) (s.cur.r.pc + 4) ∧
     (s.readable [.g a] →
       GivesPc s (.pref h a z) (s.cur.r.pc + 4) ∧ GivesPc s (.dscrd a z) (s.cur.r.pc + 4)))

/-- R198, R199 and the short forms of R146: where a branch goes; nothing but PC changes. R200, R201 and the short forms of
R146: jumps and calls to an even target; CALL and CALLR link in g31. R202: LOOP counts in ga (g0 keeps its contents)
and goes back until the count is 0. -/
def Obligations.ControlTransfers : Prop :=
  (∀ (s : State) (o : BitVec 12) (o' : BitVec 8) (a b : Fin 32) (c : Fin 8) (p : Fin 8) (k : Fin 16) (z : Fin 8),
     let x := s.rg a
     let y := s.rg b
     let u := s.rg (Fin.ofNat 32 (8 + c.val))
     let target := s.cur.r.pc + BitVec.ofInt 64 (2 * o.toInt)
     let near := s.cur.r.pc + BitVec.ofInt 64 (2 * o'.toInt)
     (s.readable [.g a, .g b] →
       GivesBranch s (.beq o a b z) 4 (x = y) target ∧
       GivesBranch s (.bne o a b z) 4 (x ≠ y) target ∧
       GivesBranch s (.blt o a b z) 4 (x.toInt < y.toInt) target ∧
       GivesBranch s (.bge o a b z) 4 (y.toInt ≤ x.toInt) target ∧
       GivesBranch s (.blo o a b z) 4 (x.toNat < y.toNat) target ∧
       GivesBranch s (.bhs o a b z) 4 (y.toNat ≤ x.toNat) target) ∧
     (s.readable [.p p] →
       GivesBranch s (.bp o p k z) 4 ((s.rp p).getLsbD k.val = true) target ∧
       GivesBranch s (.bnp o p k z) 4 ((s.rp p).getLsbD k.val = false) target) ∧
     (s.readable [.g (Fin.ofNat 32 (8 + c.val))] →
       GivesBranch s (.beqC o' c) 2 (u = 0) near ∧ GivesBranch s (.bneC o' c) 2 (u ≠ 0) near)) ∧
  (∀ (s : State) (o : BitVec 22) (o' : BitVec 11) (a : Fin 32) (i : BitVec 12) (z : Fin 8),
     let t := s.rg a + BitVec.ofInt 64 i.toInt
     let calls (j : Instr) (target : Word) : Prop :=
       ∃ u, exec j s = .next u ∧ u.cur.r.pc = target ∧ u.cur.r.g[(31 : Fin 32)] = s.cur.r.pc + 4 ∧ KeepsFlags s u ∧
         Frame s u [31] [] [] []
     GivesPc s (.jmp o z) (s.cur.r.pc + BitVec.ofInt 64 (2 * o.toInt)) ∧
     GivesPc s (.jmpC o') (s.cur.r.pc + BitVec.ofInt 64 (2 * o'.toInt)) ∧
     calls (.call o z) (s.cur.r.pc + BitVec.ofInt 64 (2 * o.toInt)) ∧
     (s.readable [.g a] → t.getLsbD 0 = false → GivesPc s (.jr a i z) t ∧ calls (.callr a i z) t) ∧
     (s.readable [.g 31] → (s.rg 31).getLsbD 0 = false → GivesPc s .jrC (s.rg 31))) ∧
  (∀ (s : State) (o : BitVec 12) (a : Fin 32) (z : Fin 8), s.readable [.g a] →
     let c := s.rg a - 1
     ∃ t, exec (.loop o a z) s = .next t ∧
       t.cur.r.pc = (if c ≠ 0 then s.cur.r.pc + BitVec.ofInt 64 (2 * o.toInt) else s.cur.r.pc + 4) ∧
       (if a = 0 then t.cur.r.g = s.cur.r.g else t.cur.r.g[a] = c) ∧ KeepsFlags s t ∧ Frame s t [a] [] [] [])

/-- R233 to R240 under the common properties of R231: at the core each scalar floating-point instruction writes the value
and raises the flags that the arithmetic of Machine/Float.lean and Machine/Approx.lean gives, and takes one draw from
the generator where it rounds under RSR; no enabled flag is raised. R236: FSGN writes the encoding of ga with its sign
bit replaced by that of gb; every other bit of the type's width is kept, bits above it are 0, and no flag is raised.
(The model's own choices that it rests on: logs 10 and 17.) -/
def Obligations.ScalarFloats : Prop :=
  (∀ (s : State) (t x y : Fin 8) (k : Fin 4) (d a b c : Fin 32) (z : Fin 8),
     let m := s.cur.r.fmode
     let A := (s.rg a).toNat
     let B := (s.rg b).toNat
     let dr := drawFor m s.cur.r.srseed
     let f := fmtOf t.val
     let rounds (i : Instr) (r : Nat × Flags) : Prop := quietFlags s [r.2] → GivesFp s i d r dr.2
     let exact (i : Instr) (r : Nat × Flags) : Prop := quietFlags s [r.2] → GivesFp s i d r s.cur.r.srseed
     (s.readable [.g a, .g b] →
       rounds (.fadd t d a b z) (fAdd f m dr.1 A B) ∧ rounds (.fsub t d a b z) (fSub f m dr.1 A B) ∧
       rounds (.fmul t d a b z) (fMul f m dr.1 A B) ∧ rounds (.frfn t d a b z) (fRefine f m dr.1 A B) ∧
       exact (.fmin t d a b z) (fMinMax false f m A B) ∧ exact (.fmax t d a b z) (fMinMax true f m A B) ∧
       exact (.fcmp t d a b z) (fCmp f m A B) ∧ exact (.fsgn t d a b z) (fSgn f A B, 0)) ∧
     (s.readable [.g a] →
       exact (.fclass t d a z) (fClass f A, 0) ∧ rounds (.fcvt x y d a z) (fConvert x.val y.val m dr.1 A) ∧
       exact (.frcp t d a z) (rcpFn 0 f m A) ∧ exact (.frsq t d a z) (rcpFn 1 f m A)) ∧
     (s.readable [.g a, .g b, .g c] →
       rounds (.ffma k c d a b z) (fFma (fmtOf (k.val + 2)) m dr.1 A B (s.rg c).toNat))) ∧
  (∀ (s : State) (t : Fin 8) (d a b : Fin 32) (z : Fin 8), fopType t = true → d ≠ 0 → s.readable [.g a, .g b] →
     let w := laneWidth t.val
     ∃ u, exec (.fsgn t d a b z) s = .next u ∧ u.cur.r.fflags = s.cur.r.fflags ∧ u.cur.r.srseed = s.cur.r.srseed ∧
       ∀ j < 64, u.cur.r.g[d].getLsbD j =
         (if j < w - 1 then (s.rg a).getLsbD j else if j = w - 1 then (s.rg b).getLsbD j else false))

/-- R224: an instruction that would raise an enabled flag traps FPE with every flag that it would have raised in TRVAL and
1 in TRVAL2, and it writes no result and sets no flag. -/
def Obligations.EnabledFlagTraps : Prop :=
  ∀ (s : State) (t : Fin 8) (d a b : Fin 32) (z : Fin 8), AtBoundary s → s.readable [.g a, .g b] →
    let m := s.cur.r.fmode
    let dr := drawFor m s.cur.r.srseed
    let traps (i : Instr) (r : Nat × Flags) : Prop :=
      r.2 &&& enOf m ≠ 0 → Parks s i cFPE (r.2.setWidth 64) 1 s.cur.r.pc
    traps (.fadd t d a b z) (fAdd (fmtOf t.val) m dr.1 (s.rg a).toNat (s.rg b).toNat) ∧
    traps (.fsub t d a b z) (fSub (fmtOf t.val) m dr.1 (s.rg a).toNat (s.rg b).toNat) ∧
    traps (.fmul t d a b z) (fMul (fmtOf t.val) m dr.1 (s.rg a).toNat (s.rg b).toNat) ∧
    traps (.fcmp t d a b z) (fCmp (fmtOf t.val) m (s.rg a).toNat (s.rg b).toNat)

/-- R163, R233, R241: on a big core the heavy scalar instructions execute in place, with the arithmetic of their type.
R173, R174: a little core with a free reply slot ships a heavy scalar instruction: the request holds the operands, the
rounding mode and the generator; a reply slot is taken, the destination becomes busy, no register takes a value, and
the generator has advanced by the draws of the instruction. (The model's own choices that it rests on: logs 10 and
17.) -/
def Obligations.HeavyInstructions : Prop :=
  (∀ (s : State) (x y : Fin 8) (d a b c : Fin 32) (z : Fin 8), isBig s.cur.tid = true →
     let m := s.cur.r.fmode
     let A := (s.rg a).toNat
     let B := (s.rg b).toNat
     let dr := drawFor m s.cur.r.srseed
     let rounds (i : Instr) (r : Nat × Flags) : Prop := quietFlags s [r.2] → GivesFp s i d r dr.2
     let exact (i : Instr) (r : Nat × Flags) : Prop := quietFlags s [r.2] → GivesFp s i d r s.cur.r.srseed
     (s.readable [.g a, .g b] →
       rounds (.dadd d a b z) (fAdd .f64 m dr.1 A B) ∧ rounds (.dsub d a b z) (fSub .f64 m dr.1 A B) ∧
       rounds (.dmul d a b z) (fMul .f64 m dr.1 A B) ∧ rounds (.ddiv d a b z) (fDiv .f64 m dr.1 A B) ∧
       rounds (.fdiv d a b z) (fDiv .f32 m dr.1 A B) ∧
       exact (.dmin d a b z) (fMinMax false .f64 m A B) ∧ exact (.dmax d a b z) (fMinMax true .f64 m A B) ∧
       exact (.dcmp d a b z) (fCmp .f64 m A B)) ∧
     (s.readable [.g a] →
       rounds (.dsqrt d a z) (fSqrt .f64 m dr.1 A) ∧ rounds (.fsqrt d a z) (fSqrt .f32 m dr.1 A) ∧
       rounds (.dcvt x y d a z) (fConvert x.val y.val m dr.1 A) ∧
       exact (.fexp2 d a z) (transFn 0 .f32 m A) ∧ exact (.flog2 d a z) (transFn 1 .f32 m A) ∧
       exact (.fsin d a z) (transFn 2 .f32 m A) ∧ exact (.fcos d a z) (transFn 3 .f32 m A)) ∧
     (s.readable [.g a, .g b, .g c] → rounds (.dfma c d a b z) (fFma .f64 m dr.1 A B (s.rg c).toNat))) ∧
  (∀ (s : State) (x y : Fin 8) (d a b c : Fin 32) (z : Fin 8), isBig s.cur.tid = false →
     s.cur.slots < 4 → coreSlots s (coreOf s.cur.tid) < 16 →
     let ships (i : Instr) (B C : Word) (seed : Word) : Prop :=
       ∃ t k, exec i s = .next t ∧ t.ships = s.ships ++ [k] ∧ k.instr = i ∧ k.tid = s.cur.tid ∧ k.a = s.rg a ∧
         k.b = B ∧ k.c = C ∧ k.fmode = s.cur.r.fmode ∧ k.seed = s.cur.r.srseed ∧ k.gen = s.cur.ex.gen ∧
         k.cluster = clusterOf s.cur.tid ∧ k.replied = false ∧ t.nextShip = s.nextShip + 1 ∧
         t.cur.slots = s.cur.slots + 1 ∧ (d ≠ 0 → ⟨.g d, .ship s.nextShip, s.cur.ex.gen, 0⟩ ∈ t.cur.busy) ∧
         t.cur.wait = (if s.cur.ex.serialShip then .ship s.nextShip else s.cur.wait) ∧
         t.cur.r.srseed = seed ∧ t.cur.r.fflags = s.cur.r.fflags ∧ KeepsRegs s t [] [] [] [] ∧ Advances s t 4 ∧
         t.mem = s.mem ∧ t.others = s.others ∧ SameReads s t
     let drawn := (drawFor s.cur.r.fmode s.cur.r.srseed).2
     (s.readable [.g a, .g b] →
       ships (.dadd d a b z) (s.rg b) (s.rg 0) drawn ∧ ships (.dsub d a b z) (s.rg b) (s.rg 0) drawn ∧
       ships (.dmul d a b z) (s.rg b) (s.rg 0) drawn ∧ ships (.ddiv d a b z) (s.rg b) (s.rg 0) drawn ∧
       ships (.fdiv d a b z) (s.rg b) (s.rg 0) drawn ∧ ships (.dmin d a b z) (s.rg b) (s.rg 0) s.cur.r.srseed ∧
       ships (.dmax d a b z) (s.rg b) (s.rg 0) s.cur.r.srseed ∧
       ships (.dcmp d a b z) (s.rg b) (s.rg 0) s.cur.r.srseed) ∧
     (s.readable [.g a] →
       ships (.dsqrt d a z) (s.rg 0) (s.rg 0) drawn ∧ ships (.fsqrt d a z) (s.rg 0) (s.rg 0) drawn ∧
       ships (.dcvt x y d a z) (s.rg 0) (s.rg 0) drawn ∧ ships (.fexp2 d a z) (s.rg 0) (s.rg 0) s.cur.r.srseed ∧
       ships (.flog2 d a z) (s.rg 0) (s.rg 0) s.cur.r.srseed ∧ ships (.fsin d a z) (s.rg 0) (s.rg 0) s.cur.r.srseed ∧
       ships (.fcos d a z) (s.rg 0) (s.rg 0) s.cur.r.srseed) ∧
     (s.readable [.g a, .g b, .g c] → ships (.dfma c d a b z) (s.rg b) (s.rg c) drawn))

/-- R247 to R262: in the core (for every lane type but f64 on a little core, for every one on a big core) a vector
instruction writes what Machine/Lanes.lean computes from its sources, its guard and its old destination, raises the
flags of its elements, and changes nothing else; no element raises an enabled flag. R173, R174, R264: a little core with a
free reply slot ships the forms that are heavy: the request holds the guard and the operands, the destination becomes
busy, and the generator has advanced by the draws. (The model's own choices that it rests on: logs 10 and 17.) -/
def Obligations.VectorResults : Prop :=
  ∀ (s : State) (t y o n : Fin 8) (k : Fin 4) (g : Fin 4) (p : Fin 8) (d a b : Fin 32) (z : Fin 8),
    let m := s.cur.r.fmode
    let sd := s.cur.r.srseed
    let gv := s.rp (guardReg g)
    let va := s.rv a
    let vb := s.rv b
    let vd := s.rv d
    let big : Prop := isBig s.cur.tid = true
    let inCore : Prop := t ≠ 5 ∨ big
    let kept : List Reg := if g = 0 then [] else [.v d]
    let gives (i : Instr) (srcs : List Reg) (D : Dst) (r : VRes) : Prop :=
      s.readable (srcs ++ [.p (guardReg g)]) → quietFlags s r.elems → GivesV s i D r
    let two (i : Instr) : Prop := gives i ([.v a, .v b] ++ kept) (.v d) (vecCompute i m sd gv va vb vd 0 0 0)
    let acc (i : Instr) : Prop := gives i [.v a, .v b, .v d] (.v d) (vecCompute i m sd gv va vb vd 0 0 0)
    let one (i : Instr) : Prop := gives i ([.v a] ++ kept) (.v d) (vecCompute i m sd gv va 0 vd 0 0 0)
    let only (i : Instr) : Prop := gives i [.v a] (.v d) (vecCompute i m sd gv va 0 vd 0 0 0)
    (inCore →
      two (.vadd t g d a b z) ∧ two (.vsub t g d a b z) ∧ two (.vmul t g d a b z) ∧ acc (.vfma t g d a b z) ∧
      two (.vmin t g d a b z) ∧ two (.vmax t g d a b z) ∧ two (.vsgn t g d a b z) ∧ two (.vand t g d a b z) ∧
      two (.vor t g d a b z) ∧ two (.vxor t g d a b z) ∧ two (.vshl t g d a b z) ∧ two (.vshr t g d a b z) ∧
      two (.vsha t g d a b z) ∧ acc (.vdot t g d a b z) ∧ two (.vperm t g d a b z) ∧
      only (.vreds t o g d a z) ∧ one (.vscan t o g d a z) ∧ only (.vcmpr t g d a z) ∧ only (.vexpd t g d a z) ∧
      one (.vrcp t g d a z) ∧ one (.vrsq t g d a z) ∧
      gives (.vcmp t k p g a b z) ([.v a, .v b] ++ if g = 0 then [] else [.p p]) (.p p)
        (vecCompute (.vcmp t k p g a b z) m sd gv va vb 0 0 0 (s.rp p)) ∧
      gives (.vsel t g d a b z) [.v a, .v b] (.v d) (vecCompute (.vsel t g d a b z) m sd gv va vb vd 0 0 0) ∧
      gives (.vbcst t g d a z) ([.g a] ++ kept) (.v d) (vecCompute (.vbcst t g d a z) m sd gv 0 0 vd (s.rg a) 0 0) ∧
      gives (.vgetl t g d a b z) [.v a, .g b] (.g d) (vecCompute (.vgetl t g d a b z) m sd gv va 0 0 0 (s.rg b) 0) ∧
      gives (.vsetl t g d a b z) [.g a, .g b, .v d] (.v d)
        (vecCompute (.vsetl t g d a b z) m sd gv 0 0 vd (s.rg a) (s.rg b) 0)) ∧
    gives (.viota t g d z) kept (.v d) (vecCompute (.viota t g d z) m sd gv 0 0 vd 0 0 0) ∧
    gives (.vqnt t g d a b z) [.v a, .v b] (.v d) (vecCompute (.vqnt t g d a b z) m sd gv va vb vd 0 0 0) ∧
    ((t ≠ 5 ∧ y ≠ 5 ∨ big) → one (.vcvt t y g d a z)) ∧
    (big → one (.vtrn t n g d a z)) ∧
    (isBig s.cur.tid = false → slotFree s s.cur = true →
      let ships (i : Instr) (srcs : List Reg) (D : Option Reg) (x w v : Vec) (ga gb gc : Word) : Prop :=
        s.readable (srcs ++ [.p (guardReg g)]) →
        ∃ u q, exec i s = .next u ∧ u.ships = s.ships ++ [q] ∧ q.instr = i ∧ q.tid = s.cur.tid ∧ q.guard = gv ∧ q.x = x ∧
          q.y = w ∧ q.z = v ∧ q.a = ga ∧ q.b = gb ∧ q.c = gc ∧ q.fmode = m ∧ q.seed = sd ∧ q.gen = s.cur.ex.gen ∧
          q.cluster = clusterOf s.cur.tid ∧ u.nextShip = s.nextShip + 1 ∧ u.cur.slots = s.cur.slots + 1 ∧
          (∀ r, D = some r → ⟨r, .ship s.nextShip, s.cur.ex.gen, 0⟩ ∈ u.cur.busy) ∧
          u.cur.r.srseed = (vecCompute i m sd gv x w v ga gb (gc.setWidth 16)).seed ∧
          u.cur.r.fflags = s.cur.r.fflags ∧ KeepsRegs s u [] [] [] [] ∧ Advances s u 4 ∧ u.mem = s.mem ∧
          u.others = s.others ∧ SameReads s u
      (t = 5 →
        (∀ i ∈ [Instr.vadd t g d a b z, .vsub t g d a b z, .vmul t g d a b z, .vmin t g d a b z, .vmax t g d a b z,
            .vsgn t g d a b z, .vand t g d a b z, .vor t g d a b z, .vxor t g d a b z, .vshl t g d a b z,
            .vshr t g d a b z, .vsha t g d a b z, .vperm t g d a b z],
          ships i ([.v a, .v b] ++ kept) (some (.v d)) va vb vd 0 0 0) ∧
        (∀ i ∈ [Instr.vfma t g d a b z, .vdot t g d a b z], ships i [.v a, .v b, .v d] (some (.v d)) va vb vd 0 0 0) ∧
        (∀ i ∈ [Instr.vreds t o g d a z, .vcmpr t g d a z, .vexpd t g d a z],
          ships i [.v a] (some (.v d)) va 0 vd 0 0 0) ∧
        (∀ i ∈ [Instr.vscan t o g d a z, .vrcp t g d a z, .vrsq t g d a z],
          ships i ([.v a] ++ kept) (some (.v d)) va 0 vd 0 0 0) ∧
        ships (.vcmp t k p g a b z) ([.v a, .v b] ++ if g = 0 then [] else [.p p]) (if p = 0 then none else some (.p p))
          va vb 0 0 0 ((s.rp p).setWidth 64) ∧
        ships (.vsel t g d a b z) [.v a, .v b] (some (.v d)) va vb vd 0 0 0 ∧
        ships (.vbcst t g d a z) ([.g a] ++ kept) (some (.v d)) 0 0 vd (s.rg a) 0 0 ∧
        ships (.vgetl t g d a b z) [.v a, .g b] (if d = 0 then none else some (.g d)) va 0 0 0 (s.rg b) 0 ∧
        ships (.vsetl t g d a b z) [.g a, .g b, .v d] (some (.v d)) 0 0 vd (s.rg a) (s.rg b) 0) ∧
      (t = 5 ∨ y = 5 → ships (.vcvt t y g d a z) ([.v a] ++ kept) (some (.v d)) va 0 vd 0 0 0) ∧
      ships (.vtrn t n g d a z) ([.v a] ++ kept) (some (.v d)) va 0 vd 0 0 0)

/-- R247 with R249 and R251: for the integer lane types, element by element: an active element of VADD, VSUB, VMUL, VAND,
VOR and VXOR takes the low w bits of the operation, an inactive element keeps its bits, and no flag is raised. -/
def Obligations.IntegerElements : Prop :=
  ∀ (s : State) (t : Fin 8) (g : Fin 4) (d a b : Fin 32) (z : Fin 8), laneInt t = true →
    s.readable ([.v a, .v b] ++ (if g = 0 then [] else [.v d]) ++ [.p (guardReg g)]) →
    let w := laneWidth t.val
    let gives (i : Instr) (f : Nat → Nat → Nat) : Prop :=
      ∃ u, exec i s = .next u ∧ u.cur.r.fflags = s.cur.r.fflags ∧ u.cur.r.srseed = s.cur.r.srseed ∧
        Frame s u [] [] [d] [] ∧
        ∀ j < 512 / w, lane w u.cur.r.v[d] j =
          if (s.rp (guardReg g)).getLsbD (j * w / 32) then f (lane w (s.rv a) j) (lane w (s.rv b) j) % 2 ^ w
          else lane w (s.rv d) j
    gives (.vadd t g d a b z) (fun x y => x + y) ∧
    gives (.vsub t g d a b z) (fun x y => x + (2 ^ w - y)) ∧
    gives (.vmul t g d a b z) (fun x y => x * y) ∧
    gives (.vand t g d a b z) (fun x y => x &&& y) ∧
    gives (.vor t g d a b z) (fun x y => x ||| y) ∧
    gives (.vxor t g d a b z) (fun x y => x ^^^ y)

/-- R296, R204, R146, with R278 and R294: a scalar load whose address passes the checks reads its bytes, lowest address
first, as the chunk sees them: LD sign-extends them, LDZ does not, EXTLD takes eight bytes into ed. No byte changes.
R296, R146, with R278 and R294: a scalar store whose address passes the checks stores the low bytes of gd there, in
the chunk; every byte outside them reads as before, and no register but PC changes. R151, R170: on an irrevocable page
either is a chunk of one. R338, R434: there, a load from a page of a peer device asks the device and waits, and a store
leaves with the commit. (The model's own choices that it rests on: logs 6 and 9.) -/
def Obligations.ScalarAccesses : Prop :=
  (∀ (s : State) (w : Fin 4) (d a : Fin 32) (e u v : Fin 8) (i : BitVec 10) (i5 : BitVec 5) (z : Fin 8) (l : Loc)
     (alone : Bool),
     let n : Nat := 2 ^ w.val
     let ea (n : Nat) : Word := s.rg a + BitVec.ofInt 64 (n * i.toInt)
     let V : Fin 32 := Fin.ofNat 32 (8 + v.val)
     let U : Fin 32 := Fin.ofNat 32 (8 + u.val)
     let short : Word := s.rg V + BitVec.ofNat 64 (8 * i5.toNat)
     let loads (j : Instr) (len : Nat) (D : Fin 32) (x : Word) : Prop :=
       Performs alone s j (fun t => (if D = 0 then t.cur.r.g = s.cur.r.g else t.cur.r.g[D] = x) ∧ Advances s t len ∧
         KeepsFlags s t ∧ AccessFrame s t [D] [] [] [] ∧ SameReads s t ∧ t.cur.ex.writes = s.cur.ex.writes)
     (s.readable [.g a] → resolve s s.cur (ea n) n .read = .ok l → Goes alone s [(ea n, l)] n .read →
       loads (.ldz w d a i z) 4 d (BitVec.ofNat 64 (chunkNum s l n)) ∧
       loads (.ld w d a i z) 4 d
         (BitVec.ofInt 64 (if 2 ^ (8 * n - 1) ≤ chunkNum s l n then (chunkNum s l n : Int) - 2 ^ (8 * n)
           else chunkNum s l n))) ∧
     (s.readable [.g a] → resolve s s.cur (ea 8) 8 .read = .ok l → Goes alone s [(ea 8, l)] 8 .read →
       Performs alone s (.extld e a i z) (fun t => t.cur.r.e[e] = BitVec.ofNat 64 (chunkNum s l 8) ∧ Advances s t 4 ∧
         KeepsFlags s t ∧ AccessFrame s t [] [] [] [e] ∧ SameReads s t)) ∧
     (s.readable [.g V] → resolve s s.cur short 8 .read = .ok l → Goes alone s [(short, l)] 8 .read →
       loads (.ldDC u v i5) 2 U (BitVec.ofNat 64 (chunkNum s l 8)))) ∧
  (∀ (s : State) (w : Fin 4) (d a : Fin 32) (u v : Fin 8) (i : BitVec 10) (i5 : BitVec 5) (z : Fin 8) (l : Loc)
     (alone : Bool),
     let n : Nat := 2 ^ w.val
     let ea : Word := s.rg a + BitVec.ofInt 64 (n * i.toInt)
     let V : Fin 32 := Fin.ofNat 32 (8 + v.val)
     let U : Fin 32 := Fin.ofNat 32 (8 + u.val)
     let short : Word := s.rg V + BitVec.ofNat 64 (8 * i5.toNat)
     let stores (j : Instr) (len n : Nat) (x : Word) : Prop :=
       Performs alone s j (fun t => Stores s t l.key n x.toNat ∧ Advances s t len ∧ KeepsFlags s t ∧
         AccessFrame s t [] [] [] [] ∧ t.cur.ex.hands = s.cur.ex.hands ∧ t.cur.ex.effects = s.cur.ex.effects)
     (s.readable [.g a, .g d] → resolve s s.cur ea n .write = .ok l → Goes alone s [(ea, l)] n .write →
       stores (.st w d a i z) 4 n (s.rg d)) ∧
     (s.readable [.g V, .g U] → resolve s s.cur short 8 .write = .ok l → Goes alone s [(short, l)] 8 .write →
       stores (.stDC u v i5) 2 8 (s.rg U))) ∧
  (∀ (s : State) (w : Fin 4) (d a : Fin 32) (i : BitVec 10) (z : Fin 8) (l : Loc) (dev off : Nat), Alone s →
     s.cur.ex.answer = none → l.irrev s = true → l.peer = some (dev, off) →
     let n : Nat := 2 ^ w.val
     let ea : Word := s.rg a + BitVec.ofInt 64 (n * i.toInt)
     let asks (act : PeerAct) : PeerMsg :=
       { tid := s.cur.tid, asid := s.cur.asid, dev := dev, off := off, va := ea, pc := s.cur.r.pc, act := act,
         since := 0, launch := s.cur.launch }
     (s.readable [.g a] → resolve s s.cur ea n .read = .ok l → screen s [(ea, l)] n .read = none →
       Leads s (.ldz w d a i z) (fun t => t.cur = { s.cur with wait := .peer } ∧
         t.links.peerOut = s.links.peerOut ++
           [{ asks (.read n (2 ^ n - 1)) with since := s.cycle, port := portOf s s.cur.tid dev }] ∧
         { t with cur := s.cur, links := s.links } = s)) ∧
     (s.readable [.g a, .g d] → resolve s s.cur ea n .write = .ok l → screen s [(ea, l)] n .write = none →
       Closes s (.st w d a i z) (fun t => t.cur.ex.hands = s.cur.ex.hands ++ [.peer (asks (.write (cellsAt 0
           (bytesOf n (s.rg d).toNat))))] ∧ SameReads s t ∧ Advances s t 4 ∧ KeepsFlags s t ∧
         AccessFrame s t [] [] [] [])))

/-- R278 check 1 with R296: a scalar access at an address that is no multiple of its size traps ALIGN with the address in
TRVAL, before any other check; nothing is read or stored. R201, R375: JR and CALLR to an odd target trap ALIGN at the
jump, with the target in TRVAL; no link is written. -/
def Obligations.AlignmentTraps : Prop :=
  (∀ (s : State) (w : Fin 4) (d a : Fin 32) (e : Fin 8) (i : BitVec 10) (z : Fin 8), AtBoundary s →
     let ea (n : Nat) : Word := s.rg a + BitVec.ofInt 64 (n * i.toInt)
     (s.readable [.g a] → (ea (2 ^ w.val)).toNat % 2 ^ w.val ≠ 0 →
       Parks s (.ld w d a i z) cALIGN (ea (2 ^ w.val)) 0 s.cur.r.pc ∧
       Parks s (.ldz w d a i z) cALIGN (ea (2 ^ w.val)) 0 s.cur.r.pc) ∧
     (s.readable [.g a, .g d] → (ea (2 ^ w.val)).toNat % 2 ^ w.val ≠ 0 →
       Parks s (.st w d a i z) cALIGN (ea (2 ^ w.val)) 0 s.cur.r.pc) ∧
     (s.readable [.g a] → (ea 8).toNat % 8 ≠ 0 → Parks s (.extld e a i z) cALIGN (ea 8) 0 s.cur.r.pc)) ∧
  (∀ (s : State) (a : Fin 32) (i : BitVec 12) (z : Fin 8), AtBoundary s →
     let t := s.rg a + BitVec.ofInt 64 i.toInt
     (s.readable [.g a] → t.getLsbD 0 = true →
       Parks s (.jr a i z) cALIGN t 0 s.cur.r.pc ∧ Parks s (.callr a i z) cALIGN t 0 s.cur.r.pc) ∧
     (s.readable [.g 31] → (s.rg 31).getLsbD 0 = true → Parks s .jrC cALIGN (s.rg 31) 0 s.cur.r.pc))

/-- R293, R297, R298: a vector load whose places pass the checks replaces the active 32-bit lanes of vd by the bytes at
their places and keeps the others; VLD reads one block, VLDS at strides, VGATH at signed 32-bit indices. R293, R294,
R297, R298: a vector store whose places pass the checks stores the active 32-bit lanes at their places, in ascending
order, so that of lanes that overlap the highest stays; every byte outside them reads as before. Without an active lane
neither makes an access. R151, R299: on irrevocable pages a block is a chunk of one, the lanes of VLDS and VGATH are
read one after another, before the chunk of one ends, and those of VSTS and VSCAT are kept, each an access of its own, in
ascending order, to follow the chunk's number. (The model's own choices that it rests on: logs 6 and 9.) -/
def Obligations.VectorAccesses : Prop :=
  (∀ (s : State) (h g : Fin 4) (k alone : Bool) (d a b : Fin 32) (i : BitVec 8) (z : Fin 8) (l : Loc) (pl : Nat → Loc),
     let gv := s.rp (guardReg g)
     let on := (List.range 16).filter (fun j => gv.getLsbD j)
     let kept : List Reg := if g = 0 then [] else [.v d]
     let block : Word := s.rg a + BitVec.ofInt 64 (64 * i.toInt)
     let strided (j : Nat) : Word := s.rg a + BitVec.ofNat 64 j * s.rg b
     let indexed (j : Nat) : Word := s.rg a + (BitVec.ofNat 32 (lane 32 (s.rv b) j)).signExtend 64
     let canRead (addr : List Reg) : Prop := s.readable (addr ++ kept ++ [.p (guardReg g)])
     let loads (alone : Bool) (q : Instr) (at' : Nat → Nat) : Prop := Performs alone s q (fun t =>
       (∀ j < 16, lane 32 t.cur.r.v[d] j = if gv.getLsbD j then at' j else lane 32 (s.rv d) j) ∧ Advances s t 4 ∧
       KeepsFlags s t ∧ AccessFrame s t [] [] [d] [] ∧ SameReads s t)
     let lanes (q : Instr) (va : Nat → Word) : Prop :=
       (∀ j ∈ on, resolve s s.cur (va j) 4 .read = .ok (pl j)) →
       (GoesAhead s (on.map (fun j => (va j, pl j))) 4 .read → loads false q (fun j => chunkNum s (pl j) 4)) ∧
       (GoesAlone s (on.map (fun j => (va j, pl j))) 4 .read → ∀ n, on[s.cur.ex.lanes.length]? = some n →
         let got := s.cur.ex.lanes ++ [chunkNum s (pl n) 4]
         if got.length = on.length then loads true q (fun j => got.getD (on.idxOf j) 0 % 2 ^ 32)
         else Leads s q (fun t => t.cur.ex.lanes = got ∧ t.cur.r = s.cur.r ∧ t.mem = s.mem ∧ t.others = s.others))
     (canRead [.g a] → on ≠ [] → resolve s s.cur block 64 .read = .ok l → Goes alone s [(block, l)] 64 .read →
       loads alone (.vld h g d a i z) (fun j => chunkNum s { l with key := l.key + 4 * j } 4)) ∧
     (canRead [.g a, .g b] → lanes (.vlds k g d a b z) strided) ∧
     (canRead [.g a, .v b] → lanes (.vgath k g d a b z) indexed) ∧
     (on = [] → (canRead [.g a] → block.toNat % 64 = 0 → loads false (.vld h g d a i z) (fun _ => 0)) ∧
       (canRead [.g a, .g b] → loads false (.vlds k g d a b z) (fun _ => 0)) ∧
       (canRead [.g a, .v b] → loads false (.vgath k g d a b z) (fun _ => 0)))) ∧
  (∀ (s : State) (h g : Fin 4) (k alone : Bool) (d a b : Fin 32) (i : BitVec 8) (z : Fin 8) (l : Loc) (pl : Nat → Loc),
     let gv := s.rp (guardReg g)
     let on := (List.range 16).filter (fun j => gv.getLsbD j)
     let block : Word := s.rg a + BitVec.ofInt 64 (64 * i.toInt)
     let strided (j : Nat) : Word := s.rg a + BitVec.ofNat 64 j * s.rg b
     let indexed (j : Nat) : Word := s.rg a + (BitVec.ofNat 32 (lane 32 (s.rv b) j)).signExtend 64
     let covers (key : Nat → Nat) (j c : Nat) : Prop := key j ≤ c ∧ c < key j + 4
     let stores (alone : Bool) (q : Instr) (key : Nat → Nat) : Prop := Performs alone s q (fun t =>
         (∀ j ∈ on, ∀ c, covers key j c → (∀ j' ∈ on, j < j' → ¬ covers key j' c) →
           readByte t t.cur c = BitVec.ofNat 8 (lane 32 (s.rv d) j / 256 ^ (c - key j))) ∧
         (∀ c, (∀ j ∈ on, ¬ covers key j c) → readByte t t.cur c = readByte s s.cur c) ∧ Advances s t 4 ∧
         KeepsFlags s t ∧ AccessFrame s t [] [] [] [])
     let keeps (q : Instr) : Prop := Closes s q (fun t =>
       t.cur.ex.later = s.cur.ex.later ++ on.map (fun j => .mem (pl j).casid (pl j).node (pl j).line
         ((List.range 4).map (fun k => ((pl j).key + k, BitVec.ofNat 8 (lane 32 (s.rv d) j / 256 ^ k))))
         ((pl j).onHost true || (pl j).onHost false)) ∧
       SameReads s t ∧ Advances s t 4 ∧ KeepsFlags s t ∧ AccessFrame s t [] [] [] [])
     (s.readable ([.g a] ++ [.v d] ++ [.p (guardReg g)]) →
       (on ≠ [] → resolve s s.cur block 64 .write = .ok l → Goes alone s [(block, l)] 64 .write →
         stores alone (.vst h g d a i z) (fun j => l.key + 4 * j)) ∧
       (on = [] → block.toNat % 64 = 0 → stores false (.vst h g d a i z) (fun _ => 0))) ∧
     (s.readable ([.g a, .g b] ++ [.v d] ++ [.p (guardReg g)]) →
       (∀ j ∈ on, resolve s s.cur (strided j) 4 .write = .ok (pl j)) →
       (GoesAhead s (on.map (fun j => (strided j, pl j))) 4 .write → stores false (.vsts k g d a b z) (fun j => (pl j).key)) ∧
       (on ≠ [] → GoesAlone s (on.map (fun j => (strided j, pl j))) 4 .write → keeps (.vsts k g d a b z))) ∧
     (s.readable ([.g a, .v b] ++ [.v d] ++ [.p (guardReg g)]) →
       (∀ j ∈ on, resolve s s.cur (indexed j) 4 .write = .ok (pl j)) →
       (GoesAhead s (on.map (fun j => (indexed j, pl j))) 4 .write → stores false (.vscat k g d a b z) (fun j => (pl j).key)) ∧
       (on ≠ [] → GoesAlone s (on.map (fun j => (indexed j, pl j))) 4 .write → keeps (.vscat k g d a b z))))

/-- R293, R300 to R302: in the core (for every lane type but f64 on a little core, for every one on a big core) VLDF writes
the conversion of the elements and scale bytes at their places into the active elements of vd; VSTF stores the converted
codes of the active elements, nibble by nibble where they have 4 bits, and every other bit of memory reads as before.
Without an active element VLDF keeps vd, VSTF stores nothing, and neither makes an access. R179: a little core with a free
reply slot ships the conversion of f64 lanes, with the codes or lanes and the scale bytes that it has read; what VSTF
stores is in the chunk at once, unless it will raise an enabled flag. (The model's own choices that it rests on: logs 6
and 24.) -/
def Obligations.FormatAccesses : Prop :=
  ∀ (s : State) (t : Fin 8) (g : Fin 4) (d a : Fin 32) (z : Fin 8) (l : Loc) (f : Leaf) (ls : List (Word × Loc)),
    let gv := s.rp (guardReg g)
    let va := s.rg a
    let on := elemsOn t.val gv
    let n := laneCount t.val
    let w := tagBits f.fmt
    let m := s.cur.r.fmode
    let kept : List Reg := if g = 0 then [] else [.v d]
    let scales := scalesOf s s.cur n on ls
    let codes := (List.range n).map (fun j => chunkNum s l (tagSpan t.val f.fmt) / 2 ^ (w * j) % 2 ^ w)
    let loaded := tagLoad t.val f.fmt f.geom gv m s.cur.r.srseed codes scales (s.rv d)
    let stored := tagStore t.val f.fmt f.geom gv m s.cur.r.srseed (s.rv d) scales
    let canLoad : Prop := s.readable ([.g a] ++ kept ++ [.p (guardReg g)])
    let canStore : Prop := s.readable ([.g a] ++ [.v d] ++ [.p (guardReg g)])
    let places (k : Access) : Prop := on ≠ [] ∧ taggedPlace s va k t.val = .ok (l, f) ∧
      resolveAll s 1 .read (scaleAddrs va f on) = .ok ls ∧
      GoesAheadAll s (taggedProbes k (tagSpan t.val f.fmt) w on (spanPlaces s va k l (tagSpan t.val f.fmt)) ls)
    let stores (u : State) : Prop :=
      (∀ c, (c < l.key ∨ l.key + tagSpan t.val f.fmt ≤ c) → readByte u u.cur c = readByte s s.cur c) ∧
      ∀ j < n, (w ≠ 4 → ∀ k < w / 8, readByte u u.cur (l.key + j * (w / 8) + k) =
          if j ∈ on then BitVec.ofNat 8 ((stored.1.map Prod.fst).getD j 0 / 256 ^ k)
          else readByte s s.cur (l.key + j * (w / 8) + k)) ∧
        (w = 4 → (readByte u u.cur (l.key + j / 2)).toNat / 16 ^ (j % 2) % 16 =
          if j ∈ on then (stored.1.map Prod.fst).getD j 0 % 16
          else (readByte s s.cur (l.key + j / 2)).toNat / 16 ^ (j % 2) % 16)
    let shipped (i : Instr) (x old : Vec) (D : Option Reg) (P : State → Prop) : Prop :=
      ∃ u k, exec i s = .next u ∧ u.ships = s.ships ++ [k] ∧ k.instr = i ∧ k.tid = s.cur.tid ∧ k.guard = gv ∧ k.x = x ∧
        k.y = vecOf 64 8 (fun j => scales.getD j 0) ∧ k.z = old ∧ k.a = BitVec.ofNat 64 (f.fmt + 16 * f.geom) ∧
        k.fmode = m ∧ k.seed = s.cur.r.srseed ∧ k.gen = s.cur.ex.gen ∧ u.cur.slots = s.cur.slots + 1 ∧
        (∀ r, D = some r → ⟨r, .ship s.nextShip, s.cur.ex.gen, 0⟩ ∈ u.cur.busy) ∧ u.cur.r.v = s.cur.r.v ∧
        u.cur.r.fflags = s.cur.r.fflags ∧ Advances s u 4 ∧ KeepsRegs s u [] [] [] [] ∧ u.mem = s.mem ∧
        u.others = s.others ∧ P u
    (on = [] →
      (canLoad → ∃ u, exec (.vldf t g d a z) s = .next u ∧ u.cur.r.v[d] = s.rv d ∧ Advances s u 4 ∧ KeepsFlags s u ∧
        AccessFrame s u [] [] [d] [] ∧ SameReads s u) ∧
      (canStore → GivesPc s (.vstf t g d a z) (s.cur.r.pc + 4))) ∧
    (t ≠ 5 ∨ isBig s.cur.tid = true →
      (canLoad → places .read → quietFlags s loaded.elems →
        ∃ u, exec (.vldf t g d a z) s = .next u ∧ u.cur.r.v[d] = loaded.vec ∧
          u.cur.r.fflags = s.cur.r.fflags ||| joinFlags loaded.elems ∧ u.cur.r.srseed = loaded.seed ∧ Advances s u 4 ∧
          AccessFrame s u [] [] [d] [] ∧ SameReads s u) ∧
      (canStore → places .write → quietFlags s (stored.1.map Prod.snd) →
        ∃ u, exec (.vstf t g d a z) s = .next u ∧ stores u ∧
          u.cur.r.fflags = s.cur.r.fflags ||| joinFlags (stored.1.map Prod.snd) ∧ u.cur.r.srseed = stored.2 ∧
          Advances s u 4 ∧ AccessFrame s u [] [] [] [])) ∧
    (t = 5 → isBig s.cur.tid = false → slotFree s s.cur = true →
      (canLoad → places .read →
        shipped (.vldf t g d a z) (vecOf 64 8 (fun j => codes.getD j 0)) (s.rv d) (some (.v d)) (fun u =>
          u.cur.r.srseed = loaded.seed ∧ SameReads s u)) ∧
      (canStore → places .write →
        shipped (.vstf t g d a z) (s.rv d) 0 none (fun u => u.cur.r.srseed = stored.2 ∧
          if joinFlags (stored.1.map Prod.snd) &&& enOf m = 0 then stores u else SameReads s u)))

/-- R305, R306, R288: COPY and ZFILL, whose rows pass the checks, buffer the command that the descriptor in e0 to e3
gives, under the slot's next number, and write that number to gd; no byte changes yet. R309: COPYQ reads how many
copies have finished and how many have failed. R308: COPYW goes on once the copies that it names have finished. -/
def Obligations.CopyInstructions : Prop :=
  ∀ (s : State) (d a : Fin 32) (z : Fin 8),
    let seq := s.cur.r.copySeq + 1
    let cmd (fill : Bool) : CopyCmd :=
      { tid := s.cur.tid, asid := s.cur.asid, seq := seq, fill := fill, src := s.re 0, dst := s.re 1,
        len := (s.re 2).toNat % 2 ^ 32, rows := (s.re 2).toNat / 2 ^ 32 % 2 ^ 16 + 1,
        sstride := BitVec.ofNat 64 ((s.re 3).toNat % 2 ^ 32),
        dstride := BitVec.ofNat 64 ((s.re 3).toNat / 2 ^ 32 % 2 ^ 32), pc := s.cur.r.pc, launch := s.cur.launch,
        cv := 0, v := 0 }
    let starts (j : Instr) (fill : Bool) : Prop :=
      checkRows s (cmd fill) (cmd fill).rows (cmd fill).src (cmd fill).dst = .ok () →
      s.cur.irrev = false → (s.cur.ex.hands.filter Hand.counted).length < 8 →
      ∃ t, exec j s = .next t ∧ t.cur.ex.hands = s.cur.ex.hands ++ [.copy (cmd fill)] ∧ t.cur.r.copySeq = seq ∧
        (if d = 0 then t.cur.r.g = s.cur.r.g else t.cur.r.g[d] = BitVec.ofNat 64 seq) ∧ Advances s t 4 ∧
        KeepsFlags s t ∧ (∀ n : Fin 32, n ≠ d → t.cur.r.g[n] = s.cur.r.g[n]) ∧ t.cur.r.p = s.cur.r.p ∧
        t.cur.r.v = s.cur.r.v ∧ t.cur.r.e = s.cur.r.e ∧ SameReads s t ∧ t = s.withCur t.cur
    (s.readable [.e 0, .e 1, .e 2, .e 3] → starts (.copy d z) false) ∧
    (s.readable [.e 1, .e 2, .e 3] → starts (.zfill d z) true) ∧
    GivesG s (.copyq d z) 4 d (BitVec.ofNat 64
      (s.cur.copyDone % 2 ^ 48 + min s.cur.copyFailed.length 0xFFFF * 2 ^ 48)) ∧
    (s.readable [.g a] → s.cur.ex.hands.any (Hand.copyUpTo (min (s.rg a).toNat s.cur.r.copySeq)) = false →
      min (s.rg a).toNat s.cur.r.copySeq ≤ s.cur.copyDone → GivesPc s (.copyw a z) (s.cur.r.pc + 4))

/-- R354, with R278, R294 and R353: AMO and AMOCAS on a place that the chunk itself reads and writes return the old value,
sign-extended from 32 bits, and store the new one in the chunk; an AMOCAS whose compare fails stores nothing. R353,
R354: on a coherent host page either is a chunk of one, as is one that the host has performed, whose old value is the one
that the completion carried; one that the host performs first waits for its completion, memory unchanged, and one that the
host has answered with a failure traps HAOP at its address. R383: while the core holds a record that is not posted, none is
sent. (The model's own choices that it rests on: log 9.) -/
def Obligations.Atomics : Prop :=
  (∀ (s : State) (w : Bool) (o : Fin 8) (d a b c : Fin 32) (z : Fin 8) (l : Loc),
     let n := if w then 8 else 4
     let ea := s.rg a
     let x := (s.rg c).toNat % 2 ^ (8 * n)
     let y := (s.rg b).toNat % 2 ^ (8 * n)
     ∀ (alone : Bool) (p : Spot),
     let old := if p = .host then s.cur.ex.lanes.headD (chunkNum s l n) % 2 ^ (8 * n) else chunkNum s l n
     let signed (u : Nat) : Int := if u < 2 ^ (8 * n - 1) then (u : Int) else u - 2 ^ (8 * n)
     let new : Nat := match o with
       | 0 => y
       | 1 => (old + y) % 2 ^ (8 * n)
       | 2 => old &&& y
       | 3 => old ||| y
       | 4 => if signed old ≤ signed y then old else y
       | 5 => if signed y ≤ signed old then old else y
       | 6 => min old y
       | 7 => max old y
     let does (alone : Bool) (j : Instr) (mem : State → Prop) : Prop := Performs alone s j (fun t =>
       (if d = 0 then t.cur.r.g = s.cur.r.g else t.cur.r.g[d] = BitVec.ofInt 64 (signed old)) ∧ mem t ∧
       Advances s t 4 ∧ KeepsFlags s t ∧ AccessFrame s t [d] [] [] [] ∧ t.cur.ex.effects = s.cur.ex.effects)
     l.peer = none →
     (match p with
       | .here => alone = false ∧ GoesAhead s [(ea, l)] n .rmw
       | .one => alone = true ∧ Alone s ∧ screen s [(ea, l)] n .rmw = none
       | .host => alone = true ∧ Alone s ∧ screen s [(ea, l)] n .rmw = none ∧ ∃ v, s.cur.ex.answer = some (0, v)
       | .peer => False) →
     (s.readable [.g a, .g b] → atomPlace s ea n (.amo o.val) = .ok (l, p) →
       does alone (.amo w o d a b z) (fun t => Stores s t l.key n new)) ∧
     (s.readable [.g a, .g b, .g c] → atomPlace s ea n .cas = .ok (l, p) →
       does alone (.amocas w c d a b z) (fun t => if old = y then Stores s t l.key n x else SameReads s t))) ∧
  (∀ (s : State) (w : Bool) (o : Fin 8) (d a b c : Fin 32) (z : Fin 8) (l : Loc) (v : Word), AtBoundary s →
     s.cur.ex.serial = false →
     let n := if w then 8 else 4
     let ea := s.rg a
     let waits (j : Instr) : Prop := exec j s = .next (if coreHolds s (coreOf s.cur.tid) then s.stall
       else s.withCur { s.cur with wait := .host })
     screen s [(ea, l)] n .rmw = none →
     (s.readable [.g a, .g b] → atomPlace s ea n (.amo o.val) = .ok (l, .host) →
       (s.cur.ex.answer = none → waits (.amo w o d a b z)) ∧
       (s.cur.ex.answer = some (1, v) → Parks s (.amo w o d a b z) cHAOP ea 0 s.cur.r.pc)) ∧
     (s.readable [.g a, .g b, .g c] → atomPlace s ea n .cas = .ok (l, .host) →
       (s.cur.ex.answer = none → waits (.amocas w c d a b z)) ∧
       (s.cur.ex.answer = some (1, v) → Parks s (.amocas w c d a b z) cHAOP ea 0 s.cur.r.pc)))

/-- R356: AMOW and AMOWCAS on a place of the module, or performed by the host, close their chunk: on a big core the register
pair takes the old 128-bit value, and the 16 bytes take the new one; a failing compare stores nothing. R173, R176, R357: a
little core whose own checks pass ships them with their operands, and its thread is held until the reply. (The model's own
choices that it rests on: log 9.) -/
def Obligations.WideAtomics : Prop :=
  ∀ (s : State) (o : Fin 8) (d b c : Fin 16) (a : Fin 32) (z : Fin 8) (l : Loc) (p : Spot), Alone s →
    let pair (r : Fin 16) : Nat := (s.rg (evenReg r)).toNat + (s.rg (oddReg r)).toNat * 2 ^ 64
    let ea := s.rg a
    let y := pair b
    let old := if p = .host then s.cur.ex.lanes.headD 0 % 2 ^ 128 else chunkNum s l 16
    let signed (u : Nat) : Int := if u < 2 ^ 127 then (u : Int) else u - 2 ^ 128
    let new : Nat := match o with
      | 0 => y
      | 1 => (old + y) % 2 ^ 128
      | 2 => old &&& y
      | 3 => old ||| y
      | 4 => if signed old ≤ signed y then old else y
      | 5 => if signed y ≤ signed old then old else y
      | 6 => min old y
      | 7 => max old y
    let does (j : Instr) (mem : State → Prop) : Prop :=
      Closes s j (fun u =>
        (if d = 0 then u.cur.r.g[(0 : Fin 32)] = s.cur.r.g[(0 : Fin 32)]
          else u.cur.r.g[evenReg d] = BitVec.ofNat 64 old) ∧
        u.cur.r.g[oddReg d] = BitVec.ofNat 64 (old / 2 ^ 64) ∧ mem u ∧ Advances s u 4 ∧ KeepsFlags s u ∧
        AccessFrame s u [evenReg d, oddReg d] [] [] [])
    let ships (j : Instr) (x y : Nat) : Prop := Leads s j (fun t => ∃ k, t.ships = s.ships ++ [k] ∧ k.instr = j ∧
      k.tid = s.cur.tid ∧ k.a = ea ∧ k.x = BitVec.ofNat 512 x ∧ k.y = BitVec.ofNat 512 y ∧ k.gen = s.cur.ex.gen ∧
      k.cluster = wideCluster s ea ∧ k.replied = false ∧ t.cur.wait = .ship s.nextShip ∧
      t.cur.slots = s.cur.slots + 1 ∧ t.cur.r = s.cur.r ∧ t.cur.ex = s.cur.ex ∧ t.nextShip = s.nextShip + 1 ∧
      t.mem = s.mem ∧ t.others = s.others)
    let one : List Reg := [.g a, .g (evenReg b), .g (oddReg b)]
    let two : List Reg := [.g a, .g (evenReg b), .g (oddReg b), .g (evenReg c), .g (oddReg c)]
    (isBig s.cur.tid = true → l.peer = none → holdOf s [⟨ea, l, 16, .rmw⟩] = none →
      (p = .host → s.cur.ex.lanes ≠ [] ∧ ∃ v, s.cur.ex.answer = some (0, v)) →
      (s.readable one → atomPlace s ea 16 .wide = .ok (l, p) →
        does (.amow o d a b z) (fun u => Stores s u l.key 16 new)) ∧
      (s.readable two → atomPlace s ea 16 .wideCas = .ok (l, p) →
        does (.amowcas c d a b z) (fun u => if old = y then Stores s u l.key 16 (pair c) else SameReads s u))) ∧
    (isBig s.cur.tid = false → slotFree s s.cur = true →
      (s.readable one → (∀ k v w, atomPlace s ea 16 .wide = .trap k v w → senderCheck k w = false) →
        ships (.amow o d a b z) (pair b) 0) ∧
      (s.readable two → (∀ k v w, atomPlace s ea 16 .wideCas = .trap k v w → senderCheck k w = false) →
        ships (.amowcas c d a b z) (pair b) (pair c)))

/-- R358, R360, with R334: RED, REDF, REDD and VRED on places of the module buffer one reduction for each location, in
ascending order, with the operand read at issue; no register but PC and no byte changes before the chunk's point. R338,
R353: a RED on a host page that the host performs, or on a page of a peer device, is buffered as a message to it; a VRED
on pages of peer devices as one message for each lane. -/
def Obligations.Reductions : Prop :=
  ∀ (s : State) (w : Bool) (o t : Fin 8) (g : Fin 4) (d a b : Fin 32) (z : Fin 8) (l : Loc) (pl : Nat → Loc),
    let ea := s.rg a
    let es : Nat := if t = 5 then 8 else 4
    let gv := s.rp (guardReg g)
    let on : List Nat := if t = 5 then (List.range 8).filter (fun j => gv.getLsbD (2 * j))
      else (List.range 16).filter (fun j => gv.getLsbD j)
    let place (j : Nat) : Word := s.rg d + (BitVec.ofNat 32 (lane 32 (s.rv b) j)).signExtend 64
    let elem (j : Nat) : Word := BitVec.ofNat 64 (lane (8 * es) (s.rv a) j)
    let buffers (i : Instr) (es : List Effect) : Prop :=
      ∃ u, exec i s = .next u ∧ u.cur.ex.effects = s.cur.ex.effects ++ es ∧ u.cur.ex.writes = s.cur.ex.writes ∧
        u.cur.ex.hands = s.cur.ex.hands ∧ Advances s u 4 ∧ KeepsFlags s u ∧ AccessFrame s u [] [] [] [] ∧ SameReads s u
    let sends (i : Instr) (hs : List Hand) : Prop :=
      ∃ u, exec i s = .next u ∧ u.cur.ex.hands = s.cur.ex.hands ++ hs ∧ u.cur.ex.writes = s.cur.ex.writes ∧
        u.cur.ex.effects = s.cur.ex.effects ∧ Advances s u 4 ∧ KeepsFlags s u ∧ AccessFrame s u [] [] [] [] ∧ SameReads s u
    let hands (i : Instr) (h : Hand) : Prop := sends i [h]
    let message (q : Loc) (va : Word) (code n : Nat) (x : Word) : Hand := .peer
      { tid := s.cur.tid, asid := s.cur.asid, dev := (q.peer.getD (0, 0)).1, off := (q.peer.getD (0, 0)).2, va := va,
        pc := s.cur.r.pc, act := .reduce code n x, since := 0, launch := s.cur.launch }
    let toPeer (code n : Nat) : Hand := message l ea code n (s.rg b)
    let free (ls : List (Word × Loc)) (n : Nat) : Prop := s.cur.ex.serial = false ∧ screen s ls n .reduce = none
    (s.readable [.g a, .g b] →
      (atomPlace s ea (if w then 8 else 4) (.red o.val (if w then 8 else 4)) = .ok (l, .here) →
        free [(ea, l)] (if w then 8 else 4) →
        buffers (.red w o a b z) [.int o.val (if w then 8 else 4) l.key (s.rg b)]) ∧
      (atomPlace s ea (if w then 8 else 4) (.red o.val (if w then 8 else 4)) = .ok (l, .host) →
        free [(ea, l)] (if w then 8 else 4) → hands (.red w o a b z) (.hostAdd
          { tid := s.cur.tid, asid := s.cur.asid, key := l.key, size := if w then 8 else 4, x := s.rg b, va := ea,
            pc := s.cur.r.pc, launch := s.cur.launch })) ∧
      (atomPlace s ea (if w then 8 else 4) (.red o.val (if w then 8 else 4)) = .ok (l, .peer) →
        free [(ea, l)] (if w then 8 else 4) → hands (.red w o a b z) (toPeer o.val (if w then 8 else 4))) ∧
      (atomPlace s ea 4 .redf = .ok (l, .here) → free [(ea, l)] 4 →
        buffers (.redf o a b z) [.flt o.val false l.key (s.rg b)]) ∧
      (atomPlace s ea 4 .redf = .ok (l, .peer) → free [(ea, l)] 4 → hands (.redf o a b z) (toPeer (16 + o.val) 4)) ∧
      (atomPlace s ea 8 .redf = .ok (l, .here) → free [(ea, l)] 8 →
        buffers (.redd o a b z) [.flt o.val true l.key (s.rg b)]) ∧
      (atomPlace s ea 8 .redf = .ok (l, .peer) → free [(ea, l)] 8 → hands (.redd o a b z) (toPeer (16 + o.val) 8))) ∧
    (s.readable [.g d, .v a, .v b, .p (guardReg g)] → t = 0 ∨ t = 1 ∨ t = 2 ∨ t = 5 →
      free (on.map (fun j => (place j, pl j))) es →
      ((∀ j ∈ on, atomPlace s (place j) es .vred = .ok (pl j, .here)) → buffers (.vred t g d a b z) (on.map (fun j =>
        if t = 0 ∨ t = 1 then .int 0 4 (pl j).key (elem j) else .flt 0 (t = 5) (pl j).key (elem j)))) ∧
      ((∀ j ∈ on, atomPlace s (place j) es .vred = .ok (pl j, .peer)) → sends (.vred t g d a b z) (on.map (fun j =>
        message (pl j) (place j) (if t = 0 ∨ t = 1 then 0 else 16) es (elem j)))))

/-- R361, R362: a VBINA whose counts words, cells and overflow counter pass the checks buffers one append for each active
lane in ascending order, with the lane's raw bits; without an active lane it does nothing. -/
def Obligations.Appends : Prop :=
  ∀ (s : State) (t : Fin 8) (g : Fin 4) (a b : Fin 32) (z : Fin 8) (o : Loc)
    (ps : List (Nat × Option (Word × Loc))),
    let es : Nat := if t = 5 then 8 else 4
    let gv := s.rp (guardReg g)
    let on : List Nat := if t = 5 then (List.range 8).filter (fun j => gv.getLsbD (2 * j))
      else (List.range 16).filter (fun j => gv.getLsbD j)
    let cap := (s.re 2).toNat % 2 ^ 32
    let ncell := (s.re 2).toNat / 2 ^ 32
    let cell (j : Nat) : Nat := lane 32 (s.rv b) j
    let buffers (es : List Effect) : Prop :=
      ∃ u, exec (.vbina t g a b z) s = .next u ∧ u.cur.ex.effects = s.cur.ex.effects ++ es ∧
        u.cur.ex.writes = s.cur.ex.writes ∧ Advances s u 4 ∧ KeepsFlags s u ∧ SameReads s u ∧
        KeepsRegs s u [] [] [] [] ∧ u = s.withCur u.cur
    s.readable [.v a, .v b, .p (guardReg g), .e 0, .e 1, .e 2, .e 3] →
    (on = [] → buffers []) ∧
    (on ≠ [] → binPlaces s es ncell cap (s.re 0) (s.re 1) (on.map (fun j => (j, cell j))) = .ok ps →
      atomPlace s (s.re 3) 8 .vbina = .ok (o, .here) → rangeStall s (s.re 3) 8 true = false →
      (∀ e ∈ ps, e.2.isSome → rangeStall s (s.re 1 + BitVec.ofNat 64 (cell e.1 * cap * es)) (cap * es) true = false) →
      s.cur.ex.serial = false → holdOf s (binProbes ps (s.re 3) o) = none →
      buffers (ps.map (fun e => .append (e.2.map (fun q => (q.2.key, q.2.line))) cap
        (s.re 1 + BitVec.ofNat 64 (cell e.1 * cap * es)) es (BitVec.ofNat 64 (lane (8 * es) (s.rv a) e.1)) o.key
        o.line (s.re 3))))

/-- R334, R358: at the chunk's point an integer reduction replaces the number at its place by the operation of its code on
it and the low bytes of the operand; every byte outside its place stays. R362: at the chunk's point an append on a
cell with room advances the counts word, saturating, and writes the element's bytes at the next place of the cell; on
a full cell it advances the overflow counter. -/
def Obligations.BufferedEffectsApply : Prop :=
  (∀ (s : State) (t : Thread) (op : Fin 8) (w : Bool) (key : Nat) (v : Word), Memory.wf s.mem = true →
     let n := if w then 8 else 4
     let x := Memory.num s.mem key n
     let y := v.toNat % 2 ^ (8 * n)
     let signed (u : Nat) : Int := if u < 2 ^ (8 * n - 1) then (u : Int) else u - 2 ^ (8 * n)
     let u := applyEffect t s (.int op.val n key v)
     Memory.num u.mem key n = (match op with
       | 0 => (x + y) % 2 ^ (8 * n)
       | 1 => if signed x ≤ signed y then x else y
       | 2 => if signed y ≤ signed x then x else y
       | 3 => min x y
       | 4 => max x y
       | 5 => x &&& y
       | 6 => x ||| y
       | 7 => x ^^^ y) ∧
     (∀ c, (c < key ∨ key + n ≤ c) → Memory.get u.mem c = Memory.get s.mem c) ∧
     { u with mem := s.mem } = s) ∧
  (∀ (s : State) (t : Thread) (c : Nat) (line oline : Line) (cap : Nat) (bins : Word) (es : Nat) (x : Word)
     (ovf : Nat) (ova : Word) (l : Loc), Memory.wf s.mem = true → es = 4 ∨ es = 8 →
     let k := Memory.num s.mem c 4
     let u := applyEffect t s (.append (some (c, line)) cap bins es x ovf oline ova)
     let drop := applyEffect t s (.append none cap bins es x ovf oline ova)
     let counted : State := { s with
       mem := if k < 2 ^ 32 - 1 then Memory.setNum s.mem c 4 (k + 1) else s.mem
       weir := { s.weir with heldCounts := addOnce line s.weir.heldCounts } }
     (k < cap → resolve counted t (bins + BitVec.ofNat 64 (k * es)) 1 .write = .ok l → l.key + es ≤ c ∨ c + 4 ≤ l.key →
       Memory.num u.mem c 4 = (if k < 2 ^ 32 - 1 then k + 1 else k) ∧ Memory.num u.mem l.key es = x.toNat % 2 ^ (8 * es) ∧
       ∀ b, (b < c ∨ c + 4 ≤ b) → (b < l.key ∨ l.key + es ≤ b) → Memory.get u.mem b = Memory.get s.mem b) ∧
     (cap ≤ k → ovf + 8 ≤ c ∨ c + 4 ≤ ovf →
       Memory.num u.mem c 4 = (if k < 2 ^ 32 - 1 then k + 1 else k) ∧
       Memory.num u.mem ovf 8 = (Memory.num s.mem ovf 8 + 1) % 2 ^ 64) ∧
     Memory.num drop.mem ovf 8 = (Memory.num s.mem ovf 8 + 1) % 2 ^ 64)

/-- R318, R325, R327, R328: on a big core a matrix job whose registers and memory pass the checks closes its chunk: the
status word goes to gd, its flags to FFLAGS, the generator moves on, and only the bytes of its result rows may change. R173,
R174, R312: a little core with a free reply slot ships the job with its descriptor to the big core that runs it; the
generator has advanced by the job's draws, and the thread is held until the reply. (The model's own choices that it rests
on: logs 9 and 23.) -/
def Obligations.MatrixJobs : Prop :=
  ∀ (s : State) (d : Fin 32) (z : Fin 8) (mem : JobMem), Alone s →
    s.readable [.e 0, .e 1, .e 2, .e 3, .e 4, .e 5, .e 6, .e 7] →
    let does (i : Instr) (j : Job) : Prop :=
      let D := descOf s
      let o := jobOut s j D mem
      let fls := o.rows.flatten.map Prod.snd
      let fl := joinFlags fls
      let sats := (fls.filter (fun f => f &&& 0x20 != 0)).length
      let cl := (jobCluster s j D).getD 0
      let targets := if j = .mrsum then mem.tab else mem.c.flatten
      regFault s j D = none →
      (isBig s.cur.tid = true → jobMem s j D = .ok mem → holdOf s (jobProbes j mem) = none → quietFlags s fls →
      Closes s i (fun u =>
        (if d = 0 then u.cur.r.g = s.cur.r.g
          else u.cur.r.g[d] = BitVec.ofNat 64
            (1 + fl.toNat * 2 ^ 8 + cl * 2 ^ 16 + (if isF cl then 2 ^ 22 else 0) + min sats 0xFFFF * 2 ^ 32)) ∧
        u.cur.r.fflags = s.cur.r.fflags ||| fl ∧ u.cur.r.srseed = o.seed ∧ Advances s u 4 ∧
        AccessFrame s u [d] [] [] [] ∧
        ∀ b, (∀ p ∈ targets, b < p.loc.key ∨ p.loc.key + p.len ≤ b) → readByte u u.cur b = readByte s s.cur b)) ∧
      (isBig s.cur.tid = false → slotFree s s.cur = true → Leads s i (fun t => ∃ k, t.ships = s.ships ++ [k] ∧
        k.instr = i ∧ k.tid = s.cur.tid ∧ k.x = packDesc s ∧ k.fmode = s.cur.r.fmode ∧ k.seed = s.cur.r.srseed ∧
        k.gen = s.cur.ex.gen ∧ k.cluster = cl ∧ k.replied = false ∧ t.cur.wait = .ship s.nextShip ∧
        t.cur.slots = s.cur.slots + 1 ∧
        t.cur.r = { s.cur.r with srseed := jobSeed s.cur.r.fmode s.cur.r.srseed j D } ∧ t.cur.ex = s.cur.ex ∧
        t.nextShip = s.nextShip + 1 ∧ t.mem = s.mem ∧ t.others = s.others))
    does (.mma d z) .mma ∧ does (.mmaz d z) .mmaz ∧ does (.mdrn d z) .mdrn ∧ does (.mtrn d z) .mtrn ∧
      does (.mrsum d z) .mrsum

/-- R316, R327: a matrix job with a descriptor that the checks of its registers refuse traps MATRIX with the register and
the reason, before anything is read. R365, R44: a barrier instruction whose number is not the item's level, or whose
level has no barrier, traps SCOPE with the number and the level. R370: YIELD traps SCOPE in a gang member and ORDER in
an ordered task. R371: a count of 0 or of more than 65,536, or a level above the launch's or below the item's, traps
SCOPE with the count and the level. (The model's own choices that it rests on: log 23.) -/
def Obligations.OperandTraps : Prop :=
  (∀ (s : State) (d : Fin 32) (z : Fin 8) (r why : Nat), AtBoundary s →
     s.readable [.e 0, .e 1, .e 2, .e 3, .e 4, .e 5, .e 6, .e 7] →
     let traps (i : Instr) (j : Job) : Prop := regFault s j (descOf s) = some (r, why) →
       Parks s i cMATRIX (BitVec.ofNat 64 r) (BitVec.ofNat 64 why) s.cur.r.pc
     traps (.mma d z) .mma ∧ traps (.mmaz d z) .mmaz ∧ traps (.mdrn d z) .mdrn ∧ traps (.mtrn d z) .mtrn ∧
       traps (.mrsum d z) .mrsum) ∧
  (∀ (s : State) (n z : Fin 8), AtBoundary s → n.val ≠ s.cur.r.level.toNat ∨ (levelOf s s.cur).bscope = 0 →
     ∀ i ∈ [Instr.bar n z, .bara n z, .barw n z],
       Parks s i cSCOPE (BitVec.ofNat 64 n.val) (s.cur.r.level.setWidth 64) s.cur.r.pc) ∧
  (∀ (s : State) (z : Fin 8), AtBoundary s → s.readable [.g 1, .g 2, .g 3, .g 4, .g 5, .g 6, .g 7] →
     (s.cur.gang ≠ none → Parks s (.yield z) cSCOPE 0 0 s.cur.r.pc) ∧
     (s.cur.gang = none → s.cur.ordered = true → Parks s (.yield z) cORDER 0 0 s.cur.r.pc)) ∧
  (∀ (s : State) (a b : Fin 32) (z : Fin 8) (l : Loc) (k : Nat) (L : Launch), AtBoundary s →
     s.readable [.g a, .g b] → resolve s s.cur (s.rg a) 64 .read = .ok l → GoesAhead s [(s.rg a, l)] 64 .read →
     s.cur.launch = some k → s.launchAt k = some L →
     let n := (s.rg b).toNat
     let lev := chunkNum s l 64 / 2 ^ 32 % 8
     n = 0 ∨ 65536 < n ∨ L.nlev < lev ∨ lev < s.cur.r.level.toNat →
     Parks s (.spawn a b z) cSCOPE (s.rg b) (BitVec.ofNat 64 lev) s.cur.r.pc ∧
     Parks s (.ospawn a b z) cSCOPE (s.rg b) (BitVec.ofNat 64 lev) s.cur.r.pc)

/-- R363, R368, R364: CHEND, and FENCE with nothing of its scope to wait for, only close their chunk; FENCE.SYS waits
while a host- or peer-directed write of the thread has no acknowledgement; CHID gives the chunk's number since
dispatch and its own position in the chunk. (The model's own choices that it rests on: log 9.) -/
def Obligations.ChunkInstructions : Prop :=
  ∀ (s : State) (e : Bool) (d : Fin 32) (z : Fin 8),
    let only (i : Instr) : Prop := Closes s i (fun u =>
      Advances s u 4 ∧ KeepsFlags s u ∧ ClosedFrame s u [] [] ∧ u.cur.r.g = s.cur.r.g ∧ u.cur.pending = s.cur.pending)
    (AtBoundary s →
      only (.chend z) ∧ (e = false ∨ writesAcked s s.cur.tid = true → only (.fence e z)) ∧
      (writesAcked s s.cur.tid = false → exec (.fence true z) s = .next (s.withCur { s.cur with wait := .fence }))) ∧
    (s.cur.com.all (fun c => c.task.isNone) → s.cur.ordered = false → GivesG s (.chid d z) 4 d (BitVec.ofNat 64
      ((s.cur.sinceDispatch + (if s.cur.com.isSome then 1 else 0)) % 2 ^ 52 * 2 ^ 12 + s.cur.ex.count % 2 ^ 12))) ∧
    (s.cur.ordered = true → GivesG s (.chid d z) 4 d (BitVec.ofNat 64 (s.cur.ex.count % 2 ^ 12)))

/-- R365, R366: at its own level, which has a barrier, BARA and BAR close a chunk that arrives at its point, BAR to wait then,
an IRREVOCABLE body in place; BARW with no pending phase that is open goes on; while a pending phase is open all three wait
for it. An arrival is at the barrier of the item's group, or of its domain instance, in the open phase, or in the next one
where the phase's participants are fixed without it, and keeps that phase as pending. (The model's own choices that it rests
on: logs 9 and 28.) -/
def Obligations.Barriers : Prop :=
  let arrived (s u : State) (t : Thread) (k ph : Nat) : Prop :=
    (∃ b, u.work.barriers[k]? = some b ∧ b.launch = t.launch.getD 0 ∧ b.key = barrierKey s t ∧
      if ph = b.phase then t.tid ∈ b.arrived ∧ b.parts ≠ none
      else ph = b.phase + 1 ∧ t.tid ∈ b.late ∧ b.ofGroup = false ∧ ∀ l, b.parts = some l → ¬ t.tid ∈ l) ∧
    ∀ j, j ≠ k → j < s.work.barriers.length → u.work.barriers[j]? = s.work.barriers[j]?
  (∀ (s : State) (n z : Fin 8), AtBoundary s → n.val = s.cur.r.level.toNat → (levelOf s s.cur).bscope ≠ 0 →
    let kept (u : State) : Prop := Advances s u 4 ∧ KeepsFlags s u ∧ KeepsRegs s u [] [] [] [] ∧ u.mem = s.mem ∧
      u.others = s.others
    let closes (i : Instr) (waits : Bool) : Prop := Closes s i (fun u => Advances s u 4 ∧ KeepsFlags s u ∧
      AccessFrame s u [] [] [] [] ∧ SameReads s u ∧ u.cur.ex.hands = s.cur.ex.hands ++ [.arrive waits])
    let here (i : Instr) (waits : Bool) : Prop := Leads s i (fun u => kept u ∧ ∃ k ph, u.cur.pending = some (k, ph) ∧
      arrived s u s.cur k ph ∧ u.cur.wait = if waits then .barrier k ph else s.cur.wait)
    (openPhase s s.cur = none →
      (s.cur.irrev = false → closes (.bara n z) false ∧ closes (.bar n z) true) ∧
      (s.cur.irrev = true → here (.bara n z) false ∧ here (.bar n z) true) ∧
      Closes s (.barw n z) (fun u => kept u ∧ u.cur.pending = none ∧ u.work = s.work)) ∧
    (∀ k ph, openPhase s s.cur = some (k, ph) → ∀ i ∈ [Instr.bar n z, .bara n z, .barw n z],
      exec i s = .next (s.withCur { s.cur with wait := .barrier k ph }))) ∧
  (∀ (s : State) (t : Thread) (v : Nat) (waits : Bool), s.thread t.tid = some t →
    let u := handOff s t v (.arrive waits)
    ∃ k ph, u.thread t.tid = some { t with pending := some (k, ph) } ∧ arrived s u t k ph ∧ u.mem = s.mem)

/-- R367: WAITV on a line of the module that a commit has touched since the thread's last commit gives 0 at once, and the
thread's later chunks follow that commit (R339); with the node's watch entries full it gives 3, with a wake's result that
result; else the thread sleeps with a deadline WAITTO cycles on. R253, R254: VSCX of the last member of its exchange group (a
thread of a big core, or with SCXG 0, is its whole group) writes the largest of the members' maxima to lanes 0 to 14 and twice
their number to lane 15, and answers the others, each of which raises the flags that it found; one that is not the last waits,
with what its one read of its operands gave (R160); a member that the exchange has answered writes what the answer says. (The
model's own choices that it rests on: log 9.) -/
def Obligations.WatchesAndExchanges : Prop :=
  (∀ (s : State) (d a : Fin 32) (z : Fin 8) (l : Loc), AtBoundary s → s.readable [.g a] →
     let gives (v r : Nat) : Prop := Closes s (.waitv d a z) (fun u =>
       (if d = 0 then u.cur.r.g = s.cur.r.g else u.cur.r.g[d] = BitVec.ofNat 64 r) ∧ Advances s u 4 ∧ KeepsFlags s u ∧
       ClosedFrame (s.withCur { s.cur with lastV := v }) u [d] [])
     let joined := max s.cur.lastV (writerV s l.line l.node)
     let touched : Prop := ∃ e ∈ s.weir.touched, e.1 = l.line ∧ s.cur.lastOrder < e.2
     (∀ r v, s.cur.ex.answer = some (r, v) → gives s.cur.lastV r) ∧
     (s.cur.ex.answer = none → resolve s s.cur (s.rg a) 1 .read = .ok l →
       (∀ f, l.leaf = some f → f.irrev = false ∧ f.loc = 0) →
       (touched → gives joined 0) ∧ (¬ touched → 1024 ≤ watchesAt s l.node → gives s.cur.lastV 3) ∧
       (¬ touched → watchesAt s l.node < 1024 → exec (.waitv d a z) s = .next (s.withCur { s.cur with
         wait := .waitv l.line l.node s.cur.lastOrder (s.cycle + s.cur.r.waitto.toNat) })))) ∧
  (∀ (s : State) (g : Fin 4) (d a : Fin 32) (z : Fin 8), AtBoundary s →
     s.readable [.v a, .p (guardReg g)] →
     let own := (scxOwn s.cur.r.fmode (s.rp (guardReg g)) (s.rv a)).1
     let flags := sigElems 2 (s.rp (guardReg g)) s.cur.r.fmode (s.rv a)
     let n := if isBig s.cur.tid then 1 else 2 ^ s.cur.r.scxg.toNat
     let member (u : Thread) : Bool := sameExchange s.cur n u && !scxOver s u
     let waiting := s.others.filter member
     let most := maxOf (own :: waiting.map scxValue)
     let gives (k m : Nat) (raised : Flags) (others : List Thread) : Prop := Closes s (.vscx g d a z) (fun u =>
       (∀ j < 16, lane 32 u.cur.r.v[d] j = (if j = 15 then k else m) % 2 ^ 32) ∧
       u.cur.r.fflags = s.cur.r.fflags ||| raised ∧ u.cur.r.srseed = s.cur.r.srseed ∧ Advances s u 4 ∧
       ClosedFrame { s with others := others } u [] [d])
     (∀ k m, s.cur.ex.answer = some (k, m) → gives k m.toNat 0 s.others) ∧
     (s.cur.ex.answer = none → quietFlags s flags →
       (n ≤ waiting.length + 1 → gives (2 * n) most (joinFlags flags) (s.others.map (fun u => if member u then
         { u with r := { u.r with fflags := u.r.fflags ||| scxFlags u }, wait := .none,
                  ex := { u.ex with answer := some (2 * n, BitVec.ofNat 64 most) } } else u))) ∧
       (waiting.length + 1 < n → exec (.vscx g d a z) s = .next (s.withCur { s.cur with
         wait := .vscx n ((waiting.head?.map scxSince).getD s.cycle) own (joinFlags flags) }))))

/-- R371, R372: SPAWN and OSPAWN, whose template is readable and whose count and level pass the checks, buffer the
template and the count; no register but PC and no byte changes. -/
def Obligations.Spawning : Prop :=
  ∀ (s : State) (a b : Fin 32) (z : Fin 8) (l : Loc) (k : Nat) (L : Launch) (alone : Bool), s.readable [.g a, .g b] →
    resolve s s.cur (s.rg a) 64 .read = .ok l → Goes alone s [(s.rg a, l)] 64 .read → s.cur.irrev = false →
    (s.cur.ex.hands.filter Hand.counted).length < 8 → s.cur.launch = some k → s.launchAt k = some L →
    let n := (s.rg b).toNat
    let word (j : Nat) : Nat := chunkNum s l 64 / 2 ^ (64 * j) % 2 ^ 64
    let lev := word 0 / 2 ^ 32 % 8
    0 < n → n ≤ 65536 → lev ≤ L.nlev → s.cur.r.level.toNat ≤ lev →
    ((L.levelAt lev).bscope = 0 ∨ n ≤ gangCapacity s L (L.levelAt lev)) →
    let buffers (i : Instr) (ord : Bool) : Prop := Performs alone s i (fun t =>
      t.cur.ex.hands = s.cur.ex.hands ++ [.spawn ord ((List.range 8).map (fun j => BitVec.ofNat 64 (word j))) n] ∧
      Advances s t 4 ∧ KeepsFlags s t ∧ AccessFrame s t [] [] [] [] ∧ SameReads s t)
    buffers (.spawn a b z) false ∧
    (L.ord = true → s.cur.ordered = false ∨ s.cur.ts.toNat ≤ word 1 → buffers (.ospawn a b z) true)

/-- R369, R53, R72: WEND and WAITW of a plain item, whose chunk of one commits at once, retire the item: its launch counts
it, the slot enters WAITING, and WAITW marks the registers as kept. R370, R51: YIELD of a plain item whose chunk of
one commits at once hands its continuation to the Shoe of its cluster: the entry is the next instruction, words 1 to 7
are g1 to g7, and the slot enters WAITING. (The model's own choices that it rests on: log 9.) -/
def Obligations.EndingItems : Prop :=
  (∀ (s : State) (z : Fin 8) (k : Nat) (L : Launch), AtBoundary s → s.cur.super = false → s.cur.irrev = false →
     s.cur.ordered = false → s.cur.ex.task = none →
     let u := s.done 4 z s.cur
     let v := commitOlder (u.withCur { u.cur with com := some { u.cur.ex with phase := .ended } }) s.cur.tid
     v.cur.com = none → v.cur.tid = s.cur.tid → v.cur.launch = some k → v.launchAt k = some L →
     let retires (i : Instr) (keeps : Bool) : Prop :=
       ∃ t, exec i s = .next t ∧ t.cur.place = .waiting ∧ t.cur.keeps = keeps ∧ t.cur.r = v.cur.r ∧
         t.launchAt k = some { L with retired := L.retired + 1 } ∧ t.mem = v.mem ∧ t.others = v.others ∧
         t.weir = v.weir ∧ ∀ j, j ≠ k → t.launchAt j = v.launchAt j
     retires (.wend z) false ∧ retires (.waitw z) true) ∧
  (∀ (s : State) (z : Fin 8) (k : Nat) (L : Launch), AtBoundary s → s.cur.gang = none → s.cur.ordered = false →
     s.cur.launch = some k → s.launchAt k = some L →
     s.readable [.g 1, .g 2, .g 3, .g 4, .g 5, .g 6, .g 7] →
     let u := s.done 4 z s.cur
     let v := commitOlder (u.withCur { u.cur with com := some { u.cur.ex with phase := .ended } }) s.cur.tid
     v.cur.com = none → v.cur.tid = s.cur.tid →
     ∃ t item, exec (.yield z) s = .next t ∧ t.cur.place = .waiting ∧
       t.work.arriving = v.work.arriving ++ [(clusterOf s.cur.tid, item)] ∧ item.cont = true ∧
       item.launch = s.cur.item0.launch ∧ item.group = s.cur.item0.group ∧ item.v = v.cur.lastV ∧ item.moves = 0 ∧
       item.words = [BitVec.ofNat 64 ((s.cur.item0.w0.toNat / 2 ^ 32) * 2 ^ 32 +
           (s.cur.r.pc + 4 - L.codebase).toNat % 2 ^ 32),
         s.rg 1, s.rg 2, s.rg 3, s.rg 4, s.rg 5, s.rg 6, s.rg 7] ∧ t.mem = v.mem ∧ t.others = v.others)

/-- R369, R379: WEND in the supervisor slot traps ILL with its word; WAITW there goes on where a wake is pending, which it
clears, and sleeps where none is. R369, R88, R90: WEND of an ordered body that is not IRREVOCABLE and may finish (all that it
has shipped is answered, and its core holds fewer than four FINISHED chunks or it is the GVT task) ends the body's chunk: the
chunk joins the slot's finished chunks, its task is FINISHED, and the slot enters WAITING. (The model's own choices that it
rests on: logs 9 and 24.) -/
def Obligations.SupervisorWaitsAndBodies : Prop :=
  (∀ (s : State) (z : Fin 8), AtBoundary s → s.cur.super = true →
     Parks s (.wend z) cILL (BitVec.ofNat 64 (z.val * 2 ^ 7 + 0x1400006F)) 0 s.cur.r.pc ∧
     (s.cur.wakePending = true → ∃ u, exec (.waitw z) s = .next u.sealed ∧ u.cur.wakePending = false ∧ Advances s u 4 ∧
       KeepsFlags s u ∧ KeepsRegs s u [] [] [] [] ∧ u.mem = s.mem ∧ u.others = s.others) ∧
     (s.cur.wakePending = false → exec (.waitw z) s = .next (s.withCur { s.cur with wait := .sleep }))) ∧
  (∀ (s : State) (z : Fin 8) (key : Nat × Nat) (T : Task), s.cur.super = false → s.cur.irrev = false →
     s.cur.ex.task = some key → mayFinish s s.cur = true → s.task key = some T →
     ∃ t, exec (.wend z) s = .next t ∧ t.cur.place = .waiting ∧
       (∃ c, t.cur.fins = s.cur.fins ++ [c] ∧ c.task = some key ∧ c.phase = .ended ∧ c.writes = s.cur.ex.writes ∧
         c.effects = s.cur.ex.effects ∧ c.hands = s.cur.ex.hands ∧ c.count = s.cur.ex.count + 1) ∧
       t.task key = some { T with state := .finished } ∧ t.mem = s.mem ∧ t.others = s.others)

/-- R105, R106, R108, R392: what CSRR reads from each CSR. -/
def Obligations.CsrReads : Prop :=
  ∀ (s : State) (d : Fin 32) (z : Fin 8),
    let c := s.cur
    let user : List (BitVec 10 × Word) :=
      [(0x000, BitVec.ofNat 64 c.tid), (0x001, BitVec.ofNat 64 (c.asid % 1024)), (0x002, c.r.level.setWidth 64),
       (0x003, c.r.item), (0x011, c.r.fmode.setWidth 64), (0x012, c.r.srseed), (0x013, c.r.scxg.setWidth 64),
       (0x014, c.r.waitto.setWidth 64), (0x020, c.chseq),
       (0x021, BitVec.ofNat 64 (c.r.pin.toNat * 2 ^ 16 + c.r.chmin.toNat)),
       (0x022, BitVec.ofNat 64 (c.chrun.toNat * 2 ^ 16 + c.chcause.toNat)),
       (0x030, if c.r.sbchk then 1 else 0), (0x050, BitVec.ofNat 64 s.cycle),
       (0x051, c.instret + BitVec.ofNat 64 c.ex.count), (0x052, c.commits),
       (0x053, c.squashes)]
    (∀ e ∈ user, GivesG s (.csrr e.1 d z) 4 d e.2) ∧
    (shipsOut s = false → GivesG s (.csrr 0x010 d z) 4 d (c.r.fflags.setWidth 64)) ∧
    (c.super = true →
      GivesG s (.csrr 0x031 d z) 4 d ((Tbl.at s.shares (clusterOf c.tid) 8).setWidth 64) ∧
      (selected s = none → (∀ n ∈ [(0x040 : BitVec 10), 0x041, 0x042, 0x043, 0x044], GivesG s (.csrr n d z) 4 d 0) ∧
        GivesG s (.csrr 0x060 d z) 4 d (BitVec.ofNat 64 c.parksel.toNat)) ∧
      ∀ u r, selected s = some u → u.trap = some r →
        GivesG s (.csrr 0x040 d z) 4 d (recWord0 r) ∧ GivesG s (.csrr 0x041 d z) 4 d u.trpc ∧
        GivesG s (.csrr 0x042 d z) 4 d r.val ∧ GivesG s (.csrr 0x043 d z) 4 d r.val2 ∧ GivesG s (.csrr 0x044 d z) 4 d (if u.stepFlag then 1 else 0) ∧
        GivesG s (.csrr 0x060 d z) 4 d (BitVec.ofNat 64 (c.parksel.toNat + 2 ^ 17)))

/-- R109, R110, R111, R392: CSRW, CSRS and CSRC of every writable CSR complete: gd takes the old value and the CSR the new one,
with the values out of range adjusted. A write to FFLAGS, FMODE, SRSEED, SCXG, WAITTO or SBCHK is local, and no other
register changes; a mode with a reserved rounding code traps ILL. R97, R111, R113: a write to CHCTL, SHARE, TRPC, STEP or
PARKSEL closes its chunk; TRPC and STEP are those of the selected parked thread. (The model's own choices that it rests on:
log 9.) -/
def Obligations.CsrWrites : Prop :=
  ∀ (s : State) (n : BitVec 10) (d a : Fin 32) (z : Fin 8), s.readable [.g a] → s.cur.place = .run →
    let r := s.cur.r
    let old := csrRead s n
    let forms : List (Instr × Word) := [(.csrw n d a z, s.rg a), (.csrs n d a z, old ||| s.rg a),
      (.csrc n d a z, old &&& ~~~(s.rg a))]
    let linked (q : Regs) : Regs := { q with pc := r.pc + 4, g := if d = 0 then r.g else r.g.set d old }
    let writes (put : Word → Regs) : Prop := ∀ f ∈ forms, Leads s f.1 (fun t => t.cur.r = linked (put f.2) ∧
      KeepsModule s t ∧ t.cur.ex = { s.cur.ex with count := s.cur.ex.count + 1 })
    let closes (q : Word → Regs) (P : State → Word → Prop) : Prop := AtBoundary s →
      ∀ f ∈ forms, Closes s f.1 (fun u => P u f.2 ∧ u.cur.r = linked (q f.2) ∧ u.mem = s.mem ∧
        u.cur.ex.count = s.cur.ex.count + 1)
    (n = 0x010 → shipsOut s = false → writes (fun x => { r with fflags := x.setWidth 6 })) ∧
    (n = 0x011 → ∀ f ∈ forms,
      (f.2.toNat % 8 < 5 → Leads s f.1 (fun t => t.cur.r = linked { r with fmode := f.2.setWidth 12 } ∧ KeepsModule s t ∧
        t.cur.ex = { s.cur.ex with count := s.cur.ex.count + 1 })) ∧
      (5 ≤ f.2.toNat % 8 → AtBoundary s → Parks s f.1 cILL (wordOf f.1) 0 r.pc)) ∧
    (n = 0x012 → writes (fun x => { r with srseed := if x = 0 then 1 else x })) ∧
    (n = 0x013 → writes (fun x => { r with scxg := x.setWidth 2 })) ∧
    (n = 0x014 → writes (fun x => { r with waitto := if x.toNat % 2 ^ 32 = 0 then 65536 else x.setWidth 32 })) ∧
    (n = 0x030 → writes (fun x => { r with sbchk := x.getLsbD 0 })) ∧
    (n = 0x021 → closes (fun x => { r with
        chmin := if x.toNat % 2 ^ 16 = 0 then 256 else x.setWidth 16, pin := BitVec.ofNat 2 (x.toNat / 2 ^ 16) })
      (fun u _ => u.others = s.others)) ∧
    (s.cur.super = true →
      (n = 0x031 → closes (fun _ => r) (fun u x => u.others = s.others ∧
        Tbl.at u.shares (clusterOf s.cur.tid) 8 = x.setWidth 4)) ∧
      (n = 0x060 → closes (fun _ => r) (fun u x => u.others = s.others ∧ u.cur.parksel = x.setWidth 17)) ∧
      (n = 0x041 ∨ n = 0x044 → selected s = none → closes (fun _ => r) (fun u _ => u.others = s.others)) ∧
      ∀ v, selected s = some v →
        (n = 0x041 → closes (fun _ => r) (fun u x => u.thread v.tid = some { v with trpc := x &&& ~~~1#64 })) ∧
        (n = 0x044 → closes (fun _ => r) (fun u x => u.thread v.tid = some { v with stepFlag := x.getLsbD 0 })))

/-- R105, R387, R375: a user access to a supervisor CSR traps PROT with the CSR's number and reason 4; nothing is read or
written. R388, R389, R375: at user level ERET and PARK trap PROT with PC and reason 4. -/
def Obligations.Privilege : Prop :=
  (∀ (s : State) (d a : Fin 32) (z : Fin 8), AtBoundary s → s.cur.super = false → s.readable [.g a] →
     ∀ n ∈ [(0x031 : BitVec 10), 0x040, 0x041, 0x042, 0x043, 0x044, 0x060],
       ∀ i ∈ [Instr.csrr n d z, .csrw n d a z, .csrs n d a z, .csrc n d a z],
         Parks s i cPROT (n.setWidth 64) 4 s.cur.r.pc) ∧
  (∀ (s : State) (z : Fin 8), AtBoundary s → s.cur.super = false →
     Parks s (.eret z) cPROT s.cur.r.pc 4 s.cur.r.pc ∧ Parks s (.park z) cPROT s.cur.r.pc 4 s.cur.r.pc)

/-- R387: TRAP and BRK complete by their trap, with their code in TRVAL, and resume after themselves; TRAP passes g1, BRK 0.
R391: the halfword 0x0000 completes by its trap ILL with TRVAL 0. R169, R377: inside a chunk each first rolls the chunk
back, without counting, to a rerun that stops before the trapping instruction. R378, R171: in an ordered body that is not
IRREVOCABLE none of them traps: the chunk is squashed with cause 7, its task goes to OVERFLOW without the slot, and the slot
enters WAITING. -/
def Obligations.SoftwareTraps : Prop :=
  (∀ (s : State) (c : BitVec 15) (z : Fin 8), AtBoundary s →
     (s.readable [.g 1] → Parks s (.trap c z) cTRAP (c.setWidth 64) (s.rg 1) (s.cur.r.pc + 4)) ∧
     Parks s (.brk c z) cBRK (c.setWidth 64) 0 (s.cur.r.pc + 4) ∧ Parks s .ill cILL 0 0 s.cur.r.pc) ∧
  (∀ (s : State) (c : BitVec 15) (z : Fin 8) (i : Instr), i ∈ [Instr.trap c z, .brk c z, .ill] → s.readable [.g 1] →
     (s.cur.ex.task = none → s.cur.truncates = true → ∃ t, exec i s = .next t ∧
       t.cur.r = s.cur.restored s.cur.ex [s.cur.ex.gen] ∧ t.cur.stopAt = some s.cur.ex.count ∧ t.cur.ex.count = 0 ∧
       t.cur.ex.writes = [] ∧ t.cur.squashes = s.cur.squashes ∧ t.cur.chrun = s.cur.chrun ∧ t.cur.com = s.cur.com ∧
       t.cur.place = s.cur.place ∧ t.mem = s.mem ∧ t.others = s.others ∧ t.tails = s.tails) ∧
     (∀ (key : Nat × Nat) (T : Task), s.cur.ex.task = some key → s.cur.irrev = false → s.task key = some T →
       ∃ t rerun, exec i s = .next t ∧ t.cur.place = .waiting ∧ t.cur.trap = s.cur.trap ∧
         t.task key = some { T with state := .overflow, tid := none, leave := false, irrev := false, serialShip := rerun
                                    run := if T.run = 255 then 255 else T.run + 1 } ∧
         (T.serialShip = true → rerun = true) ∧ t.mem = s.mem ∧
         t.tails = s.tails ∧ t.cur.squashes = s.cur.squashes + 1 ∧ t.cur.chcause = 7))

/-- R388, R167: ERET in the supervisor resumes the selected parked thread, whose record is not fatal, at its TRPC with its own
registers, under single step if its STEP is 1, 4 cycles later at the earliest; without such a thread it only closes its chunk.
R389: PARK ends the selected thread's item: its slot enters WAITING and its launch ends KILLED, unless another status stands.
(The model's own choices that it rests on: log 9.) -/
def Obligations.ReturnAndPark : Prop :=
  ∀ (s : State) (z : Fin 8), AtBoundary s → s.cur.super = true →
    (selected s = none → ∀ i ∈ [Instr.eret z, .park z],
      Closes s i (fun u => Advances s u 4 ∧ KeepsFlags s u ∧ ClosedFrame s u [] [])) ∧
    ∀ v r, selected s = some v → v.trap = some r → v.tid ≠ s.cur.tid →
      (r.fatal = true → Closes s (.eret z) (fun u => Advances s u 4 ∧ ClosedFrame s u [] [])) ∧
      (r.fatal = false → Closes s (.eret z) (fun u => Advances s u 4 ∧ KeepsRegs s u [] [] [] [] ∧ u.mem = s.mem ∧
        ∃ w, u.thread v.tid = some w ∧ w.place = .run ∧ w.r = { v.r with pc := v.trpc } ∧ w.trap = none ∧
          w.stepping = v.stepFlag ∧ w.ex.ckpt = w.r ∧ w.ex.mask = none ∧ w.ex.count = 0 ∧ s.cycle + 4 ≤ w.ready)) ∧
      (v.super = false → Closes s (.park z) (fun u => Advances s u 4 ∧ KeepsRegs s u [] [] [] [] ∧ u.mem = s.mem ∧
        (∃ w, u.thread v.tid = some w ∧ w.place = .waiting ∧ w.trap = none ∧ w.keeps = false) ∧
        ∀ k L, v.launch = some k → s.launchAt k = some L →
          u.launchAt k = some { L with status := some (L.status.getD 3), retired := L.retired + 1 }))

/-- R159: with SBCHK 1 an instruction that reads a register early traps SBCHK with the register's code and the cycles that
are missing; the first such source in order decides. R156, R157, R160, R163: on a little core a result of fixed
latency L reads as the old value until L cycles after its issue and as the new one from then on; on a big core it
reads as new at once. ADD and CMP have latency 2, MUL and FADD 4. (The model's own choices that it rests on: log 16.)
-/
def Obligations.ScoreboardRules : Prop :=
  (∀ (s : State) (w : Bool) (d a b : Fin 32) (p : Fin 8) (i : BitVec 10) (z : Fin 8) (r : Reg) (n : Nat), AtBoundary s →
     s.cur.r.sbchk = true →
     let code : Nat := match r with
       | .g m => m.val
       | .p m => 32 + m.val
       | .v m => 64 + m.val
       | .e m => 96 + m.val
     let traps (srcs : List Reg) (j : Instr) : Prop := firstEarly s.cur.stale s.cycle srcs = some (r, n) →
       Parks s j cSBCHK (BitVec.ofNat 64 code) (BitVec.ofNat 64 n) s.cur.r.pc
     traps [.g a, .g b] (.add w d a b z) ∧ traps [.g a, .g b] (.mul w d a b z) ∧ traps [.p p, .g a, .g b] (.sel p d a b z) ∧
     traps [.g a] (.ld 3 d a i z) ∧ traps [.g a, .g d] (.st 3 d a i z) ∧ traps [.e p] (.extget d p z) ∧
     traps [.g a] (.jr a 0 z) ∧ traps [.g 1] (.trap 0 z)) ∧
  (∀ (s t : State) (c : Nat) (d a b : Fin 32) (p : Fin 8) (z : Fin 8), s.cur.stale = [] → s.cycle ≤ c →
     let later : State := { t with cycle := c }
     let word (L : Nat) (i : Instr) : Prop := d ≠ 0 → exec i s = .next t → s.cur.place = t.cur.place →
       later.rg d = if isBig s.cur.tid = false ∧ c < s.cycle + L then s.cur.r.g[d] else t.cur.r.g[d]
     word 2 (.add false d a b z) ∧ word 4 (.mul false d a b z) ∧ word 4 (.mulh true d a b z) ∧
     (s.cur.r.sbchk = false → word 2 (.addi d a 1 z) ∧ word 2 (.pget d p z)) ∧
     (p ≠ 0 → exec (.cmp false 0 p a b z) s = .next t → s.cur.place = t.cur.place →
       later.rp p = if isBig s.cur.tid = false ∧ c < s.cycle + 2 then s.cur.r.p[p] else t.cur.r.p[p]))

/-- R55 to R58, R339, R423, R439: the registers of a launch chain: LCBASE is written while the chain is disabled, enabling takes
an lsize of 4 to 16 and clears the indices, a tail beyond the free slots sets badtail and stopped and raises vector 3, a tail
write waits behind the function's accesses that precede it, flags clear by writing 1; the other registers that a host writes are
MBOP, MBREQ and the MSI-X table, and a vector that a write unmasks is sent. (The model's own choices that it rests on: log 31.)
-/
def Obligations.ChainRegisters : Prop :=
  ∀ (s : State) (f : Fin 17) (v : BitVec 64) (bad fetch : Bool) (k : Nat),
    let x := s.func f.val
    let sets (i : Instr) (y : Func) : Prop := Leads s i (fun t =>
      t.func f.val = y ∧ (∀ h, h ≠ f.val → t.func h = s.func h) ∧ { t with funcs := s.funcs } = s)
    let n := 2 ^ (x.lcctl.toNat % 32)
    let en : Prop := x.lcctl.getLsbD 8 = true
    let free := n - 1 - (x.lctail + n - x.lchead) % n
    let moves := (v.toNat + n - x.lctail) % n
    (¬ en → sets (.lcbaseWrite f v) { x with lcbase := v &&& ~~~0x7E#64 }) ∧
    (en → sets (.lcbaseWrite f v) x) ∧
    (s.boot.started = true → ((s.box 0).busy && (s.box 0).code == 3) = false → v.getLsbD 8 = true → ¬ en →
      sets (.lcctlEnable f v) (if 4 ≤ v.toNat % 32 ∧ v.toNat % 32 ≤ 16 then
        { x with lcctl := BitVec.ofNat 64 (256 + v.toNat % 32), lchead := 0, lctail := 0, lcseq := 0, lcack := 0,
                 epoch := x.epoch + 1 }
        else { x with lcctl := BitVec.ofNat 64 (v.toNat % 32) })) ∧
    (v.getLsbD 8 = false → sets (.lcctlDisable f v)
      { x with lcctl := BitVec.ofNat 64 (if x.lcctl.getLsbD 8 then x.lcctl.toNat % 32 else v.toNat % 32) }) ∧
    (let y : Func := { x with lcstat := x.lcstat ||| 5 }
     (∀ a ∈ s.links.waiting, a.source ≠ (0, f.val)) →
       (¬ en → sets (.lctailWrite f v) x) ∧
       (en → v.toNat < n → moves ≤ free →
         sets (.lctailWrite f v) { x with lctail := v.toNat, tailV := Tbl.at s.weir.sources f.val 0 }) ∧
       (en → n ≤ v.toNat ∨ free < moves → sets (.lctailWrite f v) (if x.lcstat / 4 % 2 = 1 then y else y.raise 3))) ∧
    (∀ a ∈ s.links.waiting, a.source = (0, f.val) → Leads s (.lctailWrite f v) (fun t =>
      t = { s with links := { s.links with waiting := s.links.waiting ++ [.tail f v] } })) ∧
    sets (.lcstatStoppedClear f) { x with lcstat := x.lcstat % 4 } ∧
    sets (.lcstatFlagClear f bad fetch) { x with lcstat := x.lcstat / 4 * 4 +
      (if fetch then 0 else x.lcstat / 2 % 2 * 2) + (if bad then 0 else x.lcstat % 2) } ∧
    (k < 8 → let y : Func := { x with msix := Tbl.put x.msix k v }
      sets (.registerWrite f (0x2000 + 8 * k) v) { y with
        pending := x.pending.filter y.masked, raised := x.raised ++ x.pending.filter (fun n => !y.masked n) }) ∧
    (k < 128 → Leads s (.registerWrite f (0x40 + 8 * k) v) (fun t => { t with boxes := s.boxes } = s ∧
      t.box f.val = { s.box f.val with req := Memory.setNum (s.box f.val).req (8 * k) 8 v.toNat })) ∧
    (barRead s f.val 8 = 0 ∧ barRead s f.val 0 = (s.box f.val).op ∧ barRead s f.val 0x10 = (s.box f.val).stat ∧
      barRead s f.val 0x1008 = x.lcctl ∧ barRead s f.val 0x1030 = BitVec.ofNat 64 x.lcack ∧
      (k < 8 → barRead s f.val (0x2000 + 8 * k) = x.msixWord k)) ∧
    Leads s (.registerWrite f 0 v) (fun t => { t with boxes := s.boxes } = s ∧
      t.box f.val = { s.box f.val with op := v &&& ~~~0xFFFF0000#64 })

/-- R41, R46, R53, R57 to R61, R71: a record that is ready is taken and gets the next seq, and a launch joins with its status,
a record that cannot be read sets fetch and stopped; an initial item goes to the Shoe of its hint or to a Sluice, the items of
a level with a barrier as a group to its agent; a launch is acknowledged in seq order; one with nothing left completes with
its object written and gives up its cores. R419, R61: a lockstep mismatch of the command processors stops the taking of
records and hands a LOCK record with LCACK to lane H of die 0, behind one that they still hold; the third within a second
halts them for good; otherwise the restart ends with taking resumed. (The model's own choices that it rests on: logs 14, 24,
28 and 31.) -/
def Obligations.LaunchLife : Prop :=
  (∀ (s : State) (f : Fin 17) (l : Nat) (r : Launch),
     let x := s.func f.val
     let taken := s.mapFunc f.val (fun y => { y with lchead := (y.lchead + 1) % y.ring, lcseq := x.lcseq + 1 })
     (chainReady s f.val = true →
       (∀ ok, ok = false ∨ readRecord s x = none → Leads s (.recordTake f ok) (fun t =>
         t.func f.val = Func.raise { x with lcstat := x.lcstat ||| 6 } 3 ∧ t.work = s.work ∧ t.mem = s.mem)) ∧
       ∀ bs, readRecord s x = some bs →
         let L : Launch := { launchOf f.val (x.lcseq + 1) bs with epoch := x.epoch, v := x.tailV }
         let again : Bool := s.work.launches.any (fun k =>
           k.fn == f.val && k.epoch == x.epoch && k.seq == x.lcseq + 1 && k.complete)
         (again = true → Leads s (.recordTake f true) (fun t => t = taken)) ∧ (again = false →
         (acceptCheck taken L bs = 0 → Leads s (.recordTake f true) (fun t => t.func f.val = taken.func f.val ∧
           ∃ m, t.work.launches = s.work.launches ++ [{ L with map := m }])) ∧
         (acceptCheck taken L bs ≠ 0 →
           let q := { L with status := some 1, detail := acceptCheck taken L bs, complete := true }
           let v : State := { taken with work := { taken.work with launches := taken.work.launches ++ [q] } }
           (q.detail = 3 → Leads s (.recordTake f true) (fun t => t = logError v f.val q.compl.toNat 2)) ∧
           (q.detail ≠ 3 →
             (∀ u, writeCompletion v (agentId 8 f.val) q 1 = some u → Leads s (.recordTake f true) (fun t => t = u)) ∧
             (writeCompletion v (agentId 8 f.val) q 1 = none → Leads s (.recordTake f true) (fun t =>
               t = completionWaits s (agentId 8 f.val) L 1)))))) ∧
     (s.launchAt l = some r → cpRuns s = true → r.complete = false → r.delivered < r.nitems →
       (r.levelAt 0).bscope = 0 → ∀ i, initialItem s l r r.delivered = some i →
       Leads s (.cpItemDeliver l) (fun t => t.launchAt l = some { r with delivered := r.delivered + 1 } ∧
         t.mem = s.mem ∧ t.others = s.others ∧ t.cur = s.cur ∧ ∃ c, (∀ h, hintCluster r i = some h → c = h) ∧
         (if i.ordered then t.work.offered = s.work.offered ++ [(dieOf c, i)] ∧ t.work.arriving = s.work.arriving
          else t.work.arriving = s.work.arriving ++ [(c, i)] ∧ t.work.offered = s.work.offered))) ∧
     (s.launchAt l = some r → cpRuns s = true → r.complete = false → r.delivered < r.nitems →
       (r.levelAt 0).bscope ≠ 0 →
       let n := min 65536 (r.nitems - r.delivered)
       ∀ items : List Item, items.length = n → (∀ k < n, initialItem s l r (r.delivered + k) = items[k]?) →
       let plain := items.filter (fun i => !i.ordered)
       Leads s (.cpItemDeliver l) (fun t => t.launchAt l = some { r with delivered := r.delivered + n } ∧
         t.work.arriving = s.work.arriving ∧ t.work.offered = s.work.offered ++
           (items.filter Item.ordered).map (fun i => (dieOf (entryCluster s l r i), i)) ∧
         (∃ agent, t.work.gangs = s.work.gangs ++ (if plain = [] then []
           else [⟨l, r.delivered / 65536, 0, plain, agent, none, []⟩])) ∧
         t.mem = s.mem ∧ t.others = s.others ∧ t.cur = s.cur)) ∧
     (∀ idx, firstUnacked s f.val = some idx → s.launchAt idx = some r → cpRuns s = true → ackReady s idx r = true →
       Leads s (.launchAcknowledge f) (fun t => t.launchAt idx = some { r with acked := true } ∧
         t.func f.val = (if r.epoch = x.epoch then { x with lcack := r.seq } else x) ∧ t.mem = s.mem ∧ t.others = s.others ∧ t.cur = s.cur)) ∧
     (s.launchAt l = some r → cpRuns s = true → r.acked = true → r.complete = false → launchIdle s l r = true →
       (∀ u, writeCompletion s (agentId 6 l) r (r.status.getD 0) = some u →
         Leads s (.launchComplete l) (fun t => (t.launchAt l).map Launch.complete = (u.launchAt l).map (fun _ => true) ∧
           t.mem = u.mem ∧ ∀ e ∈ t.work.holds, e.2 ≠ l)) ∧
       (writeCompletion s (agentId 6 l) r (r.status.getD 0) = none → Leads s (.launchComplete l) (fun t =>
         t = completionWaits s (agentId 6 l) r (r.status.getD 0))))) ∧
  (∀ (s : State), s.boot.halted = false →
     Leads s .lockstepMismatch (fun t => t.boot.lockRestart = true ∧
       (t.boot.halted = true ↔
         2 ≤ (s.boot.lockTimes.filter (fun c => decide (s.cycle - c ≤ s.power.clock * 1000000))).length) ∧
       (∃ q : Rec, q.cause = cLOCK ∧ q.nopark = true ∧ q.laneH = true ∧ q.val = BitVec.ofNat 64 (s.func 0).lcack ∧
         if heldBy s 0 then t.links.lates = s.links.lates ++ [(0, q)] ∧ (t.tail 0).waitH = (s.tail 0).waitH
         else (t.tail 0).waitH = (s.tail 0).waitH ++ [q] ∧ t.links.lates = s.links.lates) ∧ t.mem = s.mem) ∧
     (s.boot.firmware = true →
       Leads s .firmwareRestartComplete (fun t => t = { s with boot := { s.boot with lockRestart := false } })))

/-- R66, R68, R72: a launch that may take a core takes the nearest one that is free, or with clusters a free cluster whole;
the slots of what it takes wait for its work, and a tile of another owner is to be zeroed; a core whose slots all wait in
WAITW is given back; the zeroing of a tile, once its cycles have passed, leaves its arrays and the registers of its free
slots zero and its owner set. (The model's own choices that it rests on: log 24.) -/
def Obligations.Cores : Prop :=
  ∀ (s : State) (l core tile : Nat) (r : Launch),
    let waits (t : State) (k : Nat) : Prop := ∀ n ∈ coreSlotsOf k r.paired, BecomesThread t n (fun u =>
      u.place = .waiting ∧ u.launch = some l ∧ u.asid = r.asid)
    let zeroed (t : State) (k : Nat) : Prop := Tbl.find s.work.tileOwner k ≠ some r.asid →
      (Tbl.find t.work.zeroing k).isSome
    (s.launchAt l = some r → cpRuns s = true → r.complete = false → r.ended = false → outranked s l r = false →
      (r.noclu = true → ∀ d k, demandOf s l r = some d → nearestCore s l r d.1 d.2 = some k →
        Leads s (.coreTake l) (fun t => Tbl.find t.work.holds k = some l ∧ waits t k ∧ zeroed t (coreTile k) ∧
          (∀ c, c ≠ k → Tbl.find t.work.holds c = Tbl.find s.work.holds c) ∧ t.mem = s.mem)) ∧
      (r.noclu = false → coresOf s l = [] ∨ (demandOf s l r).isSome = true →
        ∀ c, (wholeClusters s r.fn).find? (clusterFree s) = some c →
        Leads s (.coreTake l) (fun t => (∀ k < 128, Tbl.find t.work.holds (128 * c + k) = some l ∧ waits t (128 * c + k)) ∧
          (r.usesBig = true → Tbl.find t.work.holds (8192 + c) = some l) ∧
          (∀ k ∈ clusterTiles c, zeroed t k) ∧ t.mem = s.mem))) ∧
    (coreIdle s core = true → Leads s (.nocluCoreRelease core) (fun t => Tbl.find t.work.holds core = none ∧
      (∀ u ∈ t.threads, coreOf u.tid = core → u.launch = none) ∧ t.mem = s.mem)) ∧
    (∀ due, Tbl.find s.work.zeroing tile = some due → due ≤ s.cycle → Leads s (.zeroingComplete tile) (fun t =>
      Tbl.find t.work.zeroing tile = none ∧
      (∀ a, (tileKeys tile).1 ≤ a → a < (tileKeys tile).2 → Memory.get t.mem a = 0) ∧
      (∀ a, (a < (tileKeys tile).1 ∨ (tileKeys tile).2 ≤ a) → Memory.get t.mem a = Memory.get s.mem a) ∧
      (∀ L, zeroedFor s tile = some L → Tbl.find t.work.tileOwner tile = some L.asid) ∧
      (∀ u ∈ s.threads, tileOf u.tid ≠ tile ∨ u.super = true ∨ u.place ≠ .notHeld → u ∈ t.threads) ∧
      ∀ u ∈ t.threads, tileOf u.tid = tile → u.super = false → u.place = .notHeld → u.r = Regs.reset))

/-- R72 to R78, R50: an item that arrives joins its Shoe, one that has been spilled comes back, waiting ones age, the one that
is first by priority and arrival goes to the slot that R76 chooses, one in a cycle, and six cycles later the slot runs it,
with the other members of its gang: PC, g1 to g7, LEVEL, FFLAGS and ITEM are those of the item. (The model's own choices that
it rests on: logs 4, 24 and 30.) -/
def Obligations.ShoeDispatch : Prop :=
  ∀ (s : State) (c tid : Nat),
    (∀ e, s.work.arriving.find? (fun e => e.1 == c) = some e →
      (∃ l, s.launchAt e.2.launch = some l ∧ l.ended = false ∧ l.complete = false) → (s.shoe c).items.length < 4096 →
      Leads s (.shoeItemArrive c) (fun t => t.work.arriving = s.work.arriving.erase e ∧
        (t.shoe c).items =
          (s.shoe c).items ++ [{ e.2 with arrival := s.work.arrivals, since := s.cycle, aged := 0 }] ∧
        (∀ k, k ≠ c → t.shoe k = s.shoe k) ∧ t.mem = s.mem ∧ t.cur = s.cur ∧ t.others = s.others)) ∧
    (∀ k e, refillFor s c = some (k, e) → Leads s (.shoeRefill c) (fun t =>
      (t.shoe c).items = (s.shoe c).items ++ [{ e.2 with since := s.cycle - e.2.since }] ∧
      (t.launchAt k).map Launch.spilled = (s.launchAt k).map (fun l => l.spilled.erase e) ∧ t.mem = s.mem)) ∧
    (let period := s.work.aging * s.work.interval
     Leads s (.itemAging c) (fun t => (t.shoe c).items = (s.shoe c).items.map (fun i =>
       { i with aged := i.aged + (s.cycle - i.since) / period
                since := i.since + (s.cycle - i.since) / period * period }) ∧ t.mem = s.mem)) ∧
    (∀ i n, shoeFree s c = true → shoeChoice s c = some i → chooseSlot (eligible s c i) = some n →
      Leads s (.shoeDispatch c) (fun t => (t.shoe c).items = (s.shoe c).items.erase i ∧ shoeFree t c = false ∧
        t.mem = s.mem ∧ BecomesThread t n (fun u => u.place = .loading i (s.cycle + 6)))) ∧
    (∀ u i due k L, s.thread tid = some u → u.place = .loading i due → due ≤ s.cycle →
      tileFrozen s (tileOf tid) = false → u.launch = some k → s.launchAt k = some L →
      u.gang = none ∨ (s.threads.map Thread.tid).Nodup →
      Leads s (.slotLoadComplete tid) (fun t => t.mem = s.mem ∧
        (∀ v ∈ s.threads, u.gang.isSome → v.gang = u.gang → v.launch = u.launch → loadDue s v = true →
          BecomesThread t v.tid (fun w => w.place = .run)) ∧
        BecomesThread t tid (fun w => w.place = .run ∧ w.ready = s.cycle + 4 ∧
        w.r.pc = L.codebase + BitVec.ofNat 64 (i.w0.toNat % 2 ^ 32) ∧
        (∀ n : Fin 32, 1 ≤ n.val → n.val ≤ 7 → w.r.g[n] = i.word n.val) ∧
        w.r.level = BitVec.ofNat 3 (i.w0.toNat / 2 ^ 32 % 8) ∧ w.r.fflags = 0 ∧
        (u.ex.task = none → w.r.item = BitVec.ofNat 64 (i.group * 65536 + i.w0.toNat / 2 ^ 48)) ∧
        w.ex.count = 0 ∧ w.ex.mask = none ∧ w.ex.ckpt = w.r ∧ w.busy = [] ∧ w.stale = [])))

/-- R79 to R85: a gang that has reached the head of its agent has its instance chosen, reserves one slot of it after another,
and its members load together at the last; a reservation outside that instance is released; an item whose hop has ended takes
a slot within its radius, joins the Shoe at its hint, or goes one hop on; the Fantail moves up to half the difference of two
occupancies, at most 64 items, once in an interval; a batch joins the receiving Shoe in a later cycle. (The model's own
choices that it rests on: logs 24, 28 and 30.) -/
def Obligations.GangsAndWalks : Prop :=
  ∀ (s : State) (agent c : Nat),
    (∀ k g inst slots, gangHead s agent = some k → s.work.gangs[k]? = some g → gangInstance s g = some (inst, slots) →
      let dom := ((s.launchAt g.launch).map (fun l => (l.levelAt g.level).dom)).getD 0
      (∀ n ∈ g.reserved, instanceOf dom n ≠ inst → (s.thread n).isSome → g.reserved.length + 1 < g.items.length →
        Leads s (.gangSlotReserve agent) (fun t => BecomesThread t n (fun w => w.place = .waiting))) ∧
      ((∀ n ∈ g.reserved, instanceOf dom n = inst) →
      (slots = [] → g.reserved.length < g.items.length → Leads s (.gangSlotReserve agent) (fun t =>
        t = { s with work := { s.work with gangs := s.work.gangs.set k { g with inst := some inst } } })) ∧
      (∀ u, minBy Thread.tid slots = some u →
        (g.reserved.length + 1 < g.items.length → Leads s (.gangSlotReserve agent) (fun t =>
          t.work.gangs = s.work.gangs.set k { g with inst := some inst, reserved := g.reserved ++ [u.tid] } ∧
          BecomesThread t u.tid (fun w => w.place = .reserved g.group) ∧ t.mem = s.mem)) ∧
        (g.reserved.length + 1 = g.items.length → (g.reserved ++ [u.tid]).Nodup →
          (∀ n ∈ g.reserved, (s.thread n).isSome) → Leads s (.gangSlotReserve agent) (fun t =>
          t.work.gangs = s.work.gangs.eraseIdx k ∧ t.mem = s.mem ∧
          ∀ e ∈ (g.reserved ++ [u.tid]).zip g.items, BecomesThread t e.1 (fun w =>
            w.place = .loading e.2 (s.cycle + 6) ∧ w.gang = some g.group)))))) ∧
    (∀ w, walkDue s = some w →
      let q : State := { s with work := { s.work with walking := s.work.walking.erase w } }
      let near : Prop := hops w.here w.goal ≤ w.item.w0.toNat / 2 ^ 37 % 8
      let slot := chooseSlot (eligible q w.here w.item)
      (∀ tid, near → slot = some tid → Leads s .itemWalkHop (fun t => t.work.walking = s.work.walking.erase w ∧
        BecomesThread t tid (fun u => u.place = .loading w.item (s.cycle + 6)))) ∧
      (¬ near ∨ slot = none →
        (w.here = w.goal → Leads s .itemWalkHop (fun t => t = { q with work := { q.work with
          arriving := s.work.arriving ++ [(w.goal, w.item)] } })) ∧
        (w.here ≠ w.goal → Leads s .itemWalkHop (fun t => t = { q with work := { q.work with
          walking := s.work.walking.erase w ++ [{ w with
            here := nextHop s w.goal w.here, due := s.cycle + hopCycles w.here (nextHop s w.goal w.here) }] } })))) ∧
    ((s.shoe c).stepped = false →
      Leads s (.balancingStep c) (fun t => (t.shoe c).stepped = true ∧ t.mem = s.mem ∧ t.cur = s.cur ∧
        t.others = s.others)) ∧
    (∀ k, (s.shoe c).gotBatch = false → minBy (fun k => (s.shoe k).occ * 64 + k) (neighbours s c) = some k →
      let d := (s.shoe c).occ - (s.shoe k).occ
      let t := fantailStep s c
      (d ≤ s.work.threshold → t = s) ∧
      (s.work.threshold < d → t.work.batches = s.work.batches ∨ ∃ b, t.work.batches = s.work.batches ++ [b] ∧ b.goal = k ∧
        b.from' = c ∧ b.items.length ≤ min 64 (d / 2) ∧ (∀ i ∈ b.items, 1 ≤ i.moves ∧ i.moves ≤ 8) ∧
        (dieOf c ≠ dieOf k → b.due = some (s.cycle + 200)))) ∧
    (∀ e, s.work.batches.find? (fun e => e.goal == c && decide (e.left < s.cycle)) = some e →
      (∀ i ∈ e.items, ∃ l, s.launchAt i.launch = some l ∧ l.ended = false ∧ l.complete = false) →
      (s.shoe c).items.length + e.items.length ≤ 4096 →
      Leads s (.fantailBatchArrive c) (fun t => t.work.batches = s.work.batches.erase e ∧ (t.shoe c).gotBatch = true ∧
        (t.shoe c).items.length = (s.shoe c).items.length + e.items.length ∧ t.mem = s.mem))

/-- R87 to R95: a Sluice accepts an offered task under the next id of its die, takes spilled ones back, and grants to a
slot that waits the task that R89 chooses, where no plain item of priority 3 comes first: one in a cycle at each Shoe, the
smallest that any slot of its cluster receives; the minima of a launch are exchanged,
the first task that has finished gets leave, one that has committed retires, and each sample, at a multiple of 1,024 cycles,
records the GVT task. (The model's own choices that it rests on: logs 24 and 30.) -/
def Obligations.OrderedTasks : Prop :=
  ∀ (s : State) (d l tid : Nat),
    (∀ e L, s.work.offered.find? (fun e => e.1 == d) = some e → s.launchAt e.2.launch = some L → L.ended = false →
      (dieTasks s d false).length < 65536 → Leads s (.sluiceAccept d) (fun t =>
        t.work.offered = s.work.offered.erase e ∧ t.mem = s.mem ∧
        ∃ k, t.work.tasks = s.work.tasks ++ [k] ∧ k.id = Tbl.at s.work.accepted (4 * e.2.launch + d) 0 * 4 + d ∧
          k.launch = e.2.launch ∧ k.item = e.2 ∧ k.ts = e.2.word 1 ∧ k.state = .queued ∧ k.tid = none ∧
          Tbl.at t.work.accepted (4 * e.2.launch + d) 0 = Tbl.at s.work.accepted (4 * e.2.launch + d) 0 + 1)) ∧
    ((dieTasks s d false).length < 49152 → (dieTasks s d true).length ≤ 64 → Leads s (.sluiceRefill d) (fun t =>
      (∀ k ∈ t.work.tasks, k.die = d → k.spilled = false) ∧ t.work.tasks.length = s.work.tasks.length ∧ t.mem = s.mem)) ∧
    (∀ u idx L k, s.thread tid = some u → slotWaits s u = some idx → s.launchAt idx = some L → L.ord = true →
      sluiceAnswer s idx tid = some k →
      ((gvtFor s idx tid).isSome ∨ ∀ i ∈ storeOf s (clusterOf tid),
        ¬ (i.launch = idx ∧ i.current s = 3 ∧ admits (L.levelAt i.level).place tid = true)) → grantFor s tid = some k) ∧
    (∀ k, grantChoice s (clusterOf tid) = some (tid, k) → grantFor s tid = some k ∧
      (∀ u ∈ s.threads, clusterOf u.tid = clusterOf tid → ∀ q, grantFor s u.tid = some q → k.rank ≤ q.rank) ∧
      (shoeFree s (clusterOf tid) = true →
      Leads s (.sluiceGrant tid) (fun t => t.mem = s.mem ∧ shoeFree t (clusterOf tid) = false ∧
        BecomesThread t tid (fun w => w.place = .loading k.item (s.cycle + 30) ∧ w.ordered = true ∧ w.ts = k.ts ∧
          w.ex.task = some (k.launch, k.id) ∧ (w.irrev = true ↔ k.state = .overflow)) ∧
        ∃ q, t.task (k.launch, k.id) = some q ∧ q.tid = some tid ∧
          q.state = if k.state = .overflow then .irrevocable else .running))) ∧
    Leads s (.sluiceMinimaExchange l) (fun t => (∀ n < 4, Tbl.find t.work.minima (4 * l + n) = some (dieMinimum s l n)) ∧
      Tbl.find t.work.exchanged l = some s.cycle ∧ t.work.tasks = s.work.tasks ∧ t.mem = s.mem) ∧
    (∀ k, leaveFor s l = some k → Leads s (.leaveToCommit l) (fun t => t.mem = s.mem ∧
      ∃ q, t.task (l, k.id) = some q ∧ q.leave = true)) ∧
    (∀ k, retirable s l = some k → Leads s (.orderedTaskRetire l) (fun t => t.task (l, k.id) = none ∧ t.mem = s.mem ∧
      (t.launchAt l).map Launch.retired = (s.launchAt l).map (fun x => x.retired + 1))) ∧
    (s.cycle % 1024 = 0 → s.work.lastGvt ≠ s.cycle / 1024 → Leads s .gvtSample (fun t =>
      t.work.lastGvt = s.cycle / 1024)) ∧
    (∀ k, s.work.gvt = [] → minBy Task.rank (tasksOf s l) = some k →
      (sampleLaunch s l).work.gvt = [⟨l, k.id, k.state == .queued || k.state == .overflow, slotSeen s k⟩])

/-- R156, R157, R158, R161, R253, R328, R329: a reply makes the oldest register that waits for it readable, in the next
cycle; a division is available 20 cycles after its issue at the earliest; the command at the head of a core's vector queue
retires; a job that has not been squashed or discarded replies; an exchange that times out gives its members their own
maxima, and the flags that they found at their issue. (The model's own choices that it rests on: logs 6 and 25.) -/
def Obligations.LateResults : Prop :=
  ∀ (s : State) (tid : Nat) (u : Thread), s.thread tid = some u → tileFrozen s (tileOf tid) = false →
    let lands (b : Busy) (rest : List Busy) (stale : List Stale) (w : Thread) : Prop := w = { u with
      busy := rest, landed := (b.reg, s.cycle) :: u.landed.filter (fun e => e.2 = s.cycle), stale := stale }
    let frees (i : Instr) (why : BusyBy) : Prop := ∀ b p q, u.busy = p ++ b :: q → b.why = why → (∀ x ∈ p, x.why ≠ why) →
      Leads s i (fun t => t.mem = s.mem ∧ BecomesThread t tid (lands b (p ++ q) u.stale))
    frees (.memoryReply tid) .load ∧ (runningJob s tid = none → frees (.matrixJobComplete tid) .job) ∧
    (∀ x, runningJob s tid = some x → tileFrozen s (1024 + x.cluster) = false →
      (x.cancelled = true → Leads s (.matrixJobComplete tid) (fun t => t.mem = s.mem ∧
        ∃ y, t.ship x.id = some y ∧ y.replied = true ∧ y.status = 4)) ∧
      (x.cancelled = false → x.chunk.isSome → Leads s (.matrixJobComplete tid) (fun t => t.mem = s.mem ∧
        ∃ y, t.ship x.id = some y ∧ y.replied = true ∧ y.status = 0))) ∧
    (∀ b p q, (s.queueOf (coreOf tid)).head?.map VecCmd.tid ≠ some tid → u.busy = p ++ b :: q → localDone s u b = true →
      (∀ x ∈ p, localDone s u x = false) → Leads s (.resultWriteback tid) (fun t => t.mem = s.mem ∧
        BecomesThread t tid (lands b (p ++ q) (u.stale.filter (fun e => decide (s.cycle < e.due)))))) ∧
    (∀ c rest, s.queueOf (coreOf tid) = c :: rest → c.tid = tid → Leads s (.resultWriteback tid) (fun t =>
      t.queueOf (coreOf tid) = rest ∧ t.mem = s.mem ∧ BecomesThread t tid (fun w => w.r = u.r ∧
        (∀ r b p q, c.reg = some r → ¬ c ∈ rest → u.busy = p ++ b :: q → b.queued = true → b.reg = r →
          (∀ x ∈ p, ¬ (x.queued = true ∧ x.reg = r)) → w.busy = p ++ q)))) ∧
    (∀ g since own fl, u.wait = .vscx g since own fl → since + 4096 ≤ s.cycle → Leads s (.vscxTimeout tid) (fun t =>
      t.mem = s.mem ∧ BecomesThread t tid (fun w => w.wait = .none ∧ w.r = { u.r with fflags := u.r.fflags ||| fl } ∧
        w.ex.answer = some (3, BitVec.ofNat 64 own))))

/-- R96, R97, R173 to R186, R328, R357: a request enters the Penstock of its cluster behind every earlier one, or is refused
and sent again 16 cycles later; the big core executes the guest entry of R96 in its turn and replies, or holds what the entry
has read and written until its sender's commit; the reply frees its reply slot, writes the destination and the flags, ends
the chunk of one that waits for it, rolls the chunk back for a rerun in serial-ship mode, or in that mode parks the thread; a
cancelled entry is answered with status 4, and one in a frozen big tile keeps its notice waiting 16 cycles (R475); a write signature that meets what an entry has read makes it begin again, or drops its
reply. (The model's own choices that it rests on: logs 18 and 24.) -/
def Obligations.Shipping : Prop :=
  ∀ (s : State) (k : Nat) (x : Ship), s.ship k = some x →
    let now (t : State) (P : Ship → Prop) : Prop := ∃ y, t.ship k = some y ∧ P y
    (x.admitted = false → x.replied = false → x.retryAt = 0 →
      let c := routeCluster s x.cluster
      (hasEntry s x c = true → Leads s (.penstockAdmit k) (fun t => { t with ships := s.ships } = s ∧
        t.ships = s.ships.filter (fun y => y.id != k) ++
          [{ x with admitted := true, pool := !reservedFree s x c, cluster := c }])) ∧
      (hasEntry s x c = false → Leads s (.penstockAdmit k) (fun t => now t (fun y =>
        y = { x with retryAt := s.cycle + 16 }) ∧ { t with ships := s.ships } = s))) ∧
    (x.admitted = false → x.retryAt ≠ 0 → x.retryAt ≤ s.cycle → tileFrozen s (tileOf x.tid) = false → Leads s (.shipRetry k) (fun t =>
      now t (fun y => y = { x with retryAt := 0 }) ∧ { t with ships := s.ships } = s)) ∧
    (∀ c, guestTurn s c = true → nextGuest s c = some x →
      (remoteBody x = none → Leads s (.guestExecute c) (fun t =>
        { t with ships := s.ships, rot := s.rot, turn := s.turn } = s ∧ Tbl.at t.rot c 0 = coreOf x.tid ∧
        t.turn = (8192 + c) :: s.turn ∧ now t (fun y => y.replied = true ∧ y.issued = true ∧
          let r := heavyResult x.instr x.fmode x.seed x.guard x.x x.y x.z x.a x.b x.c
          if joinFlags r.elems &&& enOf x.fmode = 0 then y.status = 0 ∧ y.flags = joinFlags r.elems ∧ y.writes = r.writes ∧
            (isScalarHeavy x.instr = true → y.result.setWidth 64 = r.word)
          else y.status = 2 ∧ y.cause = cFPE ∧ y.val = (joinFlags r.elems).setWidth 64))) ∧
      (∀ body, remoteBody x = some body →
        let g := guestState (s.guestSpent c (coreOf x.tid)) x
        (∀ u r fl sd, body g = .done u r fl sd → Leads s (.guestExecute c) (fun t => t.mem = s.mem ∧ now t (fun y =>
          y = { x with issued := true, replied := (jobOf x.instr).isNone, status := 0, flags := fl, result := r,
                       chunk := some u.cur.ex }))) ∧
        (∀ cause v w, body g = .trap cause v w → Leads s (.guestExecute c) (fun t => t.mem = s.mem ∧ now t (fun y =>
          y = { x with issued := true, replied := true, status := if cause = cFPE then 2 else 1, cause := cause,
                       val := v, val2 := w }))) ∧
        (∀ u, body g = .later u → Leads s (.guestExecute c) (fun t => t.mem = s.mem ∧ now t (fun y =>
          y = { x with retryAt := s.cycle + 1 }))) ∧
        (body g = .ask → Leads s (.guestExecute c) (fun t => t.mem = s.mem ∧ now t (fun y =>
          y = { x with asked := true }))))) ∧
    (x.cancelled = true → x.issued = false → x.replied = false → x.noticeAt = 0 ∨
        (x.noticeAt ≤ s.cycle ∧ tileFrozen s (tileOf x.tid) = false) → Leads s (.cancelNotice k) (fun t =>
      now t (fun y => y = if x.admitted && tileFrozen s (1024 + x.cluster) then { x with noticeAt := s.cycle + 16 }
        else { x with replied := true, status := 4 }) ∧ { t with ships := s.ships } = s)) ∧
    (∀ u c agent asid lines l, s.thread x.tid = some u → x.chunk = some c → x.cancelled = false → c.serial = false →
      (agent && c.pinned) = false → l ∈ lines → l.reaches (coreOf u.tid) = true → l ∈ c.rlines ∨ l ∈ c.wlines →
      (countSquash u 1).mustPin = false →
      let t := receiveJob agent asid lines s x
      t.mem = s.mem ∧ now t (fun y => y = { x with chunk := none, status := if x.replied then 4 else x.status }) ∧
        BecomesThread t x.tid (fun w => w = countSquash u 1)) ∧
    (∀ u, s.thread x.tid = some u → x.replied = true → tileFrozen s (tileOf x.tid) = false →
      x.chunk = none ∨ (∀ v ∈ s.threads, ∀ c, v.com = some c → c.phase = .numbered → ¬ (1024 + x.cluster) ∈ c.acks) →
      let stands : Prop := x.cancelled = false ∧ (x.gen = u.ex.gen ∨ u.com.map Chunk.gen = some x.gen)
      let frees (P : Thread → Prop) : Prop := Leads s (.shipReply k) (fun t => t.ship k = none ∧ t.mem = s.mem ∧
        BecomesThread t x.tid P)
      (¬ stands → frees (fun w => w = { u with slots := u.slots - 1 })) ∧
      (stands → x.status = 4 → Leads s (.shipReply k) (fun t => now t (fun y => y = x.again) ∧
        { t with ships := s.ships } = s)) ∧
      (x.cancelled = false → x.gen = u.ex.gen → x.status = 0 → shipsClosing x.instr = false → x.writes = true →
        ∀ b (n : Fin 32) p q, u.busy = p ++ b :: q → b.why = .ship k → b.reg = .g n → (∀ y ∈ p, y.why ≠ .ship k) →
        frees (fun w => w.slots = u.slots - 1 ∧ w.busy = p ++ q ∧
          w.r = { u.r with fflags := u.r.fflags ||| x.flags, g := u.r.g.set n (x.result.setWidth 64) } ∧
          w.landed.contains (.g n, s.cycle) = true ∧ w.wait = if u.wait = .ship k then .none else u.wait)) ∧
      (stands → x.status = 0 → shipsClosing x.instr = true → u.wait = .ship k → x.tid = s.cur.tid →
        ∃ v : State, exec (.shipReply k) s = .next v.sealed ∧ v.ship k = none ∧ v.mem = s.mem ∧ v.cur.wait = .none ∧
          v.cur.r.pc = u.r.pc + 4 ∧ v.cur.r.fflags = u.r.fflags ||| x.flags ∧ v.cur.slots = u.slots - 1 ∧
          (∀ c, x.chunk = some c → v.cur.ex.writes = c.writes ∧ v.cur.ex.rlines = c.rlines ∧ v.cur.ex.wlines = c.wlines)) ∧
      (x.cancelled = false → x.gen = u.ex.gen → x.status = 1 ∨ x.status = 2 → u.ex.serialShip = false → u.ex.task = none →
        frees (fun w => w.r = u.restored u.ex [u.ex.gen] ∧ w.ex.serialShip = true ∧ w.ex.count = 0 ∧ w.chcause = 3 ∧
          w.squashes = u.squashes + 1)) ∧
      (x.cancelled = false → x.gen = u.ex.gen → x.status = 1 ∨ x.status = 2 → u.ex.serialShip = true → u.ex.task = none →
        u.com = none → (if shipsClosing x.instr then u.ex.count else x.seq) = 0 → x.tid = s.cur.tid →
        frees (fun w => w.place = .parked ∧ ∃ r, w.trap = some r ∧ r.cause = x.cause ∧ r.val = x.val ∧ r.val2 = x.val2 ∧
          r.shipped = true ∧ r.xclu = some x.cluster ∧
          r.pc = if shipsClosing x.instr then u.r.pc else u.r.pc - 4)))

/-- R164 to R168, R336, R341 to R349: a boundary ends the executing chunk, at a full checkpoint or at a safe point's masked
one; a commit asks, takes its nodes in ascending order, draws a number above all that its nodes have recorded and applies its
stores at that point, and with every acknowledgement in performs its irrevocable lanes, then sets CHSEQ and COMMITS; pins and
the serial token are granted. R335, R347, R169: a write signature that names a line which an open chunk has read or written
squashes that chunk: its thread is back at the chunk's checkpoint, with the squash counted and cause 1; a serial chunk stands,
and a pinned one does where the signature is an agent's outside threads. (The model's own choices that it rests on: logs 8 and
24.) -/
def Obligations.CommitSteps : Prop :=
  (∀ (s : State) (tid : Nat) (u : Thread), s.thread tid = some u →
     (u.place = .run → u.ex.count ≠ 0 → u.irrev = false → u.ex.task = none → u.com = none →
       tileFrozen s (tileOf tid) = false →
       let cuts (k : Fin 5) (mask : Option LiveMask) : Prop := Leads s (.chunkBoundary tid k) (fun t => t.mem = s.mem ∧
         BecomesThread t tid (fun w => w.com = some { u.ex with phase := .ended } ∧ w.r = u.r ∧ w.ex.count = 0 ∧
           w.ex.ckpt = u.r ∧ w.ex.mask = mask ∧ w.ex.writes = []))
       (∀ k : Fin 5, 2 ≤ k.val → cuts k none) ∧ (safePointAt s u = .full → cuts 1 none) ∧
       (∀ m, safePointAt s u = .masked m → cuts 1 (some m)) ∧
       (safePointAt s u = .no → Leads s (.chunkBoundary tid 1) (fun t => t = s))) ∧
     (wantsPins u = true → tileFrozen s (tileOf tid) = false →
       (nextPin s u = none → Leads s (.pinAcquire tid) (fun t => BecomesThread t tid (fun w =>
         w = { u with ex := { u.ex with pinned := true } }) ∧ t.mem = s.mem)) ∧
       (∀ k, nextPin s u = some k → (s.node k).pin = none → (s.node k).excl = none → (s.node k).shared = [] →
         (s.node k).pinQueue = [] ∨ (s.node k).pinQueue.head? = some tid → Leads s (.pinAcquire tid) (fun t =>
           (t.node k).pin = some tid ∧ (∀ j, j ≠ k → t.node j = s.node j) ∧ t.mem = s.mem))) ∧
     (∀ rest, s.weir.serial = none → s.weir.serialQueue = tid :: rest → u.mustSerial = true →
       Leads s .serialTokenGrant (fun t => t.weir.serial = some tid ∧ t.weir.serialQueue = rest ∧ t.mem = s.mem ∧
         BecomesThread t tid (fun w => w.ex.serial = true))) ∧
     (∀ k, Leads s (.appendElementAck k) (fun t => t.weir.heldCounts = s.weir.heldCounts.eraseIdx k ∧
       { t with weir := s.weir } = s)) ∧
     ∀ c, u.com = some c →
       (c.phase = .ended → repliesIn s tid c.gen = true → u.trailDone c.gen = true → hasLeave s c = true →
         ownsLines s u c = true → handsFree s u c = true → tileFrozen s (tileOf tid) = false →
         Leads s (.chunkCommitRequest tid) (fun t => t.mem = s.mem ∧ BecomesThread t tid (fun w =>
           w = { u with com := some { c with phase := .requested } }))) ∧
       (∀ k rest, c.phase = .requested → c.doomed = false →
         (homesOf u c).filter (fun n => !c.held.contains n) = k :: rest → rest ≠ [] →
         nodeFree (s.node k) tid (c.excl.contains k) = true → Leads s (.weirNodeGrant tid) (fun t => t.mem = s.mem ∧
           (if c.excl.contains k then (t.node k).excl = some tid else tid ∈ (t.node k).shared) ∧
           (∀ j, j ≠ k → t.node j = s.node j) ∧
           BecomesThread t tid (fun w => w = { u with com := some { c with held := c.held ++ [k] } }))) ∧
       (c.phase = .requested → c.doomed = false →
         (let left := (homesOf u c).filter (fun n => !c.held.contains n)
          left = [] ∨ ∃ k, left = [k] ∧ nodeFree (s.node k) tid (c.excl.contains k) = true) →
         c.effects = [] → c.hands = [] → handsFree s u c = true →
         Leads s (.weirNodeGrant tid) (fun t => t.mem = Memory.setAll s.mem c.writes ∧
           BecomesThread t tid (fun w => ∃ q v, w.com = some q ∧ q.phase = .numbered ∧ w.lastV = v ∧
             q.num = v * 65536 + (homesOf u c).headD 0 ∧ u.lastV < v ∧ ∀ n ∈ homesOf u c, (s.node n).v < v))) ∧
       (∀ tile, c.phase = .numbered → tile ∈ c.acks → Leads s (.writeSignatureReceive tid tile) (fun t => t.mem = s.mem ∧
         BecomesThread t tid (fun w => w.com = some { c with acks := c.acks.filter (fun n => n != tile) }))) ∧
       (∀ asid node line cells host rest, c.phase = .numbered → c.acks = [] → c.later = .mem asid node line cells host :: rest →
         nodeFree { s.node node with queue := [] } tid true = true → Leads s (.commitRelease tid) (fun t =>
           t.mem = Memory.setAll s.mem cells ∧ BecomesThread t tid (fun w => w.com = some { c with later := rest }))) ∧
       (c.phase = .numbered → c.acks = [] → c.later = [] → Leads s (.commitRelease tid) (fun t => t.mem = s.mem ∧
         BecomesThread t tid (fun w => w.com = none ∧ w.chseq = BitVec.ofNat 64 c.num ∧ w.commits = u.commits + 1 ∧
           w.chrun = 0 ∧ w.instret = u.instret + BitVec.ofNat 64 c.count ∧ w.r = u.r) ∧
         ∀ n ∈ homesOf u c, (t.node n).v = c.num / 65536 ∧ (t.node n).excl ≠ some tid ∧ ¬ tid ∈ (t.node n).shared))) ∧
  (∀ (s : State) (tid asid : Nat) (u : Thread) (lines : List Line) (l : Line) (agent : Bool), s.thread tid = some u →
     l ∈ lines → l.reaches (coreOf tid) = true → l ∈ u.ex.rlines ∨ l ∈ u.ex.wlines → u.com = none → u.fins = [] →
     u.irrev = false → u.ex.task = none →
     let t := receiveAt agent asid lines false s tid
     t.mem = s.mem ∧
     (u.ex.serial = false → (agent && u.ex.pinned) = false → BecomesThread t tid (fun w =>
       w.r = u.restored u.ex [u.ex.gen] ∧ w.ex.writes = [] ∧ w.ex.rlines = [] ∧ w.ex.count = 0 ∧
       w.squashes = u.squashes + 1 ∧ w.chcause = 1)) ∧
     (u.ex.serial = true ∨ (agent && u.ex.pinned) = true → t.thread tid = some u))

/-- R287, R289, R290, R305, R307, R337, R404: a copy that waits starts in a free channel; a piece whose checks pass and whose
nodes are free moves its bytes, zeros for ZFILL, as one point and the channel goes on; one on an irrevocable page reads, then
writes what it has read; one of a stopped array stands; a piece that fails ends the copy with a record on lane R of the die.
(The model's own choices that it rests on: logs 9 and 14.) -/
def Obligations.Copies : Prop :=
  ∀ (s : State) (c : Nat) (ch : Fin 4),
    let h := s.hoist c
    (∀ cmd rest k, h.queue = cmd :: rest → freeChannel h = some k → rangesFit h cmd = true →
      Leads s (.hoistCopyStart c) (fun t => (t.hoist c).queue = rest ∧ { t with hoists := s.hoists } = s ∧
        Tbl.find (t.hoist c).channels k = some { cmd := cmd, row := 0, off := 0, asked := false, got := none })) ∧
    (∀ x srcs dsts, Tbl.find h.channels ch.val = some x → x.got.map Prod.fst = none ∨ x.got.map Prod.fst = some 0 →
      let p := pieceOf s x
      let own := agentId 4 (4 * c + ch.val)
      let from' := if x.got.isSome then [] else srcs
      let plain := copyIrrev s x.cmd p.2.1 .write || (!x.cmd.fill && copyIrrev s x.cmd p.1 .read)
      copyLocs s x.cmd .read p.1 (if x.cmd.fill then 0 else p.2.2) = .ok srcs →
      copyLocs s x.cmd .write p.2.1 p.2.2 = .ok dsts → (∀ q ∈ srcs ++ dsts, q.peer = none) →
      ((∃ q ∈ from' ++ dsts, arrayStopped s x.cmd q = true) → Leads s (.hoistPiece c ch) (fun t => t = s)) ∧
      ((∀ q ∈ from' ++ dsts, arrayStopped s x.cmd q = false) → (∀ q ∈ from', ¬ q.line ∈ s.weir.heldCounts) →
      (plain = true → x.cmd.fill = false → x.got = none → (∀ q ∈ srcs, poisoned s q 1 = false) →
        agentFree s own (locNodes srcs) = true → Leads s (.hoistPiece c ch) (fun t => t.mem = s.mem ∧
          Tbl.find (t.hoist c).channels ch.val = some { x with
            got := some (0, srcs.map (fun q => Memory.get s.mem q.key)) })) ∧
      (plain = false ∨ x.cmd.fill = true ∨ x.got.isSome ∨ (∃ q ∈ srcs, poisoned s q 1 = true) → agentFree s own (locNodes (from' ++ dsts)) = true →
      Leads s (.hoistPiece c ch) (fun t => t.mem = Memory.setAll s.mem
        ((dsts.map Loc.key).zip (if x.cmd.fill then List.replicate p.2.2 0 else match x.got with
          | some g => (List.range p.2.2).map (fun k => g.2.getD k 0)
          | none => srcs.map (fun q => Memory.get s.mem q.key))) ∧
        (x.off + p.2.2 < x.cmd.len → ∃ y, Tbl.find (t.hoist c).channels ch.val = some y ∧ y.off = x.off + p.2.2 ∧
          y.row = x.row) ∧
        (x.cmd.len ≤ x.off + p.2.2 → x.row + 1 < x.cmd.rows → ∃ y, Tbl.find (t.hoist c).channels ch.val = some y ∧
          y.off = 0 ∧ y.row = x.row + 1) ∧
        (x.cmd.len ≤ x.off + p.2.2 → x.cmd.rows ≤ x.row + 1 → Tbl.find (t.hoist c).channels ch.val = none))))) ∧
    (∀ x k v w, Tbl.find h.channels ch.val = some x →
      (let p := pieceOf s x
       copyLocs s x.cmd .read p.1 (if x.cmd.fill then 0 else p.2.2) = .trap k v w ∨
         ((∃ srcs, copyLocs s x.cmd .read p.1 (if x.cmd.fill then 0 else p.2.2) = .ok srcs) ∧
           copyLocs s x.cmd .write p.2.1 p.2.2 = .trap k v w)) →
      Leads s (.hoistPiece c ch) (fun t => t.mem = s.mem ∧ Tbl.find (t.hoist c).channels ch.val = none ∧
        ∃ r, (t.tail (dieOf c)).waitR = (s.tail (dieOf c)).waitR ++ [r] ∧ r.cause = k ∧ r.val = v ∧ r.val2 = w ∧
          r.copy = true ∧ r.nopark = true ∧ r.tid = x.cmd.tid ∧ r.pc = x.cmd.pc))

/-- R339, R353, R366, R367, R369, R379, R381, R428, R434: what ends a wait. A barrier whose participants have all arrived goes
to its next phase and releases them; a sleeper of WAITV wakes with 0 or, after WAITTO cycles in which nothing has written the
line, with 1; the host's completion, with its value, and a peer's answer go to the chunk of one that waits, or to the big core
that asked; a FetchAdd of a RED that has failed is taken back; a record that can be posted leaves its waiting list; a
supervisor that a trap has parked restarts at the host's address, bit 0 of it clear. (The model's own choices that it rests
on: log 14.) -/
def Obligations.Wakes : Prop :=
  ∀ (s : State) (tid : Nat) (u : Thread), s.thread tid = some u → tileFrozen s (tileOf tid) = false →
    let wakes (i : Instr) (r : Nat) : Prop := Leads s i (fun t => t.mem = s.mem ∧ BecomesThread t tid (fun w =>
      w.wait = .none ∧ w.ex.answer = some (r, 0) ∧ w.r = u.r))
    (∀ line node seen due, u.wait = .waitv line node seen due →
      let wrote := touchedSince s line seen
      wakes (.waitvWake tid) 0 ∧ (due ≤ s.cycle → wakes (.waitvTimeout tid) (if wrote then 0 else 1)) ∧
      Leads s (.waitvWake tid) (fun t => BecomesThread t tid (fun w =>
        w.lastV = if wrote then max u.lastV (writerV s line node) else u.lastV))) ∧
    (∀ val, u.wait = .host →
      wakes (.hostAtomicCompletion tid (some val)) 0 ∧ wakes (.hostAtomicCompletion tid none) 1 ∧
      Leads s (.hostAtomicCompletion tid (some val)) (fun t => BecomesThread t tid (fun w => w.ex.lanes = [val.toNat]))) ∧
    (∀ x val, u.wait ≠ .host → askedShip s tid = some x → Leads s (.hostAtomicCompletion tid val) (fun t =>
      t.mem = s.mem ∧ ∃ y, t.ship x.id = some y ∧ y.hostOk = some val.isSome ∧ ∀ v, val = some v → y.hostVal = v)) ∧
    (∀ h val, u.wait ≠ .host → askedShip s tid = none → s.links.hostAdds.find? (fun h => h.tid == tid) = some h →
      Leads s (.hostAtomicCompletion tid (some val)) (fun t => t.links.hostAdds = s.links.hostAdds.erase h ∧ t.mem = s.mem) ∧
      Leads s (.hostAtomicCompletion tid none) (fun t => t.links.hostAdds = s.links.hostAdds.erase h ∧
        (∃ q : Rec, q.cause = cHAOP ∧ q.nopark = true ∧ q.tid = tid ∧ q.val = h.va ∧
          if coreHolds s (coreOf tid) then t.links.lates = s.links.lates ++ [(dieOf (clusterOf tid), q)]
          else (t.tail (dieOf (clusterOf tid))).waitR = (s.tail (dieOf (clusterOf tid))).waitR ++ [q]) ∧
        let top := 2 ^ (8 * h.size)
        t.mem = Memory.setNum s.mem h.key h.size
          ((Memory.num s.mem h.key h.size + (top - h.x.toNat % top)) % top))) ∧
    (∀ m (st : Fin 8) data n en, peerHead s tid = some m → m.tid = tid → m.act = .read n en → u.wait = .peer →
      let refused (i : Instr) (st : Nat) : Prop := Leads s i (fun t => t.mem = s.mem ∧ BecomesThread t tid (fun w =>
        w.wait = .none ∧ w.ex.answer = some (st, m.va)))
      (st ≠ 0 → refused (.peerResponse tid st data) st.val) ∧
      (m.since + 2 ^ 20 ≤ s.cycle → refused (.peerTimeout tid) 6) ∧
      Leads s (.peerResponse tid 0 data) (fun t => t.mem = s.mem ∧ t.links.peerOut = s.links.peerOut.erase m ∧
        BecomesThread t tid (fun w => ∀ j < n,
          bufGet w.ex.outside (2 ^ 60 + m.dev * 2 ^ 48 + m.off + j) = some (data.getD j 0)))) ∧
    (∀ m (st : Fin 8) data, peerHead s tid = some m → (∀ n en, m.act ≠ .read n en) → (∀ c ch n, m.act ≠ .fetch c ch n) →
      Leads s (.peerResponse tid st data) (fun t => t.mem = s.mem ∧ t.links.peerOut = s.links.peerOut.erase m)) ∧
    (∀ k b, s.work.barriers[k]? = some b → barrierFull s b = true → Leads s (.barrierRelease k) (fun t => t.mem = s.mem ∧
      t.work.barriers[k]? = some (b.next (residentsOf s b)) ∧
      (tid ∈ b.arrived → tileTakes s (tileOf tid) = true → u.pending = some (k, b.phase) →
        BecomesThread t tid (fun w => w.pending = none ∧ w.lastV = max u.lastV b.v ∧
          w.wait = if u.wait = .barrier k b.phase then .none else u.wait)))) ∧
    (let free (agent : Nat) : Prop := ∀ n, nodeFree (s.node n) agent true = true
     let waits (agent : Nat) (t : State) : Prop := ∃ nodes, agentFree s agent nodes = false ∧ t = agentWait s agent nodes
     (∀ d r rest v, (s.tail d).waitH = r :: rest → postRecord s d true r = some v →
       let posted (t : State) : Prop := (t.tail d).postedH = (s.tail d).postedH + 1 ∧
         ∃ more, (t.tail d).waitH = rest ++ more ∧ (r.holder = none → more = [])
       Leads s (.tailracePost d) (fun t => t = v ∧ (posted t ∨ waits (agentId 5 (2 * d + 1)) t) ∧
         (free (agentId 5 (2 * d + 1)) → posted t))) ∧
     (∀ d r rest v, (s.tail d).waitH = [] → (s.tail d).waitR = r :: rest → postRecord s d false r = some v →
       let posted (t : State) : Prop := (t.tail d).postedR = (s.tail d).postedR + 1 ∧
         ∃ more, (t.tail d).waitR = rest ++ more ∧ (r.holder = none → more = [])
       Leads s (.tailracePost d) (fun t => t = v ∧ (posted t ∨ waits (agentId 5 (2 * d)) t) ∧
         (free (agentId 5 (2 * d)) → posted t)))) ∧
    (∀ (die : Fin 4) (pc : Word), tid = superTid die.val → u.place = .parked →
      Leads s (.supervisorRestart die pc) (fun t => t.mem = s.mem ∧ BecomesThread t tid (fun w =>
        w.place = .run ∧ w.r = { u.r with pc := pc &&& ~~~1#64 } ∧ w.trap = none ∧ w.ex.ckpt = w.r ∧ w.ex.count = 0)))

/-- R175, R375, R413 to R415, R418: the watchdog parks a thread at its checkpoint after 2^20 cycles, with a record on lane H;
an uncorrectable error that a thread consumes parks it for good with its registers scrubbed, and one in what a job or atomic
of it has read makes the reply's status 3; a paired thread is squashed by a register error or a mismatch, and parked for good
by a second mismatch in a row; an error that no thread consumes is corrected, or its word or line poisoned, and counts either way;
one in a sharer vector sets all of its bits. (The model's own choices that it rests on: logs 4, 19 and 20.) -/
def Obligations.HardwareErrors : Prop :=
  ∀ (s : State) (tid : Nat) (u : Thread), s.thread tid = some u →
    let parked (t : State) (cause : Nat) (w : Thread) : Prop := w.place = .parked ∧
      ∃ r, w.trap = some r ∧ r.cause = cause ∧ r.laneH = true ∧ r.tid = tid ∧
        (t.tail u.die).waitH = (s.tail u.die).waitH ++ [r]
    (∀ (commit : Bool) n, watchdogFinds s u commit = some n → u.place = .run → u.inBody = false →
      Leads s (.watchdogExpiry tid commit) (fun t => t.mem = s.mem ∧ BecomesThread t tid (fun w =>
        parked t cWDOG w ∧ w.ex.count = 0 ∧ w.ex.writes = []))) ∧
    (∀ (va : Word) (origin : Fin 8), origin ≠ 0 → u.place = .run → tileFrozen s (tileOf tid) = false →
      (origin = 6 → pairedRun s u = false) →
      (6 ≤ origin.val ∨ ∀ l, resolve s u va 1 .read = .ok l → readingShip s tid l.line = none) →
      Leads s (.eccUncorrectable tid va origin) (fun t => t.mem = s.mem ∧ BecomesThread t tid (fun w =>
        parked t cECCU w ∧ (∀ n : Fin 32, w.r.g[n] = 0) ∧ (∀ n : Fin 32, w.r.v[n] = 0) ∧
        (∀ r, w.trap = some r → r.fatal = true)))) ∧
    (∀ (va : Word) (origin : Fin 8) l x, origin ≠ 0 → origin.val < 6 → u.place = .run →
      tileFrozen s (tileOf tid) = false → resolve s u va 1 .read = .ok l → readingShip s tid l.line = some x →
      Leads s (.eccUncorrectable tid va origin) (fun t => t.mem = s.mem ∧
        ∃ y, t.ship x.id = some y ∧ y.replied = true ∧ y.status = 3 ∧ y.cause = origin.val ∧ y.val = va)) ∧
    (∀ va : Word, pairedRun s u = true → u.place = .run → tileFrozen s (tileOf tid) = false →
      (u.ex.task = none → Leads s (.eccUncorrectable tid va 6) (fun t => t.mem = s.mem ∧ BecomesThread t tid (fun w =>
        w.place = .run ∧ w.r = u.restored u.ex [u.ex.gen] ∧ w.ex.count = 0 ∧ w.ex.writes = [] ∧ w.chcause = 4 ∧
        w.com = u.com))) ∧
      (∀ c, u.com = some c → c.phase = .ended → c.task = none →
        (¬ (u.chcause = 5 ∧ u.chrun ≠ 0) → Leads s (.eccUncorrectable tid va 0) (fun t => t.mem = s.mem ∧
          BecomesThread t tid (fun w => w.place = .run ∧ w.r = u.restored c [u.ex.gen, c.gen] ∧ w.com = none ∧
            w.ex.count = 0 ∧ w.chcause = 5))) ∧
        (u.chcause = 5 → u.chrun ≠ 0 → Leads s (.eccUncorrectable tid va 0) (fun t => t.mem = s.mem ∧
          BecomesThread t tid (fun w => parked t cPAIR w ∧ ∀ r, w.trap = some r → r.fatal = true ∧ r.val = va))))) ∧
    (∀ key, deviceBacked key = true ∨ 2 ^ 40 ≤ key ∧ key < 2 ^ 40 + 8256 * 2 ^ 21 →
      Leads s (.scrub key true) (fun t => poisonUnit key ∈ t.poison ∧ t.mem = s.mem) ∧
      Leads s (.scrub key false) (fun t => { t with telem := s.telem } = s)) ∧
    ∀ (asid : Fin 1024) (n : Nat) (bad : Bool), n < 2 ^ 57 → Leads s (.scrub (sharerKey asid.val n) bad) (fun t =>
      t.mem = s.mem ∧ ∀ c < 64, c ∈ sharersOf t (.glob asid.val n))

/-- R340, R425 to R430, R433, R435: accesses from the host and from peer devices. A write takes effect line by line, each as
one point in a step of its own, an AtomicOp that passes the checks as one point; a read is answered with the bytes, a line in
a step; a write that fails is dropped and counted; an access whose node is held waits there; an acknowledgement ends the
oldest posted write, a refusal takes its bytes back and is logged against the function whose requester ID it carried; under
CXL lines are granted, snooped and given up. (The model's own choices that it rests on: log 14.) -/
def Obligations.LinkAccesses : Prop :=
  ∀ (s : State) (f : Fin 17) (off : Nat) (data : List Byte) (va : Nat) (l : Loc),
    (apertureVa s f.val off data.length = some va → 0 < data.length → s.links.waiting = [] →
      let k := min data.length (128 - va % 128)
      (hostLoc s va .write = some l →
        (agentFree s (agentId 0 f.val) [l.node] = true → Leads s (.hostWrite f off data) (fun t =>
          t.mem = Memory.setAll s.mem (cellsAt l.key (data.take k)) ∧
          t.links.waiting = if k < data.length then [.write f (off + k) (data.drop k)] else [])) ∧
        (agentFree s (agentId 0 f.val) [l.node] = false → Leads s (.hostWrite f off data) (fun t =>
          t = { agentWait s (agentId 0 f.val) [l.node] with links := { s.links with waiting := [.write f off data] } }))) ∧
      (hostLoc s va .write = none → data.length = k → Leads s (.hostWrite f off data) (fun t => t.mem = s.mem ∧
        (t.func f.val).errlog = (s.func f.val).errlog ++ [(va, 1)]))) ∧
    (s.boot.started = false → 0 < data.length → s.links.waiting = [] → Leads s (.hostWrite f off data) (fun t => t.mem = s.mem ∧
      (t.func f.val).errlog = (s.func f.val).errlog ++ [((s.func f.val).apva.toNat + off, 1)])) ∧
    (∀ n, s.links.waiting = [] → apertureVa s f.val off n = some va → 0 < n →
      let k := min n (128 - va % 128)
      hostLoc s va .read = some l → lineBusy s l = false → Leads s (.hostRead f off n) (fun t => t.mem = s.mem ∧
        if k < n then t.links.waiting = [.read f off n (Memory.bytes s.mem l.key k) (poisoned s l k)] ∧
          t.links.answers = s.links.answers
        else t.links.waiting = [] ∧
          t.links.answers = s.links.answers ++ [(f.val, some (Memory.bytes s.mem l.key n, poisoned s l n))])) ∧
    (∀ (op size : Fin 3) (x y : BitVec 128), s.links.waiting = [] →
      let n := 4 * 2 ^ size.val
      apertureVa s f.val off n = some va → va % n = 0 → (size ≠ 2 ∨ op = 2) → hostLoc s va .rmw = some l →
      (l.leaf.map Leaf.sys).getD false = true → agentFree s (agentId 0 f.val) [l.node] = true → ¬ l.line ∈ s.weir.heldCounts →
      let old := Memory.num s.mem l.key n
      let new := match op with
        | 0 => (old + x.toNat) % 2 ^ (8 * n)
        | 1 => x.toNat % 2 ^ (8 * n)
        | 2 => if old = x.toNat % 2 ^ (8 * n) then y.toNat % 2 ^ (8 * n) else old
      Leads s (.hostAtomicop f off op size x y) (fun t => t.mem = Memory.setNum s.mem l.key n new ∧
        t.links.answers = s.links.answers ++ [(f.val, some (bytesOf n old, poisoned s l n))])) ∧
    (∀ e rest, s.links.hostWrites = e :: rest → Leads s (.hostWriteAck true) (fun t =>
      t.links.hostWrites = rest ∧ t.mem = s.mem ∧ t.funcs = s.funcs)) ∧
    (∀ e rest, s.links.hostWrites = e :: rest → Leads s (.hostWriteAck false) (fun t =>
      t.mem = (refuseWrite s.mem rest e.old).1 ∧ t.links.hostWrites = (refuseWrite s.mem rest e.old).2 ∧
      (t.func e.fn).errlog = (s.func e.fn).errlog ++ [(e.line * 128 - hostKey 0, 0)])) ∧
    (∀ tid u c n, s.thread tid = some u → u.com = some c →
      (s.links.cxl = true → c.phase = .ended → c.sysLines.find? (fun n => !s.links.cxlOwned.contains n) = some n →
        Leads s (.hostOwnershipGrant tid) (fun t => t.links.cxlOwned = s.links.cxlOwned ++ [n] ∧ t.mem = s.mem)) ∧
      Leads s (.cxlBiResponse tid) (fun t => t.mem = s.mem ∧ ∀ k ∈ keysOf s u c, ¬ (k / 128) ∈ t.links.hostHeld)) ∧
    (∀ line, s.links.cxl = true → s.links.waiting = [] →
      agentFree s (agentId 0 512) ((namesOf s line).foldl (fun m e => insertAsc e.2.2 m) []) = true →
      Leads s (.cxlSnoop line) (fun t => ¬ line ∈ t.links.cxlOwned ∧ t.mem = s.mem)) ∧
    (∀ (src : BitVec 8) n, s.links.waiting = [] → (windowOf s off).all (fun w => decide (w.1 + w.2.1 < off + n)) = true →
      Leads s (.peerAccessArrive src off 0 n []) (fun t => t.mem = s.mem ∧
        t.links.peerAnswers = s.links.peerAnswers ++ [(src.toNat, 2, [])])) ∧
    (∀ (src : BitVec 8) base size w rights n, s.links.waiting = [] → windowOf s off = some (base, size, w, rights) →
      va = w + (off - base) → 0 < n → off + n ≤ base + size → n ≤ 128 - va % 128 →
      let answers (t : State) (st : Nat) (bs : List Byte) : Prop :=
        t.links.peerAnswers = s.links.peerAnswers ++ [(src.toNat, st, bs)]
      (rights % 2 = 1 → hostLoc s va .read = some l → poisoned s l n = false → lineBusy s l = false →
        Leads s (.peerAccessArrive src off 0 n []) (fun t => t.mem = s.mem ∧ answers t 0 (Memory.bytes s.mem l.key n))) ∧
      (rights / 2 % 2 = 1 → data.length = n → hostLoc s va .write = some l → agentFree s (agentId 0 (32 + src.toNat)) [l.node] = true →
        Leads s (.peerAccessArrive src off 1 0 data) (fun t => t.mem = Memory.setAll s.mem (cellsAt l.key data) ∧
          answers t 0 [])) ∧
      (∀ op, rights / 4 % 2 = 1 → data.length = n → hostLoc s va .rmw = some l → poisoned s l n = false →
        agentFree s (agentId 0 (32 + src.toNat)) [l.node] = true → Leads s (.peerAccessArrive src off 2 op data) (fun t =>
          t.mem = Memory.setNum s.mem l.key n (peerRed op n (Memory.num s.mem l.key n) (ofBytes data)) ∧
          answers t 0 [])) ∧
      (rights % 2 = 0 → Leads s (.peerAccessArrive src off 0 n []) (fun t => t.mem = s.mem ∧ answers t 3 []))) ∧
    (∀ port : Fin 16, Leads s (.peerPortDown port) (fun t => port.val ∈ t.links.down ∧ t.mem = s.mem))

/-- R24, R65, R422, R431, R436, R442 to R446: resets, and thermal, power and link events: a reset of the module stops its
cores and forgets its work, one of a virtual function ends its launches, and its ASIDs retire once no launch of theirs is
incomplete; a trip lowers clock and supply, raises vector 2 and answers an outstanding POWER; a critical temperature stops
every clock; a settled supply switches the clock. (The model's own choices that it rests on: logs 1, 2 and 19.) -/
def Obligations.PowerAndResets : Prop :=
  ∀ (s : State) (f : Fin 17),
    let module (i : Instr) : Prop := Leads s i (fun t => t.boot.started = false ∧ t.work = State.reset.work ∧
      t.cycle = 0 ∧ t.cur = State.reset.cur ∧ t.others = State.reset.others ∧ t.boot.absent = s.boot.absent)
    module .moduleReset ∧ module (.functionLevelReset 0) ∧
    (f ≠ 0 → s.boot.started = true → s.links.waiting = [] → Leads s (.functionLevelReset f) (fun t =>
      (t.func f.val).lcctl.getLsbD 8 = false ∧ t.mem = s.mem ∧
      (∀ e ∈ t.work.asids, e.2.owner = f.val → e.1 ∈ t.work.retiring ∧ asidInUse t e.1 = true) ∧
      ∀ k L, s.launchAt k = some L → L.fn = f.val → L.complete = false →
        ∃ M, t.launchAt k = some M ∧ M.status = if L.status = some 4 then some 4 else some 2)) ∧
    (∀ (die : Fin 4) sensor temp, 105 ≤ temp → Leads s (.thermalTrip die sensor temp) (fun t =>
      t.power.clock = 800 ∧ t.power.mv = 550 ∧ t.power.hold = true ∧ t.power.target = none ∧
      t.power.log = s.power.log ++ [(die.val, sensor, temp, s.cycle)] ∧
      (∀ clock mv u, s.power.target = some (clock, mv, some u) → (t.box u).result = some (2, [])) ∧
      t.func 0 = (s.func 0).raise 2 ∧ t.mem = s.mem ∧ t.cur = s.cur ∧ t.others = s.others)) ∧
    Leads s .thermalCritical (fun t => t.power.critical = true ∧ canIssue t = false ∧ t.mem = s.mem ∧
      ∀ u b, Tbl.find s.boxes u = some b → b.busy = true → (t.box u).result = some (5, [])) ∧
    (∀ clock mv who, s.power.target = some (clock, mv, who) → Leads s .powerVoltageSettled (fun t =>
      t.power = { s.power with clock := clock, mv := mv, target := none } ∧ t.mem = s.mem ∧
      ∀ u, who = some u → (t.box u).result = some (0, []))) ∧
    ∀ (width : Fin 5) (gen : Fin 3), Leads s (.linkTrainingComplete width gen) (fun t =>
      { t with links := s.links } = s ∧ t.links.trained = true ∧ t.links.width = width.val ∧ t.links.gen = gen.val ∧
      t.links.cxl = Config.cxl)

/-- R329, R352, R395 to R412: FREEZE stops a tile's clock under a new generation; SAVE begins and its end leaves an image with
that generation; THAW starts the clock again and retires the generation; VACATE leaves the tile's arrays zero; RESTORE begins,
or is refused with a record on lane R, and its end starts the clock, or finds an error and is refused then; DISCARD retires an
image; what reaches a stopped tile goes to its Pond, and a shell sends on what is for work restored elsewhere. (The model's
own choices that it rests on: logs 11, 12 and 28.) -/
def Obligations.Tiles : Prop :=
  ∀ (s : State) (u : Fin 21) (tile : Nat) (image pond : Word), u = 0 ∨ 17 ≤ u.val →
    let x := s.tile tile
    let stopped : Prop := (x.state = .frozen ∨ x.state = .saved) ∧ x.saving = none
    let refused (t : State) (d k : Nat) : Prop := ∃ r : Rec, r.cause = cRESTORE ∧ r.val2 = BitVec.ofNat 64 k ∧ r.nopark = true ∧
      r.val = BitVec.ofNat 64 (rawTile s image) ∧ if heldBy s 0 then t.links.lates = s.links.lates ++ [(d, r)]
        else (t.tail d).waitR = (s.tail d).waitR ++ [r]
    (Accepts s u 0x30 → tileThere s tile = true → tileTakes s tile = true → u = 0 ∨ holdsSuper tile = false →
      Replies s (.freeze u [tile]) u 0x30 0 [] (fun t => (t.tile tile).state = .frozen ∧
        (t.tile tile).gen = s.freeze.nextGen ∧ (t.tile tile).frozenAt = s.cycle ∧
        t.freeze.nextGen = s.freeze.nextGen + 1 ∧
        ((s.shoe (tileCluster tile)).items.length + s.threads.length ≤ 4096 → t.mem = s.mem))) ∧
    (Accepts s u 0x31 → stopped → image.toNat % 65536 = 0 → pond.toNat % 65536 = 0 →
      (spanFrames s image.toNat .write (imageSize tile / 65536)).isSome → (spanFrames s pond.toNat .write 1).isSome →
      Leads s (.save u tile image pond) (fun t => (t.tile tile).saving = some (image, pond, u.val) ∧
        (t.tile tile).late = (tileThreads s tile).any goesOn ∧
        (t.box u.val).busy = true ∧ (t.box u.val).result = none ∧ t.mem = s.mem)) ∧
    (∀ fs, x.saving = some (image, pond, u.val) → saveReady s tile = true →
      spanFrames s image.toNat .write (imageSize tile / 65536) = some fs →
      Leads s (.saveComplete tile) (fun t => (t.tile tile).state = .saved ∧ (t.tile tile).saving = none ∧
        (t.box u.val).result = some (0, []) ∧
        ∃ i ∈ t.freeze.images, i.addr = image ∧ i.gen = x.gen ∧ i.tile = tile ∧ i.stamp = x.frozenAt)) ∧
    (Accepts s u 0x32 → stopped → Leads s (.thaw u tile) (fun t => (t.tile tile).state = .running ∧
      (t.tile tile).pond = x.pond.filter (fun e => !lands s tile e.packet) ∧ x.gen ∈ t.freeze.retired ∧ (t.box u.val).result = some (0, []))) ∧
    (Accepts s u 0x33 → x.state = .saved → x.saving = none →
      Replies s (.vacate u tile) u 0x33 0 [] (fun t => (t.tile tile).state = .vacant ∧
        (∀ a, (tileKeys tile).1 ≤ a → a < (tileKeys tile).2 → Memory.get t.mem a = 0) ∧
        ∀ w ∈ t.threads, tileOf w.tid = tile → w.super = false → w.launch = none ∧ w.place = .notHeld)) ∧
    (Accepts s u 0x34 → tileThere s tile = true → ∀ arch,
      (restoreFault s (readHeader s image) tile arch = 0 → Leads s (.restore u image tile arch) (fun t =>
        (t.tile tile).loading = some (image, arch, u.val) ∧ (t.box u.val).result = none ∧ t.mem = s.mem)) ∧
      (∀ k, k ≠ 0 → restoreFault s (readHeader s image) tile arch = k → Replies s (.restore u image tile arch) u 0x34
        (if k = 4 ∨ k = 7 ∧ (s.tile (fieldTile (rawTile s image))).state ≠ .vacant then 2 else 1) []
        (fun t => t.mem = s.mem ∧ refused t (dieOf (tileCluster tile)) k))) ∧
    (∀ arch, x.loading = some (image, arch, u.val) →
      (∀ h, readHeader s image = some h → Leads s (.restoreLoaded tile) (fun t => (t.tile tile).state = .running ∧
        (t.tile tile).loading = none ∧ h.gen ∈ t.freeze.retired ∧ (t.box u.val).result = some (0, []))) ∧
      (readHeader s image = none → Leads s (.restoreLoaded tile) (fun t => (t.tile tile).loading = none ∧
        (t.box u.val).result = some (1, []) ∧ t.mem = s.mem ∧ refused t (dieOf (tileCluster tile)) 1))) ∧
    (Accepts s u 0x35 → ∀ i, imageAt s image = some i →
      Leads s (.discard u image) (fun t => i.gen ∈ t.freeze.retired ∧ (t.box u.val).result = some (0, []) ∧
        ∀ j ∈ t.freeze.images, j.gen ≠ i.gen)) ∧
    (∀ p rest, tileTakes s tile = false → x.held = p :: rest → (∀ e ∈ x.pond, (mergeNotice p e).isSome = false) →
      Leads s (.pondAbsorb tile) (fun t => (t.tile tile).held = rest ∧
        (t.tile tile).pond = x.pond ++ [{ packet := p, stamp := s.cycle }] ∧ t.mem = s.mem ∧ t.cur = s.cur ∧
        t.others = s.others)) ∧
    (let sends (p : Packet) (y : Tile) : Prop :=
       let target := ((p.slot s).map tileOf).getD tile
       let z : Tile := { y with forwards := x.forwards.map (fun f => if f.target = target then { f with since := s.cycle } else f) }
       target ≠ tile ∧
       (tileTakes s target = true → Leads s (.packetForward tile) (fun t => t = deliverPacket (s.mapTile tile (fun _ => z)) p)) ∧
       (tileTakes s target = false → Leads s (.packetForward tile) (fun t => t.tile tile = z ∧ t.mem = s.mem ∧
         t.tile target = { s.tile target with held := (s.tile target).held ++ [p] } ∧ t.cur = s.cur ∧ t.others = s.others))
     (∀ e, x.pond.find? (fun e => goesOnward s tile e.packet) = some e → sends e.packet { x with pond := x.pond.erase e }) ∧
     (∀ p, x.pond.find? (fun e => goesOnward s tile e.packet) = none → x.held.find? (goesOnward s tile) = some p →
       sends p { x with held := x.held.erase p })) ∧
    (∀ f, x.forwards.find? (forwardDone s tile) = some f → Leads s (.forwardEntryFree tile) (fun t =>
      (t.tile tile).forwards = x.forwards.erase f ∧ t.mem = s.mem ∧ t.cur = s.cur ∧ t.others = s.others))

/-- R64, R65, R274, R280, R281, R337: the commands on address spaces: an ASID is created within the quota and retired; MAP
writes a valid entry, at once or, where frames need their zero fill or a node is held, in its turn; UNMAP and PROTECT change
an entry; synonyms are registered and deleted. (The model's own choices that it rests on: logs 4 and 12.) -/
def Obligations.MappingCommands : Prop :=
  ∀ (s : State) (u : Fin 21) (asid casid : Fin 1024) (va cva leaf root : Word) (big place : Bool) (f : Fin 17) (n : Nat),
    (Accepts s u 0x11 → u.val = f.val → asid ≠ 0 → Tbl.find s.work.asids asid.val = none → root.toNat % 65536 = 0 →
      deviceBacked root.toNat = true → asidsOf s u.val < (s.func u.val).quota →
      Replies s (.ascreate u asid root place f) u 0x11 0 [] (fun t => t.mem = s.mem ∧
        Tbl.find t.work.asids asid.val = some { root := root.toNat, directed := place, owner := u.val })) ∧
    (Accepts s u 0x12 → ownsAsid s u asid.val = true → asid ≠ 0 →
      s.work.launches.any (fun l => l.asid == asid.val && !l.complete) = false →
      Replies s (.asretire u asid) u 0x12 0 [] (fun t => t.mem = s.mem ∧ Tbl.find t.work.asids asid.val = none ∧
        (∀ e ∈ t.maps.frameOwner, e.2 ≠ asid.val) ∧ ∀ e ∈ t.work.tileOwner, e.2 ≠ asid.val)) ∧
    (Accepts s 0 0x13 → Replies s (.quota 0 f n) 0 0x13 0 [] (fun t => t.mem = s.mem ∧
      t.func f.val = { s.func f.val with quota := n })) ∧
    (Accepts s u 0x20 → ownsAsid s u asid.val = true → badLeaf leaf.toNat va.toNat big = false →
      covered s asid.val va.toNat big = false → sizeClash s asid.val va.toNat big = false →
      mayShare s u.val asid.val leaf.toNat big = true →
      let now : Prop := framesToFill s asid.val leaf.toNat big = [] ∧ s.maps.fills = [] ∧
        agentFree s (agentId 3 u.val) (pageHomes s asid.val va.toNat big) = true
      (now → Replies s (.map u asid va leaf big) u 0x20 0 [] (fun t =>
        t.mem = (writeLeaf s asid.val va.toNat leaf.toNat big).mem)) ∧
      (¬ now → Leads s (.map u asid va leaf big) (fun t => t.mem = s.mem ∧
        t.maps.fills = s.maps.fills ++ [(u.val, asid.val, va, leaf, big)] ∧ (t.box u.val).result = none))) ∧
    (∀ rest, s.maps.fills = (u.val, asid.val, va, leaf, big) :: rest →
      agentFree s (agentId 3 u.val) (pageHomes s asid.val va.toNat big) = true → Leads s .mapFillComplete (fun t =>
      t.maps.fills = rest ∧ (t.box u.val).result = some (0, []) ∧
      ∀ pa ∈ framesToFill s asid.val leaf.toNat big, Tbl.find t.maps.frameOwner (pa / 65536) = some asid.val)) ∧
    (∀ entry l, s.links.waiting = [] → ownsAsid s u asid.val = true → leafEntry s asid.val va.toNat = some (entry, l) →
      agentFree s (agentId 3 u.val) (homesOfLines s (pageLines s asid.val va.toNat l.big).2) = true →
      (Accepts s u 0x21 → Replies s (.unmap u asid va) u 0x21 0 [] (fun t => t.mem = Memory.setNum s.mem entry 8 0)) ∧
      (Accepts s u 0x22 → leaf.toNat / 2 ^ 24 = l.frame →
        badLeaf leaf.toNat (va.toNat / pageSize l.big * pageSize l.big) l.big = false →
        Replies s (.protect u asid va leaf) u 0x22 0 [] (fun t => t.mem = Memory.setNum s.mem entry 8 leaf.toNat))) ∧
    (Accepts s u 0x23 → ownsAsid s u asid.val = true → s.maps.aliases.length < 16384 →
      va.toNat % pageSize big = 0 → cva.toNat % pageSize big = 0 → (Tbl.find s.work.asids casid.val).isSome →
      mappedBig s casid.val cva.toNat = some big → mappedBig s asid.val va.toNat ≠ some (!big) →
      (big = true → mappedBig s asid.val va.toNat = some true ∨ covered s asid.val va.toNat true = false) →
      aliasIn s.maps.aliases asid.val va.toNat = none → s.links.waiting = [] →
      agentFree s (agentId 3 u.val) (pageHomes s asid.val va.toNat big) = true →
      Replies s (.areg u asid va casid cva big) u 0x23 0 [] (fun t => t.mem = s.mem ∧ t.maps.aliases =
        s.maps.aliases ++ [(asid.val, va.toNat, casid.val, cva.toNat, if big then 29 else 16)])) ∧
    (Accepts s u 0x24 → ownsAsid s u asid.val = true → mappedBig s asid.val va.toNat = none →
      s.maps.aliases.any (fun e => e.1 == asid.val && e.2.1 == va.toNat) = true → s.links.waiting = [] →
      agentFree s (agentId 3 u.val) (pageHomes s asid.val va.toNat
        (s.maps.aliases.any (fun e => e.1 == asid.val && e.2.1 == va.toNat && e.2.2.2.2 == 29))) = true →
      Replies s (.adel u asid va) u 0x24 0 [] (fun t => t.mem = s.mem ∧
        ∀ e ∈ t.maps.aliases, ¬ (e.1 = asid.val ∧ e.2.1 = va.toNat)))

/-- R1, R63, R70, R86, R97, R379, R380, R423, R432, R436, R438 to R445: the other commands of the mailbox, their replies
and effects; a doorbell while one is outstanding is discarded; an unassigned code is UNKNOWN; a completed command is
reported by vector 0, or by a wake of the supervisor. (The model's own choices that it rests on: logs 2 and 12.) -/
def Obligations.MailboxCommands : Prop :=
  ∀ (s : State) (u : Fin 21) (f : Fin 17) (die : Fin 4) (n m k : Nat) (x y z : Word),
    (Accepts s u 0x01 → Replies s (.info u) u 0x01 0
      ([Config.stepping.toNat, (Config.infoWord 0).toNat, presentMap s, protocols s].flatMap (bytesOf 8))
      (fun t => { t with boxes := s.boxes } = s)) ∧
    (Accepts s 0 0x02 → s.boot.started = false → s.boot.failed = none →
      (x.toNat + n ≤ 2 ^ 64 → Replies s (.fwload 0 x n true) 0 0x02 0 [] (fun t => t.boot = { s.boot with firmware := true })) ∧
      Replies s (.fwload 0 x n false) 0 0x02 1 [] (fun t => t.boot = s.boot)) ∧
    (Accepts s 0 0x03 → s.boot.started = false → s.boot.failed = none → s.boot.firmware = true →
      (∃ bs, Replies s (.start 0 none) 0 0x03 0 bs (fun t => t.boot.started = true ∧ t.cycle = 0 ∧
        t.power.clock = 1250 ∧ t.power.mv = 600 ∧ t.work.tileOwner = [] ∧ t.maps.frameOwner = [] ∧
        ∀ w ∈ t.threads, w.super = true → w.place = .run ∧ w.asid = 0)) ∧
      Replies s (.start 0 (some k)) 0 0x03 5 (bytesOf 8 k) (fun t => t.boot.failed = some k ∧ t.boot.started = false)) ∧
    (Accepts s 0 0x10 → ∀ cs ts, (∀ c ∈ cs, c ∈ presentClusters s) →
      (∀ t ∈ ts, t < 1024 ∧ tileCluster t ∈ presentClusters s ∧ ¬ tileCluster t ∈ cs) →
      (s.parts.filter (fun q => q.fn != f.val)).any (overlaps { fn := f.val, clusters := cs, tiles := ts }) = false →
      (s.parts.filter (fun q => q.fn != f.val)).length < 16 →
      Replies s (.part 0 f cs ts) 0 0x10 0 [] (fun t => t.parts = s.parts.filter (fun q => q.fn != f.val) ++
        if cs.isEmpty && ts.isEmpty then [] else [{ fn := f.val, clusters := cs, tiles := ts }])) ∧
    (Accepts s 0 0x40 → (∃ j, 10 ≤ j ∧ j ≤ 16 ∧ n = 2 ^ j) → 8 ≤ m → m ≤ 1024 → 1 ≤ k → k ≤ 255 →
      Replies s (.place 0 n m k) 0 0x40 0 [] (fun t => t.work = { s.work with nextParams := some (n, m, k) })) ∧
    (Accepts s u 0x41 → u.val = f.val → ∀ L, (launchBy s f.val n).bind s.launchAt = some L →
      Replies s (.gridmap u f n) u 0x41 0 (L.map.map (BitVec.ofNat 8)) (fun t => { t with boxes := s.boxes } = s)) ∧
    (Accepts s u 0x42 → u.val = f.val ∨ 17 ≤ u.val ∨ u = 0 ∧ hostStands s = true → ∀ j L, launchBy s f.val n = some j → s.launchAt j = some L →
      L.complete = false → (L.acked && launchIdle s j L) = false →
      Replies s (.abort u f n) u 0x42 0 [] (fun t => t.mem = s.mem ∧ ∃ M, t.launchAt j = some M ∧
        M.status = (if L.status = some 4 then some 4 else some 2) ∧ M.delivered = M.nitems ∧
        ∀ e ∈ t.work.arriving, e.2.launch ≠ j)) ∧
    (Accepts s u 0x43 → u = 0 ∨ 17 ≤ u.val → ∀ c : Fin 64, ¬ c.val ∈ s.boot.absent →
      Replies s (.share u c none) u 0x43 0 (bytesOf 8 (Tbl.at s.shares c.val 8).toNat) (fun t => t.shares = s.shares) ∧
      ∀ v : BitVec 4, Replies s (.share u c (some v)) u 0x43 0 (bytesOf 8 v.toNat) (fun t =>
        Tbl.at t.shares c.val 8 = v ∧ ∀ d, d ≠ c.val → Tbl.at t.shares d 8 = Tbl.at s.shares d 8)) ∧
    (Accepts s 0 0x50 → (∃ j, 26 ≤ j ∧ j ≤ 38 ∧ n = 2 ^ j) → x.toNat % 65536 = 0 →
      Replies s (.aperture 0 f n x) 0 0x50 0 [] (fun t => (t.func f.val).apva = x ∧ (t.func f.val).barSize = n)) ∧
    (Accepts s u 0x51 → u = 0 ∨ 17 ≤ u.val → x.toNat % 64 = 0 → y.toNat % 65536 = 0 → z.toNat % 16384 = 0 →
      s.links.waiting = [] → ∀ cs, placeCells s 0 .write (x.toNat + 32) (bytesOf 8 y.toNat ++ bytesOf 8 z.toNat) = some cs →
      agentFree s (agentId 3 u.val) (nodesOf cs) = true →
      Replies s (.trcb u die x y z) u 0x51 0 [] (fun t => t.mem = Memory.setAll s.mem (cs.map Prod.fst) ∧
        (t.tail die.val).block = some x ∧
        (t.tail die.val).rbase = y ∧ (t.tail die.val).hbase = z)) ∧
    (Accepts s 0 0x52 → ∀ (dev : BitVec 8) routes windows, windows.length ≤ 64 →
      (∀ w ∈ windows, w.1 % 65536 = 0 ∧ w.2.1 % 65536 = 0 ∧ w.2.2.2 < 8) →
      (∀ r ∈ routes, r.1 < 256 ∧ ∀ p ∈ r.2, p < 16) →
      Replies s (.peercfg 0 dev routes windows) 0 0x52 0 [] (fun t => t.links.device = dev.toNat ∧
        t.links.windows = windows ∧ t.mem = s.mem)) ∧
    (Accepts s 0 0x60 → s.power.hold = false → (n = 1250 ∧ 600 ≤ m ∨ n = 1000 ∧ 560 ≤ m ∨ n = 800 ∧ 550 ≤ m) →
      m ≤ 750 → m % 5 = 0 →
      (n ≤ s.power.clock → Replies s (.power 0 n m) 0 0x60 0 [] (fun t => t.power.clock = n ∧ t.power.mv = m)) ∧
      (s.power.clock < n → Leads s (.power 0 n m) (fun t => t.power.target = some (n, m, some 0) ∧ t.power.mv = m ∧
        t.power.was = s.power.mv ∧ t.power.clock = s.power.clock))) ∧
    (Accepts s u 0x61 → ∃ bs, Replies s (.therm u die) u 0x61 0 bs (fun t => t.power = s.power ∧ t.mem = s.mem)) ∧
    (Accepts s u 0x62 → Replies s (.telem u die) u 0x62 0
      ((Tbl.at s.telem die.val [0, 0, 0, 0, 0, 0, 0]).flatMap (bytesOf 8)) (fun t => { t with boxes := s.boxes } = s)) ∧
    (Accepts s u 0x63 → u.val = f.val → Replies s (.errlog u f) u 0x63 0
      ((s.func f.val).errlog.flatMap (fun e => bytesOf 8 e.1 ++ bytesOf 8 e.2)) (fun t => { t with boxes := s.boxes } = s)) ∧
    ((s.box u.val).busy = true → Leads s (.doorbellWhileBusy u) (fun t => { t with boxes := s.boxes } = s ∧
      t.box u.val = { s.box u.val with lost := true })) ∧
    (∀ code : BitVec 16, Accepts s u code.toNat → commandCodes.contains code.toNat = false →
      Replies s (.mailboxUnknownCommand u code) u code.toNat 6 [] (fun t => { t with boxes := s.boxes } = s)) ∧
    (∀ st bs, (s.box u.val).busy = true → (s.box u.val).result = some (st, bs) →
      Leads s (.mailboxCompletion u) (fun t => (t.box u.val).busy = false ∧ (t.box u.val).rep = bs ∧
        (t.box u.val).len = BitVec.ofNat 64 bs.length ∧ (t.box u.val).stat.toNat / 2 ^ 8 % 2 ^ 8 = st % 2 ^ 8 ∧
        (t.box u.val).stat.toNat % 2 = 0 ∧ t.mem = s.mem ∧
        (u.val < 17 → t.func u.val = (s.func u.val).raise 0)))

/-- R126, R129 to R146, R148: words that the chapter's examples and tables write out spell the instructions they stand
for, and words that match no row spell none. -/
def Obligations.WordsDecode : Prop :=
  decode 0x03FF9097 = some (.li 4 0x7FF 1) ∧ decode 0x02921011 = some (.shli 41 4 4 0) ∧
  decode 0x1122 = some (.addC 1 1 2) ∧ decode 0x8C520C03 = some (.divz true 3 4 5 0) ∧
  decode 0x8473081B = some (.cmp true 2 2 6 7 0) ∧ decode 0xFFD1041D = some (.cmpi 5 1 2 0x1FF 0) ∧
  decode 0x0062882D = some (.bp 6 2 5 0) ∧ decode 0xFFA00839 = some (.loop 0xFFA 2 0) ∧
  decode 0x404199BF = some (.fadd 2 6 3 4 3) ∧ decode 0x06209443 = some (.ddiv 5 1 2 0) ∧
  decode 0x12208C47 = some (.vadd 2 1 3 1 2 0) ∧ decode 0x10010451 = some (.vreds 2 0 0 1 2 0) ∧
  decode 0x00A09457 = some (.ld 2 5 1 2 0) ∧ decode 0xFFB0945B = some (.st 3 5 1 0x3FE 0) ∧
  decode 0x0252085F = some (.vld 1 1 2 4 2 0) ∧ decode 0x2A710C63 = some (.vgath true 2 3 2 7 0) ∧
  decode 0x80002463 = some (.copy 9 0) ∧ decode 0x00000C65 = some (.mma 3 0) ∧
  decode 0x12209467 = some (.amo true 1 5 1 2 0) ∧ decode 0x50208067 = some (.red true 0 1 2 0) ∧
  decode 0x1220906D = some (.vred 2 1 4 1 2 0) ∧ decode 0x0801006F = some (.barw 2 0) ∧
  decode 0x00001C73 = some (.trap 7 0) ∧ decode 0x04530071 = some (.csrw 0x011 0 6 0) ∧
  decode 0x28010403 = some (.clz false 1 2 0) ∧ decode 0x28310403 = none ∧ decode 0x34010403 = none ∧
  decode 0x04008411 = none ∧ decode 0x0000007F = none ∧ decode 0x0020 = none ∧ decode 0x10128071 = none ∧
  decode 0x05401471 = none

/-- R126, R129 to R146: the decoder gives back every well-formed instruction from its word, which fills 2 or 4 bytes. -/
def Obligations.RoundTrip : Prop :=
  ∀ (i : Instr) (w : Nat), i.wf = true → encode i = some w → decode w = some i ∧ w < 2 ^ (8 * wordBytes w)

/-- R148: what a word spells has that word alone: every bit of it is read, and its codes are codes that the spec accepts.
-/
def Obligations.EveryBitRead : Prop :=
  ∀ (w : Nat) (i : Instr), w < 2 ^ (8 * wordBytes w) → decode w = some i → encode i = some w ∧ i.wf = true

/-- R92, R126, R127, R149, R154, R158, R161, R166, R385: where nothing else happens in a step, the issuing thread, if it is
its turn, fetches at PC the 16 or 32 bits that stand there, and the step runs exactly the instruction that they spell: exec of
it, after which its vector command is queued, its core has issued and the turn goes on; a word that is no instruction traps
ILL with itself as TRVAL, and one in a frame that does not exist ends the run; before it come a STEP trap, a trap that the
thread owes, and a boundary; a busy register or a full queue holds it. A thread whose turn it is not passes it on, and the
cycle passes when nothing must come before that. (The model's own choices that it rests on: logs 5, 15, 18 and 27.) -/
def Obligations.StepRunsDecoded : Prop :=
  (∀ s : State, chooseEvent s = none →
    let q := drawn s
    let tid := q.cur.tid
    (canIssue q = true →
      (q.cur.stepOwed.isSome → step s = .next (takeStep q)) ∧
      (q.cur.stepOwed = none → ∀ r, q.cur.owing = true → q.cur.owed = some r → step s = .next (takeOwed q r)) ∧
      (q.cur.stepOwed = none → q.cur.owing = false →
        (∀ k : Fin 5, boundaryDue q = k.val → k ≠ 0 → step s = exec (.chunkBoundary tid k) q) ∧
        (boundaryDue q = 0 →
          (∀ c v w, fetchWord q q.cur = .trap c v w → step s = .next ((takeTrap q c v w).spent tid)) ∧
          (∀ p, fetchWord q q.cur = .nomem p → step s = .fault (.noMemory p)) ∧
          (∀ w, fetchWord q q.cur = .ok w →
            (decode w = none → step s = .next ((takeTrap q cILL (BitVec.ofNat 64 w) 0).spent tid)) ∧
            (∀ i, decode w = some i →
              (∀ t, exec i (noteTable q) = .next t → step s = .next (rotate (settled i (noteTable q).cur t))) ∧
              ((∀ t, exec i (noteTable q) ≠ .next t) → step s = exec i (noteTable q))))))) ∧
    (canIssue q = false → q.power.critical = false →
      (∀ t, passTurn q = some t → step s = .next t) ∧
      (passTurn q = none → ∀ f rest, pressing q = f :: rest → step s = f q) ∧
      (passTurn q = none → pressing q = [] → step s = .next ((passTurn q.tick).getD q.tick)))) ∧
  (∀ (s : State) (t : Thread) (l m : Loc), t.r.pc.toNat % 2 = 0 → fetchLoc s t t.r.pc = .ok l →
    fetchLoc s t (t.r.pc + 2) = .ok m → poisoned s l 2 = false → poisoned s m 2 = false →
    let h := Memory.num s.mem l.key 2
    fetchWord s t = .ok (if h % 2 = 0 then h else h + 65536 * Memory.num s.mem m.key 2)) ∧
  (∀ (s : State) (w : Nat) (i : Instr), s.cur.stepOwed = none → s.cur.owing = false → boundaryDue s = 0 →
    fetchWord s s.cur = .ok w → decode w = some i → holdsBack s s.cur i = true → canIssue s = false) ∧
  (∀ s : State, due s = [] → chooseEvent s = none ∧ drawn s = s)

/-- R442 with the model's own choices (logs 1, 2 and 3): the module after reset holds no work, its memory lists nothing
and has the canonical form, no register of a function or mailbox is set, the only slots are those of the supervisors,
and nothing issues before START. -/
def Obligations.ResetState : Prop :=
  State.reset.mem.wf = true ∧ (∀ a, Memory.get State.reset.mem a = 0) ∧ State.reset.boot.started = false ∧
  State.reset.cycle = 0 ∧ State.reset.work.launches = [] ∧ State.reset.ships = [] ∧ State.reset.poison = [] ∧
  State.reset.freeze.images = [] ∧ State.reset.power.clock = 1250 ∧ State.reset.power.mv = 600 ∧ (∀ tile, Tbl.find State.reset.work.tileOwner tile = none) ∧
  (∀ f, (State.reset.func f).en = false ∧ (State.reset.func f).lcseq = 0) ∧ (∀ u, (State.reset.box u).busy = false) ∧
  (∀ w ∈ State.reset.threads, w.super = true ∧ w.place = .notHeld ∧ ∃ d : Fin 4, w.tid = superTid d.val) ∧
  ∀ s : State, s.boot.started = false → canIssue s = false

/-- R3 and log 3: memory keeps its canonical form, addresses rising and no entry equal to what an unlisted address reads
as, in every step. -/
def Obligations.MemoryInvariant : Prop :=
  ∀ (s t : State), s.mem.wf = true → step s = .next t → t.mem.wf = true

/-- R170, R341, R342, R343: the chunk of one of a chunk-closing instruction that has touched no line and buffers nothing
commits at once where its own core's node is free: its number is the least that the rules allow at that node, CHSEQ
takes it, COMMITS and INSTRET advance, and memory and the registers are as the chunk left them. (The model's own
choices that it rests on: log 9.) -/
def Obligations.SealedChunkCommits : Prop :=
  ∀ (s : State),
    let c := s.cur.ex
    let k := coreNode (coreOf s.cur.tid)
    let v := 1 + max s.cur.lastV (s.node k).v
    s.cur.com = none → s.cur.irrev = false → s.cur.trail = none → c.doomed = false → Untouched c →
    repliesIn s s.cur.tid c.gen = true →
    (s.node k).excl = none → (s.node k).pin = none → (s.node k).queue = [] →
    let t := s.sealed
    t.cur.com = none ∧ t.cur.r = s.cur.r ∧ t.cur.chseq = BitVec.ofNat 64 (v * 65536 + k) ∧
    t.cur.commits = s.cur.commits + 1 ∧ t.cur.instret = s.cur.instret + BitVec.ofNat 64 c.count ∧
    t.cur.ex.count = 0 ∧ t.cur.ex.ckpt = s.cur.r ∧ t.cur.lastV = v ∧ t.mem = s.mem ∧ (t.node k).v = v ∧
    (t.node k).excl = none
end

