-- ==== Sys2Proof/Laws/State.lean ====
section
/-! SUPPORT. Sys2Proof/Laws/State.lean: what each small update of a thread or of the state leaves and what it sets, one
lemma for a field. -/

namespace Sys2Proof.Machine

@[simp] theorem withCur_cur (s : State) (t : Thread) : (s.withCur t).cur = t := rfl
@[simp] theorem withCur_others (s : State) (t : Thread) : (s.withCur t).others = s.others := rfl
@[simp] theorem withCur_mem (s : State) (t : Thread) : (s.withCur t).mem = s.mem := rfl
@[simp] theorem withCur_cycle (s : State) (t : Thread) : (s.withCur t).cycle = s.cycle := rfl
@[simp] theorem withCur_withCur (s : State) (t u : Thread) : (s.withCur t).withCur u = s.withCur u := rfl
@[simp] theorem withCur_self (s : State) : s.withCur s.cur = s := rfl

@[simp] theorem setR_r (t : Thread) (r : Regs) : (t.setR r).r = r := rfl
@[simp] theorem setR_ex (t : Thread) (r : Regs) : (t.setR r).ex = t.ex := rfl
@[simp] theorem setR_com (t : Thread) (r : Regs) : (t.setR r).com = t.com := rfl
@[simp] theorem setR_tid (t : Thread) (r : Regs) : (t.setR r).tid = t.tid := rfl
@[simp] theorem raise_r (t : Thread) (f : Flags) : (t.raise f).r = { t.r with fflags := t.r.fflags ||| f } := rfl
@[simp] theorem raise_ex (t : Thread) (f : Flags) : (t.raise f).ex = t.ex := rfl
@[simp] theorem raise_com (t : Thread) (f : Flags) : (t.raise f).com = t.com := rfl
@[simp] theorem seedTo_r (t : Thread) (x : Word) : (t.seedTo x).r = { t.r with srseed := x } := rfl
@[simp] theorem seedTo_ex (t : Thread) (x : Word) : (t.seedTo x).ex = t.ex := rfl
@[simp] theorem seedTo_com (t : Thread) (x : Word) : (t.seedTo x).com = t.com := rfl
@[simp] theorem jump_r (t : Thread) (x : Word) : (t.jump x).r = { t.r with pc := x } := rfl

@[simp] theorem mark_r (t : Thread) (now lat : Nat) (reg : Reg) (old : Vec) : (t.mark now lat reg old).r = t.r := by
  unfold Thread.mark; split <;> rfl
@[simp] theorem mark_ex (t : Thread) (now lat : Nat) (reg : Reg) (old : Vec) : (t.mark now lat reg old).ex = t.ex := by
  unfold Thread.mark; split <;> rfl
@[simp] theorem mark_com (t : Thread) (now lat : Nat) (reg : Reg) (old : Vec) :
    (t.mark now lat reg old).com = t.com := by unfold Thread.mark; split <;> rfl
@[simp] theorem mark_tid (t : Thread) (now lat : Nat) (reg : Reg) (old : Vec) :
    (t.mark now lat reg old).tid = t.tid := by unfold Thread.mark; split <;> rfl
@[simp] theorem mark_stepping (t : Thread) (now lat : Nat) (reg : Reg) (old : Vec) :
    (t.mark now lat reg old).stepping = t.stepping := by unfold Thread.mark; split <;> rfl

@[simp] theorem hold_r (t : Thread) (reg : Reg) (why : BusyBy) : (t.hold reg why).r = t.r := rfl
@[simp] theorem hold_ex (t : Thread) (reg : Reg) (why : BusyBy) : (t.hold reg why).ex = t.ex := rfl
@[simp] theorem hold_com (t : Thread) (reg : Reg) (why : BusyBy) : (t.hold reg why).com = t.com := rfl

@[simp] theorem done_mem (s : State) (len : Nat) (z : Fin 8) (t : Thread) : (s.done len z t).mem = s.mem := rfl
@[simp] theorem done_others (s : State) (len : Nat) (z : Fin 8) (t : Thread) : (s.done len z t).others = s.others := rfl
@[simp] theorem done_cycle (s : State) (len : Nat) (z : Fin 8) (t : Thread) : (s.done len z t).cycle = s.cycle := rfl
@[simp] theorem done_r (s : State) (len : Nat) (z : Fin 8) (t : Thread) :
    (s.done len z t).cur.r = { t.r with pc := t.r.pc + BitVec.ofNat 64 len } := rfl
@[simp] theorem done_ex (s : State) (len : Nat) (z : Fin 8) (t : Thread) :
    (s.done len z t).cur.ex = { t.ex with count := t.ex.count + 1 } := rfl
@[simp] theorem done_com (s : State) (len : Nat) (z : Fin 8) (t : Thread) : (s.done len z t).cur.com = t.com := rfl
@[simp] theorem jumped_r (s : State) (z : Fin 8) (t : Thread) (x : Word) :
    (s.jumped z t x).cur.r = { t.r with pc := x } := rfl
@[simp] theorem jumped_ex (s : State) (z : Fin 8) (t : Thread) (x : Word) :
    (s.jumped z t x).cur.ex = { t.ex with count := t.ex.count + 1 } := rfl
@[simp] theorem jumped_mem (s : State) (z : Fin 8) (t : Thread) (x : Word) : (s.jumped z t x).mem = s.mem := rfl
@[simp] theorem jumped_com (s : State) (z : Fin 8) (t : Thread) (x : Word) : (s.jumped z t x).cur.com = t.com := rfl

@[simp] theorem land_r (t : Thread) (now : Nat) (b : Busy) : (t.land now b).r = t.r := rfl
@[simp] theorem land_ex (t : Thread) (now : Nat) (b : Busy) : (t.land now b).ex = t.ex := rfl
@[simp] theorem land_com (t : Thread) (now : Nat) (b : Busy) : (t.land now b).com = t.com := rfl
@[simp] theorem land_tid (t : Thread) (now : Nat) (b : Busy) : (t.land now b).tid = t.tid := rfl
@[simp] theorem land_busy (t : Thread) (now : Nat) (b : Busy) : (t.land now b).busy = t.busy.erase b := rfl

@[simp] theorem leads_r (t : Thread) (gen : Nat) (vals : List Vec) : (t.leads gen vals).r = t.r := rfl
@[simp] theorem leads_ex (t : Thread) (gen : Nat) (vals : List Vec) : (t.leads gen vals).ex = t.ex := rfl
@[simp] theorem leads_com (t : Thread) (gen : Nat) (vals : List Vec) : (t.leads gen vals).com = t.com := rfl
@[simp] theorem leads_tid (t : Thread) (gen : Nat) (vals : List Vec) : (t.leads gen vals).tid = t.tid := rfl

@[simp] theorem boundary_r (t : Thread) (now : Nat) (m : Option LiveMask) : (boundary t now m).r = t.r := rfl
@[simp] theorem boundary_tid (t : Thread) (now : Nat) (m : Option LiveMask) : (boundary t now m).tid = t.tid := rfl
@[simp] theorem boundary_com (t : Thread) (now : Nat) (m : Option LiveMask) :
    (boundary t now m).com = some { t.ex with phase := .ended } := rfl
@[simp] theorem boundary_count (t : Thread) (now : Nat) (m : Option LiveMask) : (boundary t now m).ex.count = 0 := rfl
@[simp] theorem boundary_writes (t : Thread) (now : Nat) (m : Option LiveMask) : (boundary t now m).ex.writes = [] := rfl

@[simp] theorem stall_r (s : State) : s.stall.cur.r = s.cur.r := rfl
@[simp] theorem stall_ex (s : State) : s.stall.cur.ex = s.cur.ex := rfl
@[simp] theorem stall_com (s : State) : s.stall.cur.com = s.cur.com := rfl
@[simp] theorem stall_mem (s : State) : s.stall.mem = s.mem := rfl
@[simp] theorem stall_others (s : State) : s.stall.others = s.others := rfl
/-- A thread that has not issued is not ready again in this cycle. -/
theorem stall_ready (s : State) : s.cycle < s.stall.cur.ready := by
  have : s.cycle + 1 ≤ max s.cur.ready (s.cycle + 1) := Nat.le_max_right ..
  exact this

/-- What a thread keeps while it writes registers: everything but the registers, their pending writes and times. -/
def Thread.sameSlot (t u : Thread) : Prop :=
  { u with r := t.r, stale := t.stale, busy := t.busy, ready := t.ready, stepOwed := t.stepOwed } = t

theorem Thread.sameSlot_refl (t : Thread) : t.sameSlot t := rfl

@[simp] theorem putG_slot (t : Thread) (now lat : Nat) (n : Fin 32) (x : Word) : t.sameSlot (t.putG now lat n x) := by
  unfold Thread.sameSlot Thread.putG Thread.setR Thread.mark; split
  · rfl
  · split <;> rfl
@[simp] theorem putP_slot (t : Thread) (now lat : Nat) (n : Fin 8) (x : Pred) : t.sameSlot (t.putP now lat n x) := by
  unfold Thread.sameSlot Thread.putP Thread.setR Thread.mark; split
  · rfl
  · split <;> rfl
@[simp] theorem putV_slot (t : Thread) (now lat : Nat) (n : Fin 32) (x : Vec) : t.sameSlot (t.putV now lat n x) := by
  unfold Thread.sameSlot Thread.putV Thread.setR Thread.mark; split <;> rfl
@[simp] theorem putE_slot (t : Thread) (now lat : Nat) (n : Fin 8) (x : Word) : t.sameSlot (t.putE now lat n x) := by
  unfold Thread.sameSlot Thread.putE Thread.setR Thread.mark; split <;> rfl
@[simp] theorem loadG_slot (t : Thread) (n : Fin 32) (x : Word) (why : BusyBy) : t.sameSlot (t.loadG n x why) := by
  unfold Thread.sameSlot Thread.loadG Thread.setR Thread.hold; split <;> rfl
@[simp] theorem loadP_slot (t : Thread) (n : Fin 8) (x : Pred) (why : BusyBy) : t.sameSlot (t.loadP n x why) := by
  unfold Thread.sameSlot Thread.loadP Thread.setR Thread.hold; split <;> rfl
@[simp] theorem loadV_slot (t : Thread) (n : Fin 32) (x : Vec) (why : BusyBy) : t.sameSlot (t.loadV n x why) := rfl
@[simp] theorem loadE_slot (t : Thread) (n : Fin 8) (x : Word) (why : BusyBy) : t.sameSlot (t.loadE n x why) := rfl

/-- The registers after a write of a general register: g0 discards it (R101). -/
@[simp] theorem putG_r (t : Thread) (now lat : Nat) (n : Fin 32) (x : Word) :
    (t.putG now lat n x).r = if n = 0 then t.r else { t.r with g := t.r.g.set n x } := by
  unfold Thread.putG; split <;> simp
@[simp] theorem putP_r (t : Thread) (now lat : Nat) (n : Fin 8) (x : Pred) :
    (t.putP now lat n x).r = if n = 0 then t.r else { t.r with p := t.r.p.set n x } := by
  unfold Thread.putP; split <;> simp
@[simp] theorem putV_r (t : Thread) (now lat : Nat) (n : Fin 32) (x : Vec) :
    (t.putV now lat n x).r = { t.r with v := t.r.v.set n x } := by simp [Thread.putV]
@[simp] theorem putE_r (t : Thread) (now lat : Nat) (n : Fin 8) (x : Word) :
    (t.putE now lat n x).r = { t.r with e := t.r.e.set n x } := by simp [Thread.putE]
@[simp] theorem loadG_r (t : Thread) (n : Fin 32) (x : Word) (why : BusyBy) :
    (t.loadG n x why).r = if n = 0 then t.r else { t.r with g := t.r.g.set n x } := by
  unfold Thread.loadG; split <;> simp
@[simp] theorem loadP_r (t : Thread) (n : Fin 8) (x : Pred) (why : BusyBy) :
    (t.loadP n x why).r = if n = 0 then t.r else { t.r with p := t.r.p.set n x } := by
  unfold Thread.loadP; split <;> simp
@[simp] theorem loadV_r (t : Thread) (n : Fin 32) (x : Vec) (why : BusyBy) :
    (t.loadV n x why).r = { t.r with v := t.r.v.set n x } := rfl
@[simp] theorem loadE_r (t : Thread) (n : Fin 8) (x : Word) (why : BusyBy) :
    (t.loadE n x why).r = { t.r with e := t.r.e.set n x } := rfl

@[simp] theorem share_mem (s : State) (k : Nat) (ls : List Line) : (s.share k ls).mem = s.mem := by
  unfold State.share; dsimp only; split <;> rfl
@[simp] theorem share_cur (s : State) (k : Nat) (ls : List Line) : (s.share k ls).cur = s.cur := by
  unfold State.share; dsimp only; split <;> rfl
@[simp] theorem share_others (s : State) (k : Nat) (ls : List Line) : (s.share k ls).others = s.others := by
  unfold State.share; dsimp only; split <;> rfl
@[simp] theorem unshare_mem (s : State) (k : Nat) (ls : List Line) : (s.unshare k ls).mem = s.mem := rfl
@[simp] theorem unshare_cur (s : State) (k : Nat) (ls : List Line) : (s.unshare k ls).cur = s.cur := rfl
@[simp] theorem unshare_others (s : State) (k : Nat) (ls : List Line) : (s.unshare k ls).others = s.others := rfl

/-- A raised vector is sent unless it is masked, and pends if it is (R423). -/
@[simp] theorem raise_raised (x : Func) (v : Nat) :
    (x.raise v).raised = if x.masked v then x.raised else x.raised ++ [v] := by unfold Func.raise; split <;> rfl
@[simp] theorem raise_pending (x : Func) (v : Nat) :
    (x.raise v).pending = if x.masked v then insertAsc v x.pending else x.pending := by unfold Func.raise; split <;> rfl
@[simp] theorem raise_msix (x : Func) (v : Nat) : (x.raise v).msix = x.msix := by unfold Func.raise; split <;> rfl

end Sys2Proof.Machine
end

