-- ==== Sys2Proof/Laws/Issue.lean ====
section
/-! SUPPORT. Sys2Proof/Laws/Issue.lean: what the shared shapes of an instruction do when they answer a next state: the
checking scoreboard, the end of an instruction, and the frames of the shapes that write one register. -/

namespace Sys2Proof.Machine

/-- With no early read an instruction goes on (R159). -/
theorem check_of_readable {s : State} {srcs : List Reg} (h : s.readable srcs) (k : Out) : s.check srcs k = k := by
  unfold State.check
  rcases h with h | h <;> simp [h]

/-- An early read of a checked register traps SBCHK (R159). -/
theorem check_of_early {s : State} {srcs : List Reg} {r : Reg} {n : Nat} (h : s.cur.r.sbchk = true)
    (e : firstEarly s.cur.stale s.cycle srcs = some (r, n)) (k : Out) :
    s.check srcs k = s.trap cSBCHK (BitVec.ofNat 64 r.code) (BitVec.ofNat 64 n) := by
  simp [State.check, h, e]

/-- What a chunk reads depends on its buffers and committed memory alone. -/
theorem readByte_congr {s u : State} {t v : Thread} (hm : u.mem = s.mem) (hw : v.ex.writes = t.ex.writes)
    (ho : v.ex.outside = t.ex.outside) (hk : v.ex.task = t.ex.task) (hc : v.com = t.com) (a : Nat) :
    readByte u v a = readByte s t a := by
  simp [readByte, hm, hw, ho, hk, hc]

/-- An instruction that ends in place with a thread of the same slot changes nothing outside that thread. -/
theorem frame_done {s : State} {t : Thread} (h : s.cur.sameSlot t) (len : Nat) (z : Fin 8)
    {g : List (Fin 32)} {p : List (Fin 8)} {v : List (Fin 32)} {e : List (Fin 8)}
    (k : KeepsRegs s (s.done len z t) g p v e) : Frame s (s.done len z t) g p v e := by
  have hex : t.ex = s.cur.ex := by have := congrArg Thread.ex h; simpa using this
  have hcom : t.com = s.cur.com := by have := congrArg Thread.com h; simpa using this
  refine ⟨k, ?_, ⟨fun _ => rfl, fun a => ?_, rfl⟩, by simp [hex]⟩
  · unfold Thread.sameSlot at h
    rw [← h]; simp [State.done, State.withCur]
  · exact readByte_congr rfl (by simp [hex]) (by simp [hex]) (by simp [hex]) (by simp [hcom]) a

/-- The same for a taken branch. -/
theorem frame_jumped {s : State} {t : Thread} (h : s.cur.sameSlot t) (z : Fin 8) (x : Word)
    {g : List (Fin 32)} {p : List (Fin 8)} {v : List (Fin 32)} {e : List (Fin 8)}
    (k : KeepsRegs s (s.jumped z t x) g p v e) : Frame s (s.jumped z t x) g p v e := by
  have hex : t.ex = s.cur.ex := by have := congrArg Thread.ex h; simpa using this
  have hcom : t.com = s.cur.com := by have := congrArg Thread.com h; simpa using this
  refine ⟨k, ?_, ⟨fun _ => rfl, fun a => ?_, rfl⟩, by simp [hex]⟩
  · unfold Thread.sameSlot at h
    rw [← h]; simp [State.jumped, State.withCur]
  · exact readByte_congr rfl (by simp [hex]) (by simp [hex]) (by simp [hex]) (by simp [hcom]) a

theorem set_keeps {α : Type} {k : Nat} (v : Vector α k) (d n : Fin k) (x : α) (h : n ≠ d) : (v.set d x)[n] = v[n] := by
  have : d.val ≠ n.val := fun e => h (Fin.ext e.symm)
  simp [this]

/-- A register of the general file written with a fixed latency, and the end of the instruction. -/
theorem givesG_put {s : State} {i : Instr} {len lat : Nat} {z : Fin 8} {d : Fin 32} {x y : Word}
    (h : exec i s = .next (s.done len z (s.cur.putG s.cycle lat d y))) (e : y = x) : GivesG s i len d x := by
  subst e
  refine ⟨_, h, ?_, ?_, ?_, frame_done (putG_slot ..) len z ?_⟩
  · by_cases hd : d = 0 <;> simp [hd]
  · by_cases hd : d = 0 <;> simp [Advances, hd]
  · by_cases hd : d = 0 <;> simp [KeepsFlags, hd]
  · constructor <;> by_cases hd : d = 0 <;> simp [hd]
    intro n hn
    exact set_keeps _ _ _ _ hn

/-- The same for a scoreboarded result. -/
theorem givesG_load {s : State} {i : Instr} {len : Nat} {z : Fin 8} {d : Fin 32} {x y : Word} {why : BusyBy}
    (h : exec i s = .next (s.done len z (s.cur.loadG d y why))) (e : y = x) : GivesG s i len d x := by
  subst e
  refine ⟨_, h, ?_, ?_, ?_, frame_done (loadG_slot ..) len z ?_⟩
  · by_cases hd : d = 0 <;> simp [hd]
  · by_cases hd : d = 0 <;> simp [Advances, hd]
  · by_cases hd : d = 0 <;> simp [KeepsFlags, hd]
  · constructor <;> by_cases hd : d = 0 <;> simp [hd]
    intro n hn
    exact set_keeps _ _ _ _ hn

/-- A predicate register written with a fixed latency. -/
theorem givesP_put {s : State} {i : Instr} {lat : Nat} {z : Fin 8} {d : Fin 8} {x y : Pred}
    (h : exec i s = .next (s.done 4 z (s.cur.putP s.cycle lat d y))) (e : y = x) : GivesP s i d x := by
  subst e
  refine ⟨_, h, ?_, ?_, ?_, frame_done (putP_slot ..) 4 z ?_⟩
  · by_cases hd : d = 0 <;> simp [hd]
  · by_cases hd : d = 0 <;> simp [Advances, hd]
  · by_cases hd : d = 0 <;> simp [KeepsFlags, hd]
  · constructor <;> by_cases hd : d = 0 <;> simp [hd]
    intro n hn
    exact set_keeps _ _ _ _ hn

/-- An extension register written with a fixed latency. -/
theorem givesE_put {s : State} {i : Instr} {lat : Nat} {z : Fin 8} {d : Fin 8} {x y : Word}
    (h : exec i s = .next (s.done 4 z (s.cur.putE s.cycle lat d y))) (e : y = x) : GivesE s i d x := by
  subst e
  refine ⟨_, h, by simp, by simp [Advances], by simp [KeepsFlags], frame_done (putE_slot ..) 4 z ?_⟩
  constructor <;> simp
  intro n hn
  exact set_keeps _ _ _ _ hn

/-- A taken jump changes PC alone. -/
theorem givesPc_jumped {s : State} {i : Instr} {z : Fin 8} {x y : Word}
    (h : exec i s = .next (s.jumped z s.cur y)) (e : y = x) : GivesPc s i x := by
  subst e
  refine ⟨_, h, by simp, by simp [KeepsFlags], frame_jumped (Thread.sameSlot_refl _) z y ?_⟩
  constructor <;> simp

/-- A branch changes PC alone. -/
theorem givesBranch_branch {s : State} {i : Instr} {len : Nat} {z : Fin 8} {taken : Bool} {x y : Word} {c : Prop}
    [Decidable c] (h : exec i s = branch len taken y z s.cur s) (hc : taken = true ↔ c) (e : y = x) :
    GivesBranch s i len c x := by
  subst e
  unfold GivesBranch
  cases taken
  · have hn : ¬ c := fun q => absurd (hc.2 q) (by simp)
    rw [if_neg hn]
    refine ⟨_, by simpa [branch] using h, by simp, by simp [KeepsFlags], frame_done (Thread.sameSlot_refl _) len z ?_⟩
    constructor <;> simp
  · rw [if_pos (hc.1 rfl)]
    exact givesPc_jumped (z := z) (by simpa [branch] using h) rfl

/-- With no enabled flag an instruction that raises flags goes on (R224). -/
theorem withFlags_of_quiet {s : State} {l : List Flags} (h : quietFlags s l) (k : Flags → Out) :
    s.withFlags l k = k (joinFlags l) := by
  simp [State.withFlags, show joinFlags l &&& enOf s.cur.r.fmode = 0 from h]

theorem joinFlags_one (f : Flags) : joinFlags [f] = f := by simp [joinFlags]

theorem sameSlot_raise_seed {t u : Thread} (h : t.sameSlot u) (f : Flags) (x : Word) :
    t.sameSlot ((u.raise f).seedTo x) := by
  unfold Thread.sameSlot at *
  rw [← h]; rfl

/-- The end of a scalar floating-point instruction. -/
theorem givesFp_end {s : State} {i : Instr} {lat : Nat} {d : Fin 32} {z : Fin 8} {r : Nat × Flags} {seed : Word}
    (h : exec i s = fpEnd lat d z r seed s) (q : quietFlags s [r.2]) : GivesFp s i d r seed := by
  refine ⟨_, by rw [h, fpEnd, withFlags_of_quiet q], ?_, ?_, ?_, ?_,
    frame_done (sameSlot_raise_seed (putG_slot ..) _ _) 4 z ?_⟩
  · by_cases hd : d = 0 <;> simp [hd]
  · by_cases hd : d = 0 <;> simp [hd, joinFlags_one]
  · by_cases hd : d = 0 <;> simp [hd]
  · by_cases hd : d = 0 <;> simp [Advances, hd]
  · constructor <;> by_cases hd : d = 0 <;> simp [hd]
    intro n hn
    exact set_keeps _ _ _ _ hn

/-- A computed result writes its destination and no other register of the thread. -/
theorem loadDst_pc (t : Thread) (d : Dst) (r : VRes) (why : BusyBy) : (loadDst t d r why).r.pc = t.r.pc := by
  cases d <;> simp only [loadDst] <;> (repeat' split) <;> simp <;> split <;> rfl
theorem putDst_pc (t : Thread) (now lat : Nat) (d : Dst) (r : VRes) : (putDst t now lat d r).r.pc = t.r.pc := by
  cases d <;> simp only [putDst] <;> (repeat' split) <;> simp <;> split <;> rfl
theorem loadDst_flags (t : Thread) (d : Dst) (r : VRes) (why : BusyBy) :
    (loadDst t d r why).r.fflags = t.r.fflags := by
  cases d <;> simp only [loadDst] <;> (repeat' split) <;> simp <;> split <;> rfl
theorem putDst_flags (t : Thread) (now lat : Nat) (d : Dst) (r : VRes) :
    (putDst t now lat d r).r.fflags = t.r.fflags := by
  cases d <;> simp only [putDst] <;> (repeat' split) <;> simp <;> split <;> rfl
theorem loadDst_slot (t : Thread) (d : Dst) (r : VRes) (why : BusyBy) : t.sameSlot (loadDst t d r why) := by
  cases d <;> simp only [loadDst] <;> (repeat' split) <;> first | exact Thread.sameSlot_refl _ | simp
theorem putDst_slot (t : Thread) (now lat : Nat) (d : Dst) (r : VRes) : t.sameSlot (putDst t now lat d r) := by
  cases d <;> simp only [putDst] <;> (repeat' split) <;> first | exact Thread.sameSlot_refl _ | simp

/-- The end of an instruction whose result has been computed in the core. -/
theorem givesV_computed {s : State} {i : Instr} {lat : Nat} {d : Dst} {z : Fin 8} {r : VRes}
    (h : exec i s = computed lat d z r s) (q : quietFlags s r.elems) : GivesV s i d r := by
  have h' : exec i s = .next (s.done 4 z
      (((if lat = 0 then loadDst s.cur d r .unit else putDst s.cur s.cycle lat d r).raise
        (joinFlags r.elems)).seedTo r.seed)) := by
    rw [h, computed, withFlags_of_quiet q]
  refine ⟨_, h', ?_, ?_, by simp, ?_, frame_done (sameSlot_raise_seed ?_ _ _) 4 z ?_⟩
  · cases d <;> by_cases hl : lat = 0 <;> simp only [hl, if_true, if_false, Dst.holds, loadDst, putDst] <;>
      (try simp) <;> (repeat' split) <;> simp_all
  · by_cases hl : lat = 0 <;> simp [hl, loadDst_flags, putDst_flags]
  · by_cases hl : lat = 0 <;> simp [hl, Advances, loadDst_pc, putDst_pc]
  · by_cases hl : lat = 0 <;> simp [hl, loadDst_slot, putDst_slot]
  · cases d with
    | v n =>
      constructor <;> by_cases hl : lat = 0 <;> simp [hl, loadDst, putDst, Dst.vs, Dst.gs, Dst.ps] <;>
        (intro k hk; exact set_keeps _ _ _ _ hk)
    | g n =>
      constructor <;> by_cases hl : lat = 0 <;> by_cases hw : r.writes = true <;> by_cases hn : n = 0 <;>
        simp [hl, hw, hn, loadDst, putDst, Dst.vs, Dst.gs, Dst.ps] <;>
        (intro k hk; exact set_keeps _ _ _ _ hk)
    | p n =>
      constructor <;> by_cases hl : lat = 0 <;> by_cases hn : n = 0 <;>
        simp [hl, hn, loadDst, putDst, Dst.vs, Dst.gs, Dst.ps] <;>
        (intro k hk; exact set_keeps _ _ _ _ hk)

end Sys2Proof.Machine
end

