-- ==== Sys2Proof/Laws/Memory.lean ====
section
/-! SUPPORT. Sys2Proof/Laws/Memory.lean: read after write, and the canonical form that every memory operation keeps, for
committed memory, for chunk buffers and for tables. -/

namespace Sys2Proof.Machine

theorem wfFrom_mono {m : Memory} {a b : Nat} (h : Memory.wfFrom b m = true) (hab : a ≤ b) : Memory.wfFrom a m = true := by
  cases m with
  | nil => rfl
  | cons e m =>
    obtain ⟨k, x⟩ := e
    simp only [Memory.wfFrom, Bool.and_eq_true, decide_eq_true_eq] at h ⊢
    exact ⟨⟨by omega, h.1.2⟩, h.2⟩

/-- Below its first address a canonical memory reads 0. -/
theorem get_below {m : Memory} {lo a : Nat} (h : Memory.wfFrom lo m = true) (ha : a < lo) : Memory.get m a = 0 := by
  induction m generalizing lo with
  | nil => rfl
  | cons e m ih =>
    obtain ⟨k, x⟩ := e
    simp only [Memory.wfFrom, Bool.and_eq_true, decide_eq_true_eq] at h
    rw [Memory.get, if_neg (by omega), ih h.2 (by omega)]

theorem wfFrom_set {m : Memory} {lo a : Nat} (x : Byte) (h : Memory.wfFrom lo m = true) (ha : lo ≤ a) :
    Memory.wfFrom lo (Memory.set m a x) = true := by
  induction m generalizing lo with
  | nil =>
    unfold Memory.set
    split
    · rfl
    · simp_all [Memory.wfFrom]
  | cons e m ih =>
    obtain ⟨k, y⟩ := e
    simp only [Memory.wfFrom, Bool.and_eq_true, decide_eq_true_eq] at h
    unfold Memory.set
    split
    · split
      · simp_all [Memory.wfFrom]
      · simp_all [Memory.wfFrom] <;> omega
    · split
      · split
        · exact wfFrom_mono h.2 (by omega)
        · simp_all [Memory.wfFrom]
      · simp only [Memory.wfFrom, Bool.and_eq_true, decide_eq_true_eq]
        exact ⟨⟨h.1.1, h.1.2⟩, ih h.2 (by omega)⟩

/-- A write keeps the canonical form. -/
theorem wf_set {m : Memory} (a : Nat) (x : Byte) (h : m.wf = true) : (m.set a x).wf = true :=
  wfFrom_set x h (Nat.zero_le a)

theorem get_setFrom {m : Memory} {lo : Nat} (a b : Nat) (x : Byte) (h : Memory.wfFrom lo m = true) :
    Memory.get (Memory.set m a x) b = if b = a then x else Memory.get m b := by
  induction m generalizing lo with
  | nil =>
    unfold Memory.set
    split <;> by_cases hb : b = a
    · subst_vars; simp [Memory.get]
    · simp [Memory.get, hb]
    · subst_vars; simp [Memory.get]
    · rw [if_neg hb]; exact if_neg (fun h : a = b => hb h.symm)
  | cons e m ih =>
    obtain ⟨k, y⟩ := e
    simp only [Memory.wfFrom, Bool.and_eq_true, decide_eq_true_eq] at h
    unfold Memory.set
    split
    · have h0 : Memory.get ((k, y) :: m) a = 0 := by
        rw [Memory.get, if_neg (by omega), get_below h.2 (by omega)]
      split <;> by_cases hb : b = a
      · subst_vars; rw [if_pos rfl, h0]
      · rw [if_neg hb]
      · subst_vars; rw [if_pos rfl, Memory.get, if_pos rfl]
      · rw [if_neg hb, Memory.get, if_neg (fun h => hb h.symm)]
    · split
      · have h0 : Memory.get m a = 0 := get_below h.2 (by omega)
        split <;> by_cases hb : b = a
        · subst_vars; rw [if_pos rfl, h0]
        · rw [if_neg hb, Memory.get, if_neg (by omega)]
        · subst_vars; rw [if_pos rfl, Memory.get, if_pos rfl]
        · rw [if_neg hb, Memory.get, if_neg (fun h => hb h.symm), Memory.get, if_neg (by omega)]
      · rw [Memory.get, Memory.get, ih h.2]
        by_cases hk : k = b
        · rw [if_pos hk, if_pos hk, if_neg (by omega)]
        · rw [if_neg hk, if_neg hk]

/-- A read after a write: the written byte, and every other byte as before. -/
theorem get_set {m : Memory} (a b : Nat) (x : Byte) (h : m.wf = true) :
    (m.set a x).get b = if b = a then x else m.get b := get_setFrom a b x h

theorem wf_setAll {m : Memory} (l : List Host.Cell) (h : m.wf = true) : (m.setAll l).wf = true := by
  unfold Memory.setAll
  induction l generalizing m with
  | nil => exact h
  | cons c l ih => exact ih (wf_set c.1 c.2 h)

theorem wf_setNum {m : Memory} (a n x : Nat) (h : m.wf = true) : (m.setNum a n x).wf = true := wf_setAll _ h

theorem get_setBytes {m : Memory} (a n x b : Nat) (h : m.wf = true) :
    (m.setNum a n x).get b =
      if a ≤ b ∧ b < a + n then BitVec.ofNat 8 (x / 256 ^ (b - a)) else m.get b := by
  unfold Memory.setNum Memory.setAll
  induction n generalizing m a x with
  | zero =>
    simp only [bytesOf, cellsAt, List.foldl_nil]
    rw [if_neg (by omega)]
  | succ n ih =>
    simp only [bytesOf, cellsAt, List.foldl_cons]
    rw [ih (a + 1) (x / 256) (wf_set a _ h), get_set _ _ _ h]
    by_cases h1 : b = a
    · subst h1; rw [if_neg (by omega), if_pos rfl, if_pos (by omega)]; simp
    · by_cases h2 : a + 1 ≤ b ∧ b < a + 1 + n
      · obtain ⟨j, rfl⟩ : ∃ j, b = a + 1 + j := ⟨b - (a + 1), by omega⟩
        rw [if_pos h2, if_pos (by omega), Nat.div_div_eq_div_mul]
        congr 2
        rw [show a + 1 + j - (a + 1) = j by omega, show a + 1 + j - a = j + 1 by omega, Nat.pow_succ, Nat.mul_comm]
      · rw [if_neg h2, if_neg h1, if_neg (by omega)]

theorem num_succ (m : Memory) (a n : Nat) : m.num a (n + 1) = (m.get a).toNat + 256 * m.num (a + 1) n := rfl

/-- A number read after it was written is its low bytes. -/
theorem num_setNum {m : Memory} (a n x : Nat) (h : m.wf = true) : (m.setNum a n x).num a n = x % 256 ^ n := by
  have key : ∀ (k j : Nat), j + k ≤ n →
      (m.setNum a n x).num (a + j) k = x / 256 ^ j % 256 ^ k := by
    intro k
    induction k with
    | zero => intro j _; simp [Memory.num, Memory.bytes, ofBytes, Nat.mod_one]
    | succ k ih =>
      intro j hj
      rw [num_succ, get_setBytes _ _ _ _ h, if_pos (by omega), show a + j + 1 = a + (j + 1) by omega, ih (j + 1) (by omega)]
      rw [show a + j - a = j by omega, BitVec.toNat_ofNat,
        Nat.pow_succ (n := 256) (m := j), ← Nat.div_div_eq_div_mul, Nat.pow_succ' (m := 256) (n := k),
        Nat.mod_mul (a := 256) (b := 256 ^ k)]
  simpa using key n 0 (by omega)

/-- A number elsewhere stays. -/
theorem num_setNum_other {m : Memory} (a n x b k : Nat) (h : m.wf = true) (hd : b + k ≤ a ∨ a + n ≤ b) :
    (m.setNum a n x).num b k = m.num b k := by
  induction k generalizing b with
  | zero => rfl
  | succ k ih =>
    rw [num_succ, num_succ, get_setBytes _ _ _ _ h, if_neg (by omega), ih (b + 1) (by omega)]

theorem num_lt (m : Memory) (a n : Nat) : m.num a n < 256 ^ n := by
  induction n generalizing a with
  | zero => simp [Memory.num, Memory.bytes, ofBytes]
  | succ n ih =>
    rw [num_succ, Nat.pow_succ']
    have := ih (a + 1)
    have := (m.get a).isLt
    omega

/-- A buffer reads what was last put into it, and elsewhere what it held. -/
theorem bufGet_bufSet (m : Memory) (a b : Nat) (x : Byte) :
    bufGet (bufSet m a x) b = if b = a then some x else bufGet m b := by
  induction m with
  | nil => by_cases h : a = b <;> simp [bufSet, bufGet, h, eq_comm]
  | cons e m ih =>
    obtain ⟨k, y⟩ := e
    unfold bufSet
    split
    · rw [bufGet]
      by_cases h : a = b
      · rw [if_pos h, if_pos h.symm]
      · rw [if_neg h, if_neg (fun q => h q.symm)]
    · split
      · rename_i h1 h2
        rw [bufGet, bufGet]
        by_cases h : a = b
        · rw [if_pos h, if_pos h.symm]
        · rw [if_neg h, if_neg (fun q => h q.symm), if_neg (by omega)]
      · rw [bufGet, bufGet, ih]
        by_cases hk : k = b
        · rw [if_pos hk, if_pos hk, if_neg (by omega)]
        · rw [if_neg hk, if_neg hk]

/-- A table reads what was last put into it, and elsewhere what it held. -/
theorem find_put_same {α : Type} (t : Tbl α) (k : Nat) (x : α) : Tbl.find (Tbl.put t k x) k = some x := by
  induction t with
  | nil => simp [Tbl.put, Tbl.find]
  | cons e t ih =>
    obtain ⟨j, y⟩ := e
    unfold Tbl.put
    split
    · simp [Tbl.find]
    · split
      · simp [Tbl.find]
      · simp [Tbl.find, *]

theorem find_put_other {α : Type} (t : Tbl α) {k j : Nat} (x : α) (h : j ≠ k) :
    Tbl.find (Tbl.put t k x) j = Tbl.find t j := by
  induction t with
  | nil => simp [Tbl.put, Tbl.find, h.symm]
  | cons e t ih =>
    obtain ⟨i, y⟩ := e
    unfold Tbl.put
    split
    · subst_vars; simp [Tbl.find, h.symm]
    · split
      · rw [Tbl.find, if_neg h.symm]
      · rw [Tbl.find, ih]; rfl

@[simp] theorem at_put_same {α : Type} (t : Tbl α) (k : Nat) (x d : α) : Tbl.at (Tbl.put t k x) k d = x := by
  simp [Tbl.at, find_put_same]

theorem at_put_other {α : Type} (t : Tbl α) {k j : Nat} (x d : α) (h : j ≠ k) :
    Tbl.at (Tbl.put t k x) j d = Tbl.at t j d := by
  simp [Tbl.at, find_put_other t x h]

end Sys2Proof.Machine
end

