-- ==== Sys2Proof/Laws/Close.lean ====
section
/-! SUPPORT. Sys2Proof/Laws/Close.lean: what chunk-closing execution, a trap, and a checked access do at a boundary. -/

namespace Sys2Proof.Machine

/-- A thread without uncommitted work drains to itself. -/
theorem drain_clean {s : State} (h : s.cur.clean = true) : drain s = s := by simp [drain, h]

/-- At a boundary a chunk-closing instruction runs its body at once (R170, R171). -/
theorem closing_at {s : State} (h : AtBoundary s) (k : State → Out) : s.closing k = k s := by
  unfold State.closing
  rw [h.body, drain_clean h.clean]
  simp [h.clean]

/-- An instruction of an irrevocable page runs its body where it runs as a chunk of one (R151, R170). -/
theorem closingLate_alone {s : State} (h : Alone s) (k : State → Out) : s.closingLate k = k s := by
  have hb : s.cur.inBody = false := by simp [Thread.inBody, h.body]
  simp [State.closingLate, h.plain.1, hb, h.clean]

/-- A thread without uncommitted work stands at its trap already. -/
theorem truncates_clean {t : Thread} (h : t.clean = true) : t.truncates = false := by
  simp only [Thread.clean, Bool.and_eq_true, beq_iff_eq] at h
  simp [Thread.truncates, h.2]

/-- Giving up pins changes the Weir only. -/
theorem dropPins_weir (s : State) (tid : Nat) : dropPins s tid = { s with weir := (dropPins s tid).weir } := by
  unfold dropPins releaseNodes
  dsimp only
  split <;> rfl

/-- At a boundary a trap parks the slot with its record at the Tailrace (R377, R379). -/
theorem parks_of_trapRec {s : State} {i : Instr} {cause : Nat} {val val2 res : Word} {f : State → Rec} (h : AtBoundary s)
    (hf : f s = recordOf s s.cur cause s.cur.r.pc val val2) (he : exec i s = .next (takeTrapRec s res f)) :
    Parks s i cause val val2 res := by
  have hd : takeTrapRec s res f = parkWith (dropPins s s.cur.tid) s.cur res (f s) := by
    unfold takeTrapRec
    simp [h.body, truncates_clean h.clean, drain_clean h.clean, h.clean]
  rw [hd, hf, dropPins_weir] at he
  refine ⟨_, recordOf s s.cur cause s.cur.r.pc val val2, he, ?_⟩
  simp only [parkWith, Thread.still, handRecord, recordOf, State.setThread, if_true, State.tail, Thread.die, at_put_same,
    cECCU, cPAIR]
  refine ⟨trivial, trivial, trivial, trivial, trivial, trivial, trivial, trivial, trivial, trivial, trivial, trivial, ?_, ?_⟩
  · simp [or_assoc]
  · refine ⟨?_, trivial, trivial, trivial, trivial⟩
    split <;> simp_all

/-- At a boundary trap(cause, val) parks the slot (R375, R377). -/
theorem parks_of_trap {s : State} {i : Instr} {cause : Nat} {val val2 : Word} (h : AtBoundary s)
    (he : exec i s = s.trap cause val val2) : Parks s i cause val val2 s.cur.r.pc :=
  parks_of_trapRec h rfl he

/-- Accesses of several kinds whose checks have passed and that go ahead run their body. -/
theorem screenedAll_goes {s : State} {ps : List Probe} (h : GoesAheadAll s ps) (body : State → Out) :
    s.screenedAll ps body = body s := by
  unfold State.screenedAll
  rw [h.free]
  simp [serialNodes, h.plain.1]

/-- An access whose checks have passed and that goes ahead runs its body. -/
theorem screened_goes {s : State} {ls : List (Word × Loc)} {n : Nat} {k : Access} (h : GoesAhead s ls n k)
    (body : State → Out) : s.screened ls n k body = body s := by
  unfold State.screened State.screenedAll
  have hf := h.free
  unfold screen at hf
  rw [hf]
  simp [serialNodes, h.plain.1]

/-- The same of an access that runs as a chunk of one. -/
theorem screened_alone {s : State} {ls : List (Word × Loc)} {n : Nat} {k : Access} (h : GoesAlone s ls n k)
    (body : State → Out) : s.screened ls n k body = body s := by
  unfold State.screened State.screenedAll
  have hf := h.free
  unfold screen at hf
  rw [hf]
  simp [serialNodes, h.alone.plain.1]

/-- An access of one irrevocable place that runs as a chunk of one (R151, R170). -/
theorem access1_alone {s : State} {va : Word} {l : Loc} {n align : Nat} {k : Access}
    (hr : resolve s s.cur va align k = .ok l) (h : GoesAlone s [(va, l)] n k) (body : State → Bool → Loc → Out) :
    s.access1 va n align k body = body s true l := by
  unfold State.access1
  rw [hr]
  simp [(h.pages (va, l) (by simp)).1, closingLate_alone h.alone, screened_alone h]

theorem access1_goes {s : State} {va : Word} {l : Loc} {n align : Nat} {k : Access}
    (hr : resolve s s.cur va align k = .ok l) (h : GoesAhead s [(va, l)] n k) (body : State → Bool → Loc → Out) :
    s.access1 va n align k body = body s false l := by
  unfold State.access1
  rw [hr]
  simp [(h.pages (va, l) (by simp)).1, screened_goes h]

/-- A read of places that no peer device holds needs no answer (R338). -/
theorem reading_goes {s : State} {ls : List (Word × Loc)} {n m : Nat} {k : Access} (h : GoesAhead s ls m k)
    (body : State → Out) : s.reading n ls body = body s := by
  unfold State.reading State.readingOf
  dsimp only
  rw [h.plain.2]
  dsimp only
  rw [List.filterMap_eq_nil_iff.2]
  · rfl
  · intro e he
    rw [(h.pages e he).2]

end Sys2Proof.Machine
end

