-- ==== Sys2Proof/Laws/Units.lean ====
section
/-! SUPPORT. Sys2Proof/Laws/Units.lean: what reading a thread or a unit of the module gives after one of them changed. -/

namespace Sys2Proof.Machine

theorem tid_of_thread {s : State} {tid : Nat} {u : Thread} (h : s.thread tid = some u) : u.tid = tid := by
  simpa using List.find?_some h

/-- Replacing the elements of one key by one of that key: the first found is that one. -/
theorem find_replace_same (l : List Thread) (w : Thread) (h : (l.find? (fun t => t.tid == w.tid)).isSome) :
    (l.map (fun u => if u.tid = w.tid then w else u)).find? (fun t => t.tid == w.tid) = some w := by
  induction l with
  | nil => simp at h
  | cons a l ih =>
    by_cases ha : a.tid = w.tid
    · simp [ha]
    · have hb : (a.tid == w.tid) = false := by simpa using ha
      simp only [List.find?_cons, List.map_cons, ha, if_false, hb] at h ⊢
      exact ih h

theorem find_replace_other (l : List Thread) (w : Thread) {tid : Nat} (h : tid ≠ w.tid) :
    (l.map (fun u => if u.tid = w.tid then w else u)).find? (fun t => t.tid == tid) = l.find? (fun t => t.tid == tid) := by
  induction l with
  | nil => rfl
  | cons a l ih =>
    by_cases ha : a.tid = w.tid
    · have h1 : (w.tid == tid) = false := by simpa using fun e => h e.symm
      simp only [List.map_cons, ha, if_true, List.find?_cons, h1]
      exact ih
    · simp only [List.map_cons, ha, if_false, List.find?_cons]
      cases a.tid == tid
      · exact ih
      · rfl

/-- A thread that the module has, replaced: its number gives the new one. -/
theorem thread_setThread {s : State} {w : Thread} (h : (s.thread w.tid).isSome) : (s.setThread w).thread w.tid = some w := by
  unfold State.setThread
  by_cases hc : s.cur.tid = w.tid
  · simp [hc, State.thread, State.threads]
  · have hb : (s.cur.tid == w.tid) = false := by simpa using hc
    simp only [hc, if_false, State.thread, State.threads, List.find?_cons, hb] at h ⊢
    exact find_replace_same _ _ h

theorem thread_setThread' {s : State} {w u : Thread} {tid : Nat} (h : s.thread tid = some u) (hw : w.tid = u.tid) :
    (s.setThread w).thread tid = some w := by
  have ht := tid_of_thread h
  have : tid = w.tid := by rw [hw, ht]
  subst this
  exact thread_setThread (by rw [h]; rfl)

theorem thread_setThread_other {s : State} {w : Thread} {tid : Nat} (h : tid ≠ w.tid) :
    (s.setThread w).thread tid = s.thread tid := by
  unfold State.setThread
  by_cases hc : s.cur.tid = w.tid
  · have h1 : (w.tid == tid) = false := by simpa using fun e => h e.symm
    have h2 : (s.cur.tid == tid) = false := by rw [hc]; exact h1
    simp [hc, State.thread, State.threads, h1]
  · simp only [hc, if_false, State.thread, State.threads, List.find?_cons]
    cases s.cur.tid == tid
    · exact find_replace_other _ _ h
    · rfl

@[simp] theorem setThread_mem (s : State) (w : Thread) : (s.setThread w).mem = s.mem := by
  unfold State.setThread; split <;> rfl
@[simp] theorem setThread_work (s : State) (w : Thread) : (s.setThread w).work = s.work := by
  unfold State.setThread; split <;> rfl
@[simp] theorem setThread_cycle (s : State) (w : Thread) : (s.setThread w).cycle = s.cycle := by
  unfold State.setThread; split <;> rfl

/-- Replacing a thread changes the two thread fields alone. -/
theorem setThread_rest (s : State) (w : Thread) :
    s.setThread w = { s with cur := (s.setThread w).cur, others := (s.setThread w).others } := by
  unfold State.setThread; split <;> rfl

/-- The thread of a number after every thread changed by a function that keeps numbers. -/
theorem thread_mapThreads {s : State} {f : Thread → Thread} (hf : ∀ t, (f t).tid = t.tid) (tid : Nat) :
    (s.mapThreads f).thread tid = (s.thread tid).map f := by
  have hl : ∀ l : List Thread, (l.map f).find? (fun t => t.tid == tid) = (l.find? (fun t => t.tid == tid)).map f := by
    intro l
    induction l with
    | nil => rfl
    | cons a l ih =>
      simp only [List.map_cons, List.find?_cons, hf]
      cases a.tid == tid
      · exact ih
      · rfl
  exact hl (s.cur :: s.others)

@[simp] theorem func_mapFunc (s : State) (f : Nat) (g : Func → Func) : (s.mapFunc f g).func f = g (s.func f) := by
  simp [State.mapFunc, State.func]
theorem func_mapFunc_other (s : State) {f h : Nat} (g : Func → Func) (n : h ≠ f) : (s.mapFunc f g).func h = s.func h := by
  simp [State.mapFunc, State.func, at_put_other _ _ _ n]
@[simp] theorem box_mapBox (s : State) (u : Nat) (g : Mailbox → Mailbox) : (s.mapBox u g).box u = g (s.box u) := by
  simp [State.mapBox, State.box]
theorem box_mapBox_other (s : State) {u v : Nat} (g : Mailbox → Mailbox) (n : v ≠ u) : (s.mapBox u g).box v = s.box v := by
  simp [State.mapBox, State.box, at_put_other _ _ _ n]

@[simp] theorem shoe_mapShoe (s : State) (c : Nat) (f : Shoe → Shoe) : (s.mapShoe c f).shoe c = f (s.shoe c) := by
  simp [State.mapShoe, State.shoe]
theorem shoe_mapShoe_other (s : State) {c d : Nat} (f : Shoe → Shoe) (n : d ≠ c) : (s.mapShoe c f).shoe d = s.shoe d := by
  simp [State.mapShoe, State.shoe, at_put_other _ _ _ n]

/-- A Shoe that has made its dispatch makes no other in the same cycle (R76). -/
theorem shoeFree_spent (s : State) (c : Nat) (i : Option Item) : shoeFree (shoeSpent s c i) c = false := by
  have h : (shoeSpent s c i).cycle = s.cycle := rfl
  simp [shoeFree, h]
  simp [shoeSpent]

/-- The shipped instruction of a number after it changed by a function that keeps numbers. -/
theorem ship_mapShip {s : State} {k : Nat} {f : Ship → Ship} (hf : ∀ x, (f x).id = x.id) :
    (s.mapShip k f).ship k = (s.ship k).map f := by
  show (s.ships.map _).find? _ = (s.ships.find? _).map f
  induction s.ships with
  | nil => rfl
  | cons a l ih =>
    by_cases ha : a.id = k
    · simp [ha, hf]
    · have hb : (a.id == k) = false := by simpa using ha
      simp only [List.map_cons, ha, if_false, List.find?_cons, hb]
      exact ih
/-- A shipped instruction that is gone has no entry. -/
theorem ship_dropShip (s : State) (k : Nat) : (s.dropShip k).ship k = none := by
  simp [State.dropShip, State.ship, List.find?_eq_none]

/-- The launch of an index after one launch changed. -/
theorem launchAt_mapLaunch {s : State} {l : Nat} {r : Launch} (h : s.launchAt l = some r) (f : Launch → Launch) :
    (s.mapLaunch l f).launchAt l = some (f r) := by
  have h' : s.work.launches[l]? = some r := h
  have hl : l < s.work.launches.length := by
    rcases Nat.lt_or_ge l s.work.launches.length with h1 | h1
    · exact h1
    · simp [List.getElem?_eq_none h1] at h'
  simp only [State.mapLaunch, h, setAt]
  show (s.work.launches.set l (f r))[l]? = _
  simp [hl]

end Sys2Proof.Machine
end

