-- ==== Sys2Proof/Laws/Keeps.lean ====
section
/-! SUPPORT. Sys2Proof/Laws/Keeps.lean: which shared operations leave memory as it is, and that those that write it keep its
canonical form: what MemoryInvariant needs of the Weir, of traps and of the agents outside threads. -/

namespace Sys2Proof.Machine

/-- What every step of a fold keeps, the fold keeps. -/
theorem foldl_keeps {α β γ : Type} (p : α → γ) {f : α → β → α} (h : ∀ a b, p (f a b) = p a) (l : List β) (a : α) :
    p (l.foldl f a) = p a := by
  induction l generalizing a with
  | nil => rfl
  | cons b l ih => rw [List.foldl_cons, ih, h]

theorem foldl_inv {α β : Type} {P : α → Prop} {f : α → β → α} (h : ∀ a b, P a → P (f a b)) (l : List β) {a : α} (ha : P a) :
    P (l.foldl f a) := by
  induction l generalizing a with
  | nil => exact ha
  | cons b l ih => exact ih (h a b ha)

/-- Taking cells away keeps the canonical form. -/
theorem wf_filter {m : Memory} (f : Host.Cell → Bool) (h : m.wf = true) : Memory.wf (m.filter f) = true := by
  have key : ∀ (m : Memory) (lo : Nat), Memory.wfFrom lo m = true → Memory.wfFrom lo (m.filter f) = true := by
    intro m
    induction m with
    | nil => intro lo _; rfl
    | cons e m ih =>
      obtain ⟨k, x⟩ := e
      intro lo h
      simp only [Memory.wfFrom, Bool.and_eq_true, decide_eq_true_eq] at h
      rw [List.filter_cons]
      split
      · simp only [Memory.wfFrom, Bool.and_eq_true, decide_eq_true_eq]
        exact ⟨h.1, ih _ h.2⟩
      · exact wfFrom_mono (ih _ h.2) (by omega)
  exact key m 0 h

@[simp] theorem setNode_mem (s : State) (k : Nat) (n : Node) : (s.setNode k n).mem = s.mem := rfl
@[simp] theorem bump_mem (s : State) (d k n : Nat) : (s.bump d k n).mem = s.mem := rfl
@[simp] theorem cancelShips_mem (s : State) (tid : Nat) (l : List Nat) : (cancelShips s tid l).mem = s.mem := rfl
@[simp] theorem releaseNodes_mem (s : State) (tid : Nat) (p : Bool) : (releaseNodes s tid p).mem = s.mem := rfl
@[simp] theorem touch_mem (s : State) (l : List Line) : (touch s l).mem = s.mem := rfl
@[simp] theorem doomAt_mem (f : Image → Bool) (s : State) (a : Nat) (l : List Line) : (doomAt f s a l).mem = s.mem := rfl
@[simp] theorem dropPins_mem (s : State) (tid : Nat) : (dropPins s tid).mem = s.mem := by
  unfold dropPins; dsimp only; split <;> rfl
@[simp] theorem toSerial_mem (s : State) (tid : Nat) : (toSerial s tid).mem = s.mem := by
  unfold toSerial; split <;> simp [State.setThread]; split <;> rfl
@[simp] theorem toPeer_mem (s : State) (m : PeerMsg) : (s.toPeer m).mem = s.mem := rfl
@[simp] theorem mapBarrier_mem (s : State) (k : Nat) (f : Barrier → Barrier) : (s.mapBarrier k f).mem = s.mem := by
  unfold State.mapBarrier; split <;> rfl
@[simp] theorem doomImages_mem (s : State) (a : Nat) (l : List Line) : (doomImages s a l).mem = s.mem := rfl
@[simp] theorem mapTask_mem (s : State) (k : Nat × Nat) (f : Task → Task) : (s.mapTask k f).mem = s.mem := rfl
@[simp] theorem mapThreads_mem (s : State) (f : Thread → Thread) : (s.mapThreads f).mem = s.mem := rfl
@[simp] theorem mapFunc_mem (s : State) (k : Nat) (f : Func → Func) : (s.mapFunc k f).mem = s.mem := rfl
@[simp] theorem mapBox_mem (s : State) (k : Nat) (f : Mailbox → Mailbox) : (s.mapBox k f).mem = s.mem := rfl
@[simp] theorem handRecord_mem (s : State) (d : Nat) (r : Rec) : (handRecord s d r).mem = s.mem := rfl
@[simp] theorem raiseVector_mem (s : State) (f v : Nat) : (raiseVector s f v).mem = s.mem := rfl
@[simp] theorem logError_mem (s : State) (f a k : Nat) : (logError s f a k).mem = s.mem := rfl
@[simp] theorem holdForCommit_mem (s : State) : (holdForCommit s).mem = s.mem := rfl
@[simp] theorem mapLaunch_mem (s : State) (k : Nat) (f : Launch → Launch) : (s.mapLaunch k f).mem = s.mem := by
  unfold State.mapLaunch; split <;> rfl
@[simp] theorem mapOwnLaunch_mem (s : State) (t : Thread) (f : Launch → Launch) : (s.mapOwnLaunch t f).mem = s.mem := by
  unfold State.mapOwnLaunch; split <;> simp
@[simp] theorem placeThread_mem (s : State) (w : Thread) : (s.placeThread w).mem = s.mem := by
  unfold State.placeThread; split <;> simp
@[simp] theorem countPoint_mem (s : State) (l : List Nat) : (countPoint s l).mem = s.mem :=
  foldl_keeps State.mem (by simp) _ _
@[simp] theorem takeNode_mem (s : State) (tid k : Nat) (e : Bool) : (takeNode s tid k e).1.mem = s.mem := by
  unfold takeNode; dsimp only; split <;> rfl

@[simp] theorem undo_mem (s : State) (tid : Nat) (o : Bool) (c : Option Nat) : (undo s tid o c).mem = s.mem := by
  unfold undo
  repeat' split
  all_goals (try dsimp only)
  all_goals (repeat' split)
  all_goals simp
@[simp] theorem squash_mem (s : State) (tid : Nat) (o : Bool) (c : Nat) : (squash s tid o c).mem = s.mem :=
  undo_mem s tid o (some c)
@[simp] theorem squashFin_mem (c : Nat) (s : State) (tid : Nat) (k : Chunk) : (squashFin c s tid k).mem = s.mem := by
  unfold squashFin; split <;> simp
@[simp] theorem receiveAt_mem (g : Bool) (a : Nat) (l : List Line) (f : Bool) (s : State) (tid : Nat) :
    (receiveAt g a l f s tid).mem = s.mem := by
  unfold receiveAt
  split
  · rfl
  · dsimp only
    repeat' split
    all_goals simp [foldl_keeps State.mem (squashFin_mem _ · tid ·)]
@[simp] theorem receiveOwn_mem (a : Nat) (l d : List Line) (k : Option (Nat × Nat)) (s : State) (tid : Nat) :
    (receiveOwn a l d k s tid).mem = s.mem := by
  unfold receiveOwn
  split
  · rfl
  · dsimp only
    split
    all_goals simp [foldl_keeps State.mem (squashFin_mem _ · tid ·)]
@[simp] theorem receiveJob_mem (g : Bool) (a : Nat) (l : List Line) (s : State) (x : Ship) : (receiveJob g a l s x).mem = s.mem := by
  have lift : ∀ (u : State) (o : Option Thread) (f : Thread → Thread), u.mem = s.mem →
      ((o.map (fun t => u.setThread (f t))).getD u).mem = s.mem := by
    intro u o f h
    cases o <;> simp [h]
  unfold receiveJob
  repeat' split
  all_goals (try dsimp only)
  all_goals first
    | rfl
    | exact lift _ _ _ (by simp)
    | simp
@[simp] theorem receiveTile_mem (s : State) (tid a : Nat) (c : Chunk) (tile : Nat) :
    (receiveTile s tid a c tile).mem = s.mem := by
  unfold receiveTile
  dsimp only
  rw [doomAt_mem, foldl_keeps State.mem (by simp), foldl_keeps State.mem (fun a b => ?_)]
  split <;> simp
@[simp] theorem acknowledge_mem (s : State) (tid tile : Nat) : (acknowledge s tid tile).mem = s.mem := by
  unfold acknowledge
  repeat' split
  all_goals simp
@[simp] theorem requestCommit_mem (s : State) (tid : Nat) : (requestCommit s tid).mem = s.mem := by
  unfold requestCommit
  split
  · rfl
  · dsimp only
    repeat' split
    all_goals simp
@[simp] theorem mapAny_mem (s : State) (tid : Nat) (f : Thread → Thread) : (s.mapAny tid f).mem = s.mem := by
  unfold State.mapAny; split <;> simp
@[simp] theorem landPacket_mem (s : State) (p : Packet) : (landPacket s p).mem = s.mem := by
  unfold landPacket
  repeat' split
  all_goals simp
@[simp] theorem sendPacket_mem (s : State) (t : Nat) (p : Packet) : (sendPacket s t p).mem = s.mem := by
  unfold sendPacket
  repeat' split
  all_goals simp
@[simp] theorem sendItem_mem (s : State) (l : Launch) (c : Nat) (i : Item) : (sendItem s l c i).mem = s.mem := by
  unfold sendItem; split <;> rfl
@[simp] theorem offerTask_mem (s : State) (l : Launch) (c : Nat) (i : Item) : (offerTask s l c i).mem = s.mem := rfl
@[simp] theorem formGang_mem (s : State) (l : Launch) (k c g n : Nat) (is : List Item) :
    (formGang s l k c g n is).mem = s.mem := by
  unfold formGang; split <;> rfl
@[simp] theorem handSpawn_mem (s : State) (tid k : Nat) (o : Bool) (ws : List Word) (n v : Nat) :
    (handSpawn s tid k o ws n v).mem = s.mem := by
  unfold handSpawn
  split
  · rfl
  · dsimp only
    split
    · rw [foldl_keeps State.mem (by simp)]; simp
    · split
      · simp
      · split
        · simp
        · rw [foldl_keeps State.mem (by simp)]; simp
@[simp] theorem arriveAt_mem (s : State) (tid v : Nat) : (arriveAt s tid v).mem = s.mem := by
  unfold arriveAt barrierAt
  split
  · rfl
  · dsimp only
    repeat' split
    all_goals simp

/-- What a hand-off writes, the FetchAdd of a RED, keeps the canonical form. -/
theorem wf_handOff {s : State} (t : Thread) (v : Nat) (h : Hand) (w : s.mem.wf = true) : (handOff s t v h).mem.wf = true := by
  unfold handOff
  split
  · unfold handCopy; dsimp only; split <;> simpa using w
  · exact w
  · exact wf_setNum _ _ _ w
  · rw [arriveAt_mem]; exact w
  · split
    · exact w
    · rw [handSpawn_mem]; exact w

/-- So does an irrevocable lane, and the release of a commit, which performs them. -/
theorem wf_performLane {s : State} (t : Thread) (c : Chunk) (x : Lane) (w : s.mem.wf = true) : (performLane s t c x).mem.wf = true := by
  unfold performLane
  split
  · exact wf_handOff _ _ _ w
  · dsimp only
    rw [doomImages_mem, foldl_keeps State.mem (by simp), touch_mem, setNode_mem]
    split <;> exact wf_setAll _ w

theorem wf_nextLane {s : State} (t : Thread) (c : Chunk) (w : s.mem.wf = true) : (nextLane s t c).mem.wf = true := by
  unfold nextLane
  repeat' split
  all_goals (try dsimp only)
  all_goals (repeat' split)
  all_goals first
    | exact w
    | exact wf_performLane _ _ _ w
    | (rw [setThread_mem]; exact wf_performLane _ _ _ w)

theorem wf_releaseCommit {s : State} (tid : Nat) (w : s.mem.wf = true) : (releaseCommit s tid).mem.wf = true := by
  unfold releaseCommit
  split
  · exact w
  · split
    · exact w
    · split
      · exact wf_nextLane _ _ w
      · split
        · dsimp only
          have h : ∀ (n : Nat) (l : List Nat) (s : State),
              (l.foldl (fun s k => s.setNode k { s.node k with v := n }) s).mem = s.mem :=
            fun n l s => foldl_keeps State.mem (by simp) l s
          split <;> simpa [h] using w
        · exact w

/-- A reduction or an append keeps the canonical form. -/
theorem wf_applyEffect (t : Thread) {s : State} (e : Effect) (h : s.mem.wf = true) : (applyEffect t s e).mem.wf = true := by
  unfold applyEffect
  split
  · exact wf_setNum _ _ _ h
  · exact wf_setNum _ _ _ h
  · dsimp only
    split
    · exact wf_setNum _ _ _ h
    · rename_i c line
      have h' : Memory.wf (if Memory.num s.mem c 4 < 2 ^ 32 - 1 then Memory.setNum s.mem c 4 (Memory.num s.mem c 4 + 1)
          else s.mem) = true := by
        split
        · exact wf_setNum _ _ _ h
        · exact h
      revert h'
      generalize (if Memory.num s.mem c 4 < 2 ^ 32 - 1 then Memory.setNum s.mem c 4 (Memory.num s.mem c 4 + 1)
          else s.mem) = m
      intro h'
      split
      · split
        · exact wf_setNum _ _ _ h'
        · exact h'
      · exact wf_setNum _ _ _ h'

theorem wf_applyEffects (t : Thread) (es : List Effect) {s : State} (ls : List Line) (h : s.mem.wf = true) :
    (applyEffects t s ls es).1.mem.wf = true := by
  induction es generalizing s ls with
  | nil => exact h
  | cons e es ih => exact ih _ (wf_applyEffect t e h)

/-- The point of a commit keeps the canonical form. -/
theorem wf_applyChunk {s : State} (t : Thread) (c : Chunk) (h : s.mem.wf = true) : (applyChunk s t c).mem.wf = true := by
  unfold applyChunk
  simp only [setThread_mem, doomImages_mem, countPoint_mem, mapOwnLaunch_mem]
  apply foldl_inv (P := fun s : State => s.mem.wf = true) (fun a b h => wf_handOff _ _ b h)
  rw [touch_mem]
  exact wf_applyEffects _ c.effects _ (wf_setAll _ h)

theorem wf_pointOf {s : State} (t : Thread) (c : Chunk) (h : s.mem.wf = true) : (pointOf s t c).mem.wf = true := by
  unfold pointOf
  repeat' split
  · rw [undo_mem]; exact h
  · exact wf_applyChunk _ _ h
  · exact h

theorem wf_grantNext {s : State} (tid : Nat) (h : s.mem.wf = true) : (grantNext s tid).mem.wf = true := by
  unfold grantNext
  split
  · exact h
  · split
    · exact h
    · split
      · exact h
      · split
        · exact wf_pointOf _ _ h
        · have hk := takeNode_mem s tid
          dsimp only
          split
          · split
            · exact wf_pointOf _ _ (by rw [setThread_mem, hk]; exact h)
            · rw [setThread_mem, hk]; exact h
          · rw [hk]; exact h

theorem wf_commitOlder {s : State} (tid : Nat) (h : s.mem.wf = true) : (commitOlder s tid).mem.wf = true := by
  have hr : ∀ (n : Nat) (s : State), s.mem.wf = true → (repeatS (fun s => grantNext s tid) n s).mem.wf = true := by
    intro n
    induction n with
    | zero => exact fun _ h => h
    | succ n ih => exact fun _ h => ih _ (wf_grantNext tid h)
  unfold commitOlder
  split
  · exact h
  · split
    · exact h
    · dsimp only
      apply wf_releaseCommit
      split
      · split
        · rw [foldl_keeps State.mem (by simp)]
          exact hr _ _ (by simpa using h)
        · exact hr _ _ (by simpa using h)
      · exact hr _ _ (by simpa using h)

theorem wf_drain {s : State} (h : s.mem.wf = true) : (drain s).mem.wf = true := by
  unfold drain
  split
  · exact h
  · have h1 : (if s.cur.com.isSome = true then commitOlder s s.cur.tid else s).mem.wf = true := by
      split
      · exact wf_commitOlder _ h
      · exact h
    revert h1
    generalize (if s.cur.com.isSome = true then commitOlder s s.cur.tid else s) = u
    intro h1
    dsimp only
    split
    · exact h1
    · exact wf_commitOlder _ (by simpa using h1)

theorem wf_sealed {s : State} (h : s.mem.wf = true) : s.sealed.mem.wf = true := by
  unfold State.sealed
  split
  · exact h
  · have h1 := wf_commitOlder (s := s.withCur (boundary s.cur s.cycle none)) s.cur.tid h
    unfold awaitOlder
    dsimp only
    split
    · exact h1
    · exact h1

theorem wf_takeTrapRec {s : State} (x : Word) (f : State → Rec) (h : s.mem.wf = true) :
    (takeTrapRec s x f).mem.wf = true := by
  unfold takeTrapRec
  split
  · rw [overflow, squash_mem]; exact h
  · dsimp only
    split
    · exact h
    split
    · unfold parkWith dropPins
      dsimp only
      rw [handRecord_mem, setThread_mem]
      split
      · exact wf_drain h
      · exact wf_drain h
    · exact wf_drain h

@[simp] theorem broadcast_mem (s : State) (a : Nat) (l : List Line) : (broadcast s a l).mem = s.mem := by
  unfold broadcast
  dsimp only
  rw [doomImages_mem, foldl_keeps State.mem (by simp), foldl_keeps State.mem (by simp)]

/-- A point of an agent outside threads writes its cells and keeps the canonical form. -/
theorem agentPoint_mem (s : State) (g b : Nat) (ns : List Nat) (a : Nat) (cs : List Host.Cell) (ls : List Line) :
    (agentPoint s g b ns a cs ls).1.mem = Memory.setAll s.mem cs := by
  unfold agentPoint
  dsimp only
  split
  · rw [countPoint_mem, releaseNodes_mem, foldl_keeps State.mem (by simp)]
  · rw [broadcast_mem, touch_mem, countPoint_mem, releaseNodes_mem, foldl_keeps State.mem (by simp)]

theorem wf_agentPoint {s : State} (g b : Nat) (ns : List Nat) (a : Nat) (cs : List Host.Cell) (ls : List Line)
    (h : s.mem.wf = true) : (agentPoint s g b ns a cs ls).1.mem.wf = true := by
  rw [agentPoint_mem]; exact wf_setAll _ h

theorem wf_sourcePoint {s : State} (b : Nat) (ns : List Nat) (cs : List Host.Cell) (ls : List Line)
    (h : s.mem.wf = true) : (sourcePoint s b ns cs ls).mem.wf = true := wf_agentPoint _ _ ns 0 cs ls h

theorem wf_writePlaced {s : State} (g b a : Nat) (cs : List (Host.Cell × Loc)) (h : s.mem.wf = true) :
    (writePlaced s g b a cs).mem.wf = true := wf_agentPoint _ _ _ _ _ _ h

/-- An agent that waits for nodes writes nothing. -/
theorem agentWait_mem (s : State) (g : Nat) (ns : List Nat) : (agentWait s g ns).mem = s.mem := by
  unfold agentWait
  dsimp only
  rw [foldl_keeps (fun r : State × Bool => r.1.mem) (fun r k => by split <;> simp)]
  rfl

end Sys2Proof.Machine
end

