-- ==== Sys2Proof/Tests/Slice0.lean ====
section
/-! SUPPORT. Sys2Proof/Tests/Slice0.lean: the model's own tests: ill-formed instructions that the check refuses, words
written out from the encodings of chapter 6, single steps with results worked out by hand from the rules, and for every
statement a state and operands that meet its hypotheses. -/

set_option Elab.async false

namespace Sys2Proof.Tests

open Sys2Proof.Machine

/-! Ill-formed terms, one for each check of Instr.wf (R105, R139-R143, R248). -/

theorem test_wf_fop_type : (Instr.fadd 0 1 2 3 0).wf = false ∧ (Instr.frcp 5 1 2 0).wf = false := by decide
theorem test_wf_fcvt_types : (Instr.fcvt 5 2 1 2 0).wf = false ∧ (Instr.fcvt 2 2 1 2 0).wf = false ∧
    (Instr.fcvt 0 1 1 2 0).wf = false := by decide
theorem test_wf_dcvt_types : (Instr.dcvt 5 5 1 2 0).wf = false ∧ (Instr.dcvt 2 3 1 2 0).wf = false := by decide
theorem test_wf_ffma_type : (Instr.ffma 3 1 2 3 4 0).wf = false := by decide
theorem test_wf_vsgn_type : (Instr.vsgn 1 0 1 2 3 0).wf = false := by decide
theorem test_wf_vector_shift_types : (Instr.vshl 2 0 1 2 3 0).wf = false ∧ (Instr.vshr 5 0 1 2 3 0).wf = false ∧
    (Instr.vsha 4 0 1 2 3 0).wf = false ∧ (Instr.viota 3 0 1 0).wf = false := by decide
theorem test_wf_vcvt_types : (Instr.vcvt 2 2 0 1 2 0).wf = false := by decide
theorem test_wf_vdot_type : (Instr.vdot 2 0 1 2 3 0).wf = false := by decide
theorem test_wf_reduce_codes : (Instr.vreds 2 3 0 1 2 0).wf = false ∧ (Instr.vscan 0 6 0 1 2 0).wf = false := by decide
theorem test_wf_vrcp_type : (Instr.vrcp 0 0 1 2 0).wf = false ∧ (Instr.vrsq 6 0 1 2 0).wf = false := by decide
theorem test_wf_vtrn_code : (Instr.vtrn 2 5 0 1 2 0).wf = false ∧ (Instr.vtrn 1 0 0 1 2 0).wf = false := by decide
theorem test_wf_float_reduction_code : (Instr.redf 3 1 2 0).wf = false ∧ (Instr.redd 7 1 2 0).wf = false := by decide
theorem test_wf_memory_lane : (Instr.vred 3 0 1 2 3 0).wf = false ∧ (Instr.vbina 6 0 1 2 0).wf = false := by decide
theorem test_wf_csr_exists : (Instr.csrr 0x015 1 0).wf = false := by decide
theorem test_wf_csr_read_only : (Instr.csrw 0x000 1 2 0).wf = false ∧ (Instr.csrs 0x042 1 2 0).wf = false ∧
    (Instr.csrc 0x050 1 2 0).wf = false := by decide

/-! Words written out bit by bit from the fields of chapter 6 (R126-R148). -/

theorem test_decode_short : decode 0x1122 = some (.addC 1 1 2) ∧ decode 0x0000 = some .ill ∧ decode 0x0020 = none := by
  decide
theorem test_decode_integer : decode 0x8C520C03 = some (.divz true 3 4 5 0) ∧
    decode 0x28010403 = some (.clz false 1 2 0) ∧ decode 0xA8010403 = some (.clz true 1 2 0) ∧
    decode 0x28310403 = none ∧ decode 0x34010403 = none := by decide
theorem test_decode_immediate : decode 0x03FF9097 = some (.li 4 0x7FF 1) ∧ decode 0x02921011 = some (.shli 41 4 4 0) ∧
    decode 0x68AC9C99 = some (.lih 7 0x0D159 1) ∧ decode 0x04008411 = none := by decide
theorem test_decode_compare : decode 0x8473081B = some (.cmp true 2 2 6 7 0) ∧
    decode 0xFFD1041D = some (.cmpi 5 1 2 0x1FF 0) ∧ decode 0x0C01901F = some (.pcnt 4 3 0) := by decide
theorem test_decode_control : decode 0x0062882D = some (.bp 6 2 5 0) ∧ decode 0xFFA00839 = some (.loop 0xFFA 2 0) := by
  decide
theorem test_decode_scalar_float : decode 0x404199BF = some (.fadd 2 6 3 4 3) ∧
    decode 0x0E23883F = some (.fcvt 0 2 2 7 0) ∧ decode 0x9AC5A841 = some (.ffma 2 13 10 11 12 0) := by decide
theorem test_decode_heavy : decode 0x06209443 = some (.ddiv 5 1 2 0) ∧ decode 0xB0619043 = some (.dcvt 5 6 4 3 0) ∧
    decode 0x0620A445 = some (.dfma 3 9 1 2 0) := by decide
theorem test_decode_vector : decode 0x12208C47 = some (.vadd 2 1 3 1 2 0) ∧
    decode 0xD4209047 = some (.vfma 2 2 4 1 2 0) ∧ decode 0xD020C849 = some (.vcmp 2 2 2 0 1 2 0) ∧
    decode 0x68629ECF = some (.vqnt 5 0 7 5 6 5) ∧ decode 0x10010451 = some (.vreds 2 0 0 1 2 0) ∧
    decode 0x02019853 = some (.vcmpr 0 1 6 3 0) ∧ decode 0x90220C55 = some (.vtrn 2 2 0 3 4 0) ∧
    decode 0x9002984F = some (.vscx 0 6 5 0) := by decide
theorem test_decode_memory : decode 0x00A09457 = some (.ld 2 5 1 2 0) ∧ decode 0xFFB0945B = some (.st 3 5 1 0x3FE 0) ∧
    decode 0x0252085F = some (.vld 1 1 2 4 2 0) ∧ decode 0x2A710C63 = some (.vgath true 2 3 2 7 0) ∧
    decode 0x44031063 = some (.vldf 2 0 4 6 0) ∧ decode 0x54031063 = some (.vstf 2 0 4 6 0) ∧
    decode 0x62018063 = some (.pref true 3 0) := by decide
theorem test_decode_copy : decode 0x80002463 = some (.copy 9 0) ∧ decode 0x90048063 = some (.copyw 9 0) ∧
    decode 0xA0002863 = some (.copyq 10 0) := by decide
theorem test_decode_matrix : decode 0x00000C65 = some (.mma 3 0) ∧ decode 0x02000C65 = some (.mmaz 3 0) ∧
    decode 0x04000C65 = some (.mdrn 3 0) ∧ decode 0x06000C65 = some (.mtrn 3 0) ∧
    decode 0x08000C65 = some (.mrsum 3 0) := by decide
theorem test_decode_atomic : decode 0x12209467 = some (.amo true 1 5 1 2 0) ∧
    decode 0x22209067 = some (.amow 1 2 1 1 0) ∧ decode 0x50208067 = some (.red true 0 1 2 0) ∧
    decode 0x60208067 = some (.redf 0 1 2 0) ∧ decode 0x84208067 = some (.redd 2 1 2 0) ∧
    decode 0x46209469 = some (.amocas true 3 5 1 2 0) ∧ decode 0x0C20906B = some (.amowcas 3 2 1 1 0) ∧
    decode 0x1220906D = some (.vred 2 1 4 1 2 0) ∧ decode 0x4451806D = some (.vbina 0 2 3 5 0) ∧
    decode 0x10128071 = none := by decide
theorem test_decode_sync : decode 0x0000006F = some (.chend 0) ∧ decode 0x0200146F = some (.chid 5 0) ∧
    decode 0x0401006F = some (.bar 2 0) ∧ decode 0x0601006F = some (.bara 2 0) ∧ decode 0x0801006F = some (.barw 2 0) ∧
    decode 0x0A01986F = some (.waitv 6 3 0) ∧ decode 0x0C10006F = some (.fence true 0) ∧
    decode 0x0E00006F = some (.waitw 0) ∧ decode 0x1031006F = some (.spawn 2 3 0) ∧
    decode 0x1400006F = some (.wend 0) ∧ decode 0x1600006F = some (.yield 0) := by decide
theorem test_decode_system : decode 0x00001C73 = some (.trap 7 0) ∧ decode 0x02000073 = some (.brk 0 0) ∧
    decode 0x04000073 = some (.eret 0) ∧ decode 0x06000073 = some (.park 0) ∧ decode 0x080003F3 = some (.nop 7) ∧
    decode 0x04001471 = some (.csrr 0x010 5 0) ∧ decode 0x04530071 = some (.csrw 0x011 0 6 0) ∧
    decode 0x04241C71 = some (.csrs 0x010 7 8 0) ∧ decode 0x04341C71 = some (.csrc 0x010 7 8 0) ∧
    decode 0x05401471 = none ∧ decode 0x0000007F = none := by decide
/-! Small states: a supervisor thread on a big core, and a user thread on a little core, each with a code page at VA
0x10000, a data page of FMT 2 and GEOM 1 at 0x20000 with its scale page, a host page at 0x30000, one with SYS at 0x40000, a
peer page at 0x50000, pages of FMT 2 and of FMT 13 without scales at 0x60000 and 0x70000, and an irrevocable page of the
module at 0xA0000. -/

/-- A page's leaf entry in the third node of bootMemory. -/
def page (m : Memory) (k e : Nat) : Memory := Memory.setNum m (0x120000 + 8 * k) 8 e

/-- The scale nodes and the scale page of the first 64 KiB of scale addresses. -/
def scales (m : Memory) : Memory :=
  Memory.setNum (Memory.setNum (Memory.setNum m 0x101C00 8 (0x1A * 2 ^ 24 + 1)) 0x1A0000 8 (0x1B * 2 ^ 24 + 1))
    0x1B0000 8 (0x1C * 2 ^ 24 + 0x17)

/-- The cells of the tables of these pages, under the root at 0x100000 that a boot gives ASID 0. -/
def bigMem : Memory :=
  [(0x100000, 1), (0x100003, 0x11), (0x101C00, 1), (0x101C03, 0x1A), (0x110000, 1), (0x110003, 0x12),
   (0x120008, 0x1F), (0x12000B, 0x13), (0x120010, 0x17), (0x120011, 0x90), (0x120013, 0x14), (0x120018, 0x17),
   (0x120019, 1), (0x12001B, 0x14), (0x120020, 0x37), (0x120021, 1), (0x120023, 0x15), (0x120028, 0x17), (0x120029, 2),
   (0x12002F, 1), (0x120030, 0x17), (0x120031, 0x10), (0x120033, 0x16), (0x120038, 0x17), (0x120039, 0x68),
   (0x12003B, 0x17), (0x120050, 0x97), (0x120053, 0x18), (0x1A0000, 1), (0x1A0003, 0x1B), (0x1B0000, 0x17), (0x1B0003, 0x1C)]

/-- The supervisor thread of die 0, ready to issue. -/
def bigS : State := { bootState State.reset with mem := bigMem }

/-- The cells are what page and scales write. -/
theorem test_bigMem :
    (let m := page (page (bootState State.reset).mem 2 (0x14 * 2 ^ 24 + 0x17 + 2 * 2 ^ 11 + 2 ^ 15)) 3 (0x14 * 2 ^ 24 + 0x117)
     let m := page (page m 4 (0x15 * 2 ^ 24 + 0x137)) 5 (2 ^ 56 + 0x217)
     let m := page (page m 6 (0x16 * 2 ^ 24 + 0x17 + 2 * 2 ^ 11)) 7 (0x17 * 2 ^ 24 + 0x17 + 13 * 2 ^ 11)
     scales (page m 10 (0x18 * 2 ^ 24 + 0x97))) = bigMem := by
  decide +kernel

/-- A launch in ASID 0 with a barrier at level 1 and the OWN and CLU windows of level 1. -/
def aLaunch : Launch :=
  { launchOf 0 1 [] with
    nlev := 1, ord := true, levels := [⟨0, 0, 1, 0, 0⟩, ⟨0, 1, 1, 1, 0⟩], codebase := 0x10000, nitems := 1, delivered := 1, acked := true }

/-- A thread of a little core that runs an item of that launch at level 1. -/
def aThread (tid : Nat) : Thread :=
  let t := Thread.fresh tid false
  let r := { t.r with pc := 0x10000, level := 1 }
  { t with place := .run, launch := some 0, r := r, ex := newChunk r none 1 }

/-- The state with a user thread on little core 0 issuing, beside the supervisor slots. -/
def smallS : State :=
  { bigS with cur := aThread 0, others := bigS.cur :: bigS.others, work := { bigS.work with launches := [aLaunch] } }

/-- Whether an outcome is a next state with a property. -/
def nextIs (o : Host.Outcome State Fault Refusal) (p : State → Bool) : Bool :=
  match o with
  | .next t => p t
  | _ => false

/-- A state with a general register of the issuing thread set. -/
def setG (s : State) (n : Fin 32) (x : Word) : State := s.withCur (s.cur.setR { s.cur.r with g := s.cur.r.g.set n x })
def setV (s : State) (n : Fin 32) (x : Vec) : State := s.withCur (s.cur.setR { s.cur.r with v := s.cur.r.v.set n x })
def setP (s : State) (n : Fin 8) (x : Pred) : State := s.withCur (s.cur.setR { s.cur.r with p := s.cur.r.p.set n x })
def setE (s : State) (n : Fin 8) (x : Word) : State := s.withCur (s.cur.setR { s.cur.r with e := s.cur.r.e.set n x })

/-- The checking scoreboard on, with g1 written late in the present cycle (R159). -/
def checked (s : State) : State :=
  s.withCur ((s.cur.putG s.cycle 4 1 7).setR { (s.cur.putG s.cycle 4 1 7).r with sbchk := true })

/-- The place of a check that passes. -/
def locOf (c : Chk Loc) : Loc :=
  match c with
  | .ok l => l
  | _ => ⟨0, .own 0 0, 0, none, none, 0⟩

/-- GoesAhead as a computation. -/
def goes (s : State) (ls : List (Word × Loc)) (n : Nat) (k : Access) : Bool :=
  ls.all (fun e => !e.2.irrev s && e.2.peer.isNone) && (screen s ls n k).isNone && !s.cur.ex.serial && s.cur.ex.answer.isNone

theorem goesAhead_of {s : State} {ls : List (Word × Loc)} {n : Nat} {k : Access} (h : goes s ls n k = true) :
    GoesAhead s ls n k := by
  simp only [goes, Bool.and_eq_true, List.all_eq_true, Bool.not_eq_true', Option.isNone_iff_eq_none] at h
  exact ⟨fun e he => h.1.1.1 e he, h.1.1.2, h.1.2, h.2⟩

/-- GoesAheadAll, Alone and GoesAlone as computations. -/
def goesAll (s : State) (ps : List Probe) : Bool :=
  ps.all (fun p => !p.loc.irrev s && p.loc.peer.isNone) && (screenAll s ps).isNone && !s.cur.ex.serial && s.cur.ex.answer.isNone
theorem goesAheadAll_of {s : State} {ps : List Probe} (h : goesAll s ps = true) : GoesAheadAll s ps := by
  simp only [goesAll, Bool.and_eq_true, List.all_eq_true, Bool.not_eq_true', Option.isNone_iff_eq_none] at h
  exact ⟨fun e he => h.1.1.1 e he, h.1.1.2, h.1.2, h.2⟩
def isAlone (s : State) : Bool := s.cur.clean && s.cur.ex.task.isNone && !s.cur.ex.serial && decide (s.cur.ex.outside = [])
theorem alone_of {s : State} (h : isAlone s = true) : Alone s := by
  simp only [isAlone, Bool.and_eq_true, Bool.not_eq_true', Option.isNone_iff_eq_none, decide_eq_true_eq] at h
  exact ⟨h.1.1.1, h.1.1.2, h.1.2, h.2⟩
def goesOne (s : State) (ls : List (Word × Loc)) (n : Nat) (k : Access) : Bool :=
  isAlone s && ls.all (fun e => e.2.irrev s && e.2.peer.isNone) && (screen s ls n k).isNone && s.cur.ex.answer.isNone
theorem goesAlone_of {s : State} {ls : List (Word × Loc)} {n : Nat} {k : Access} (h : goesOne s ls n k = true) :
    GoesAlone s ls n k := by
  simp only [goesOne, Bool.and_eq_true, List.all_eq_true, Option.isNone_iff_eq_none] at h
  exact ⟨alone_of h.1.1.1, fun e he => h.1.1.2 e he, h.1.2, h.2⟩

/-- readable, AtBoundary and quietFlags as computations. -/
theorem readable_of {s : State} {l : List Reg}
    (h : (!s.cur.r.sbchk || (firstEarly s.cur.stale s.cycle l).isNone) = true) : s.readable l := by
  simpa [State.readable] using h
theorem boundary_of {s : State} (h : (s.cur.clean && !s.cur.inBody) = true) : AtBoundary s := by
  simp only [Bool.and_eq_true, Bool.not_eq_true'] at h
  exact ⟨h.1, h.2⟩

/-- An access at an address whose checks pass and which goes ahead. -/
def passes (s : State) (va : Word) (n : Nat) (k : Access) : Prop :=
  resolve s s.cur va n k = .ok (locOf (resolve s s.cur va n k)) ∧ GoesAhead s [(va, locOf (resolve s s.cur va n k))] n k
theorem passes_of {s : State} {va : Word} {n : Nat} {k : Access}
    (h : (decide (resolve s s.cur va n k = .ok (locOf (resolve s s.cur va n k))) &&
      goes s [(va, locOf (resolve s s.cur va n k))] n k) = true) : passes s va n k := by
  simp only [Bool.and_eq_true, decide_eq_true_eq] at h
  exact ⟨h.1, goesAhead_of h.2⟩

/-- The same on an irrevocable page, as a chunk of one. -/
def passesAlone (s : State) (va : Word) (n : Nat) (k : Access) : Prop :=
  resolve s s.cur va n k = .ok (locOf (resolve s s.cur va n k)) ∧ GoesAlone s [(va, locOf (resolve s s.cur va n k))] n k
theorem passesAlone_of {s : State} {va : Word} {n : Nat} {k : Access}
    (h : (decide (resolve s s.cur va n k = .ok (locOf (resolve s s.cur va n k))) &&
      goesOne s [(va, locOf (resolve s s.cur va n k))] n k) = true) : passesAlone s va n k := by
  simp only [Bool.and_eq_true, decide_eq_true_eq] at h
  exact ⟨h.1, goesAlone_of h.2⟩

theorem test_small_states : (due bigS).length = 0 ∧ canIssue bigS = true ∧ bigS.mem.wf = true ∧ smallS.mem.wf = true := by
  decide +kernel

/-! Witnesses: for each statement that has hypotheses, states and operands that meet them together, clause by clause, at a
boundary value where the clause has a range. -/

theorem witness_IntegerOperations : bigS.readable [.g 0, .g 31] ∧ (checked bigS).readable [.g 0, .g 2] ∧ bigS.readable [.g 31] ∧
    lowBits true (bigS.rg 31) = 0 ∧
    (let x := lowBits false ((setG bigS 31 (2 ^ 63)).rg 31); x ≠ 0 ∧ x.testBit 63 ∧ ∀ j < 63, x.testBit j = false) := by
  refine ⟨.inl rfl, readable_of ?_, .inl rfl, ?_, ?_⟩ <;> decide +kernel
theorem witness_BitFields : bigS.readable [.g 31, .g 0] ∧ (checked bigS).readable [.g 2, .g 3, .g 31] :=
  ⟨.inl rfl, readable_of (by decide +kernel)⟩
theorem witness_SelectionsAndConstants : bigS.readable [.p 7, .g 0, .g 31] ∧ bigS.readable [.g 0, .g 31] ∧
    (checked bigS).readable [.g 31] := ⟨.inl rfl, .inl rfl, readable_of (by decide +kernel)⟩
theorem witness_ShortForms : bigS.readable [.g (Fin.ofNat 32 (8 + 0)), .g (Fin.ofNat 32 (8 + 7))] ∧
    (checked bigS).readable [.g (Fin.ofNat 32 (8 + 7))] := ⟨.inl rfl, readable_of (by decide +kernel)⟩
theorem witness_ComparesAndPredicates : bigS.readable [.g 0, .g 31] ∧ bigS.readable [.p 0, .p 7] ∧ bigS.readable [.p 7] ∧
    (checked bigS).readable [.g 31] := ⟨.inl rfl, .inl rfl, .inl rfl, readable_of (by decide +kernel)⟩
theorem witness_ExtensionsAndHints : bigS.readable [.g 31] ∧ (checked bigS).readable [.e 7] :=
  ⟨.inl rfl, readable_of (by decide +kernel)⟩
theorem witness_ControlTransfers : bigS.readable [.g 0, .g 31] ∧ bigS.readable [.p 7] ∧
    bigS.readable [.g (Fin.ofNat 32 (8 + 7))] ∧ (checked bigS).readable [.g 31] ∧
    ((setG bigS 31 0xFFFFFFFFFFFFFFFF).rg 31 + BitVec.ofInt 64 (-2047)).getLsbD 0 = false ∧
    ((setG bigS 31 0xFFFFFFFFFFFFFFFE).rg 31).getLsbD 0 = false := by
  refine ⟨.inl rfl, .inl rfl, .inl rfl, readable_of ?_, ?_, ?_⟩ <;> decide +kernel

/-- Two operands in g1 and g2 with every exception enabled (FMODE.en, R106). -/
def operands (s : State) (x y : Word) : State :=
  let s := setG (setG s 1 x) 2 y
  s.withCur (s.cur.setR { s.cur.r with fmode := 0xFC0 })

theorem witness_ScalarFloats :
    (let s := operands smallS 0x3F800000 0x40000000
     let dr := drawFor s.cur.r.fmode s.cur.r.srseed
     let A := (s.rg 1).toNat
     let B := (s.rg 2).toNat
     let m := s.cur.r.fmode
     s.readable [.g 1, .g 2] ∧ s.readable [.g 1] ∧ s.readable [.g 1, .g 2, .g 2] ∧ enOf m ≠ 0 ∧
     quietFlags s [(fAdd .f32 m dr.1 A B).2] ∧ quietFlags s [(fSub .f32 m dr.1 A B).2] ∧
     quietFlags s [(fMul .f32 m dr.1 A B).2] ∧ quietFlags s [(fMinMax false .f32 m A B).2] ∧
     quietFlags s [(fMinMax true .f32 m A B).2] ∧ quietFlags s [(fCmp .f32 m A B).2] ∧
     quietFlags s [(fConvert 2 0 m dr.1 A).2] ∧ quietFlags s [(fFma .f32 m dr.1 A B B).2]) ∧
    fopType 2 = true ∧ fopType 4 = true ∧ (31 : Fin 32) ≠ 0 ∧
    (∀ f m, quietFlags bigS [(fRefine (fmtOf 2) f m 0 0).2]) ∧ (∀ m, quietFlags bigS [(rcpFn 0 (fmtOf 2) m 0).2]) := by
  refine ⟨⟨.inl rfl, .inl rfl, .inl rfl, ?_, ?_, ?_, ?_, ?_, ?_, ?_, ?_, ?_⟩, ?_, ?_, ?_, fun _ _ => ?_, fun _ => ?_⟩
  all_goals first | (unfold quietFlags; decide +kernel) | decide +kernel | exact BitVec.and_zero

theorem witness_EnabledFlagTraps :
    (let s := operands bigS 0x7F800000 0xFF800000
     let t := operands bigS 0x7F800000 0
     let u := operands bigS 0x7FA00000 0
     let m := s.cur.r.fmode
     let dr := drawFor m s.cur.r.srseed
     AtBoundary s ∧ s.readable [.g 1, .g 2] ∧
     (fAdd (fmtOf 2) m dr.1 (s.rg 1).toNat (s.rg 2).toNat).2 &&& enOf m ≠ 0 ∧
     (fSub (fmtOf 2) m dr.1 (s.rg 1).toNat (s.rg 1).toNat).2 &&& enOf m ≠ 0 ∧
     (fMul (fmtOf 2) m dr.1 (t.rg 1).toNat (t.rg 2).toNat).2 &&& enOf m ≠ 0 ∧
     (fCmp (fmtOf 2) m (u.rg 1).toNat (u.rg 2).toNat).2 &&& enOf m ≠ 0) := by
  refine ⟨boundary_of ?_, .inl rfl, ?_, ?_, ?_, ?_⟩ <;> decide +kernel

theorem witness_HeavyInstructions : isBig bigS.cur.tid = true ∧ bigS.readable [.g 0, .g 31] ∧ bigS.readable [.g 31] ∧
    bigS.readable [.g 1, .g 2, .g 31] ∧ (∀ f, quietFlags bigS [f]) ∧
    isBig smallS.cur.tid = false ∧ (smallS.withCur { smallS.cur with slots := 3 }).cur.slots < 4 ∧
    coreSlots (smallS.withCur { smallS.cur with slots := 3 }) (coreOf smallS.cur.tid) < 16 ∧
    smallS.readable [.g 0, .g 31] := by
  refine ⟨?_, .inl rfl, .inl rfl, .inl rfl, fun f => BitVec.and_zero, ?_, ?_, ?_, .inl rfl⟩ <;> decide +kernel
theorem witness_VectorResults : smallS.readable ([.v 0, .v 31] ++ [.v 1] ++ [.p (guardReg 3)]) ∧
    smallS.readable ([.g 31] ++ [.v 0] ++ [.p (guardReg 0)]) ∧ (∀ l, quietFlags smallS l) ∧ (2 : Fin 8) ≠ 5 ∧
    isBig bigS.cur.tid = true ∧ isBig smallS.cur.tid = false ∧
    slotFree (smallS.withCur { smallS.cur with slots := 3 }) { smallS.cur with slots := 3 } = true :=
  ⟨.inl rfl, .inl rfl, fun _ => BitVec.and_zero, by decide, by decide +kernel, by decide +kernel, by decide +kernel⟩
theorem witness_IntegerElements : laneInt 7 = true ∧ smallS.readable ([.v 0, .v 31] ++ (if (3 : Fin 4) = 0 then [] else [.v 31]) ++
    [.p (guardReg 3)]) := ⟨by decide, .inl rfl⟩

theorem witness_ScalarAccesses : smallS.readable [.g 31] ∧ smallS.readable [.g 31, .g 0] ∧
    (∀ w : Fin 4, passes (setG smallS 31 0x1FFF8) (0x1FFF8 + BitVec.ofInt 64 (2 ^ w.val * 0)) (2 ^ w.val) .read) ∧
    (∀ w : Fin 4, passes (setG smallS 31 0x20000) (0x20000 + BitVec.ofInt 64 (2 ^ w.val * -1)) (2 ^ w.val) .write) ∧
    passes (setG smallS 9 0x1FF00) ((setG smallS 9 0x1FF00).rg (Fin.ofNat 32 (8 + 1)) + BitVec.ofNat 64 (8 * 31)) 8 .read ∧
    passes (setG smallS 9 0x1FF00) ((setG smallS 9 0x1FF00).rg (Fin.ofNat 32 (8 + 1)) + BitVec.ofNat 64 (8 * 31)) 8 .write ∧
    (∀ w : Fin 4, ∀ k ∈ [Access.read, .write], passesAlone smallS (0xAFFF8 + BitVec.ofInt 64 (2 ^ w.val * 0)) (2 ^ w.val) k) ∧
    (Alone smallS ∧ smallS.cur.ex.answer = none ∧ ∀ w : Fin 4, ∀ k ∈ [Access.read, .write],
      let l := locOf (resolve smallS smallS.cur 0x5FFF8 (2 ^ w.val) k)
      l.irrev smallS = true ∧ l.peer = some (1, 0xFFF8) ∧ resolve smallS smallS.cur 0x5FFF8 (2 ^ w.val) k = .ok l ∧
      (screen smallS [(0x5FFF8, l)] (2 ^ w.val) k).isNone) := by
  refine ⟨.inl rfl, .inl rfl, fun w => passes_of ?_, fun w => passes_of ?_, passes_of ?_, passes_of ?_,
    fun w k hk => ?_, alone_of ?_, ?_, ?_⟩
  case refine_5 => simp only [List.mem_cons, List.not_mem_nil, or_false] at hk; rcases hk with rfl | rfl <;>
    (refine passesAlone_of ?_; revert w; decide +kernel)
  · revert w; decide +kernel
  · revert w; decide +kernel
  all_goals decide +kernel

theorem witness_AlignmentTraps : AtBoundary smallS ∧ smallS.readable [.g 31] ∧ smallS.readable [.g 31, .g 0] ∧
    (∀ w : Fin 4, w ≠ 0 → ((setG smallS 31 (BitVec.ofNat 64 (2 ^ w.val - 1))).rg 31 + BitVec.ofInt 64 (2 ^ w.val * (511 : Int))).toNat %
      2 ^ w.val ≠ 0) ∧
    ((setG smallS 31 2047).rg 31 + BitVec.ofInt 64 (-2048)).getLsbD 0 = true ∧
    ((setG smallS 31 (-1)).rg 31).getLsbD 0 = true := by
  refine ⟨boundary_of ?_, .inl rfl, .inl rfl, ?_, ?_, ?_⟩ <;> decide +kernel

/-- Places of the lanes of a vector access, all of which pass. -/
def lanesPass (s : State) (on : List Nat) (at' : Nat → Word) (k : Access) : Bool :=
  on.all (fun j => decide (resolve s s.cur (at' j) 4 k = .ok (locOf (resolve s s.cur (at' j) 4 k)))) &&
  goes s (on.map (fun j => (at' j, locOf (resolve s s.cur (at' j) 4 k)))) 4 k
theorem lanesPass_of {s : State} {on : List Nat} {at' : Nat → Word} {k : Access} (h : lanesPass s on at' k = true) :
    ∃ pl : Nat → Loc, (∀ j ∈ on, resolve s s.cur (at' j) 4 k = .ok (pl j)) ∧
      GoesAhead s (on.map (fun j => (at' j, pl j))) 4 k := by
  simp only [lanesPass, Bool.and_eq_true, List.all_eq_true, decide_eq_true_eq] at h
  exact ⟨fun j => locOf (resolve s s.cur (at' j) 4 k), h.1, goesAhead_of h.2⟩

/-- The same on an irrevocable page, one lane after another. -/
def lanesAlone (s : State) (on : List Nat) (at' : Nat → Word) (k : Access) : Bool :=
  on.all (fun j => decide (resolve s s.cur (at' j) 4 k = .ok (locOf (resolve s s.cur (at' j) 4 k)))) &&
  goesOne s (on.map (fun j => (at' j, locOf (resolve s s.cur (at' j) 4 k)))) 4 k
theorem lanesAlone_of {s : State} {on : List Nat} {at' : Nat → Word} {k : Access} (h : lanesAlone s on at' k = true) :
    ∃ pl : Nat → Loc, (∀ j ∈ on, resolve s s.cur (at' j) 4 k = .ok (pl j)) ∧
      GoesAlone s (on.map (fun j => (at' j, pl j))) 4 k := by
  simp only [lanesAlone, Bool.and_eq_true, List.all_eq_true, decide_eq_true_eq] at h
  exact ⟨fun j => locOf (resolve s s.cur (at' j) 4 k), h.1, goesAlone_of h.2⟩

/-- A state whose strides and indices of four bytes start on the irrevocable page, with lanes already read. -/
def laneS (l : List Nat) : State :=
  let s := setV (setG (setG smallS 1 0xAFFC0) 2 4) 3 (BitVec.ofNat 512 (sumOf ((List.range 16).map (fun j =>
    4 * j * 2 ^ (32 * j)))))
  s.withCur { s.cur with ex := { s.cur.ex with lanes := l } }
theorem witness_VectorAccesses_alone :
    (∀ k ∈ [Access.read, .write], passesAlone smallS (0xAFFC0 + BitVec.ofInt 64 (64 * 0)) 64 k) ∧
    (let s := laneS []
     let on := (List.range 16).filter (fun j => (s.rp (guardReg 0)).getLsbD j)
     on ≠ [] ∧ s.readable ([.g 1, .g 2] ++ [.v 4] ++ [.p (guardReg 0)]) ∧
     (∃ pl : Nat → Loc, (∀ j ∈ on, resolve s s.cur (s.rg 1 + BitVec.ofNat 64 j * s.rg 2) 4 .write = .ok (pl j)) ∧
       GoesAlone s (on.map (fun j => (s.rg 1 + BitVec.ofNat 64 j * s.rg 2, pl j))) 4 .write) ∧
     ∃ pl : Nat → Loc, (∀ j ∈ on, resolve s s.cur (s.rg 1 + (BitVec.ofNat 32 (lane 32 (s.rv 3) j)).signExtend 64) 4 .write =
         .ok (pl j)) ∧
       GoesAlone s (on.map (fun j => (s.rg 1 + (BitVec.ofNat 32 (lane 32 (s.rv 3) j)).signExtend 64, pl j))) 4 .write) ∧
    (∀ l ∈ [[], List.replicate 15 7],
      let s := laneS l
      let on := (List.range 16).filter (fun j => (s.rp (guardReg 0)).getLsbD j)
      on[s.cur.ex.lanes.length]?.isSome ∧
      (∃ pl : Nat → Loc, (∀ j ∈ on, resolve s s.cur (s.rg 1 + BitVec.ofNat 64 j * s.rg 2) 4 .read = .ok (pl j)) ∧
        GoesAlone s (on.map (fun j => (s.rg 1 + BitVec.ofNat 64 j * s.rg 2, pl j))) 4 .read) ∧
      ∃ pl : Nat → Loc, (∀ j ∈ on, resolve s s.cur (s.rg 1 + (BitVec.ofNat 32 (lane 32 (s.rv 3) j)).signExtend 64) 4 .read =
          .ok (pl j)) ∧
        GoesAlone s (on.map (fun j => (s.rg 1 + (BitVec.ofNat 32 (lane 32 (s.rv 3) j)).signExtend 64, pl j))) 4 .read) ∧
    (List.range 16).filter (fun j => (smallS.rp (guardReg 1)).getLsbD j) = [] ∧
    smallS.readable ([.g 1] ++ [.v 4] ++ [.p (guardReg 1)]) ∧ (smallS.rg 1 + BitVec.ofInt 64 (64 * -128)).toNat % 64 = 0 := by
  refine ⟨fun k hk => ?_, ⟨by decide +kernel, .inl rfl, lanesAlone_of (by decide +kernel), lanesAlone_of (by decide +kernel)⟩,
    fun l hl => ?_, by decide +kernel, .inl rfl, by decide +kernel⟩
  · simp only [List.mem_cons, List.not_mem_nil, or_false] at hk
    rcases hk with rfl | rfl <;> exact passesAlone_of (by decide +kernel)
  · simp only [List.mem_cons, List.not_mem_nil, or_false] at hl
    rcases hl with rfl | rfl <;>
      exact ⟨by decide +kernel, lanesAlone_of (by decide +kernel), lanesAlone_of (by decide +kernel)⟩

theorem witness_VectorAccesses :
    (let s := setV (setG (setG smallS 1 0x1FFC0) 2 (-4)) 3 (BitVec.ofNat 512 (sumOf ((List.range 16).map (fun j =>
      (2 ^ 32 - 4 * j) % 2 ^ 32 * 2 ^ (32 * j)))))
     let on := (List.range 16).filter (fun j => (s.rp (guardReg 0)).getLsbD j)
     s.readable ([.g 1] ++ [.v 4] ++ [.p (guardReg 3)]) ∧ s.readable ([.g 1, .v 3] ++ [.v 4] ++ [.p (guardReg 0)]) ∧
     on.length = 16 ∧
     (∀ k ∈ [Access.read, .write], passes s (s.rg 1 + BitVec.ofInt 64 (64 * -128)) 64 k ∧
       (∃ pl : Nat → Loc, (∀ j ∈ on, resolve s s.cur (s.rg 1 + BitVec.ofNat 64 j * s.rg 2) 4 k = .ok (pl j)) ∧
         GoesAhead s (on.map (fun j => (s.rg 1 + BitVec.ofNat 64 j * s.rg 2, pl j))) 4 k) ∧
       ∃ pl : Nat → Loc, (∀ j ∈ on, resolve s s.cur (s.rg 1 + (BitVec.ofNat 32 (lane 32 (s.rv 3) j)).signExtend 64) 4 k =
           .ok (pl j)) ∧
         GoesAhead s (on.map (fun j => (s.rg 1 + (BitVec.ofNat 32 (lane 32 (s.rv 3) j)).signExtend 64, pl j))) 4 k)) := by
  refine ⟨.inl rfl, .inl rfl, by decide +kernel, fun k hk => ?_⟩
  simp only [List.mem_cons, List.not_mem_nil, or_false] at hk
  rcases hk with rfl | rfl <;>
    exact ⟨passes_of (by decide +kernel), lanesPass_of (by decide +kernel), lanesPass_of (by decide +kernel)⟩

/-- The page of a check that passes. -/
def leafIn (c : Chk (Loc × Leaf)) : Loc × Leaf :=
  match c with
  | .ok p => p
  | _ => (locOf (.nomem 0), leafOf 0 false)
def placesIn (c : Chk (List (Word × Loc))) : List (Word × Loc) :=
  match c with
  | .ok p => p
  | _ => []

/-- The checks of a format-aware access of a lane type on a page. -/
def taggedPasses (s : State) (va : Word) (k : Access) (t : Nat) (g : Fin 4) : Bool :=
  let p := leafIn (taggedPlace s va k t)
  let on := elemsOn t (s.rp (guardReg g))
  let ls := placesIn (resolveAll s 1 .read (scaleAddrs va p.2 on))
  decide (on ≠ []) && decide (taggedPlace s va k t = .ok p) && decide (resolveAll s 1 .read (scaleAddrs va p.2 on) = .ok ls) &&
  goesAll s (taggedProbes k (tagSpan t p.2.fmt) (tagBits p.2.fmt) on (spanPlaces s va k p.1 (tagSpan t p.2.fmt)) ls)
theorem taggedPasses_of {s : State} {va : Word} {k : Access} {t : Nat} {g : Fin 4} (h : taggedPasses s va k t g = true) :
    ∃ l f ls, elemsOn t (s.rp (guardReg g)) ≠ [] ∧ taggedPlace s va k t = .ok (l, f) ∧
      resolveAll s 1 .read (scaleAddrs va f (elemsOn t (s.rp (guardReg g)))) = .ok ls ∧
      GoesAheadAll s (taggedProbes k (tagSpan t f.fmt) (tagBits f.fmt) (elemsOn t (s.rp (guardReg g)))
        (spanPlaces s va k l (tagSpan t f.fmt)) ls) := by
  simp only [taggedPasses, Bool.and_eq_true, decide_eq_true_eq] at h
  exact ⟨_, _, _, h.1.1.1, h.1.1.2, h.1.2, goesAheadAll_of h.2⟩

/-- A state with a page of f64 codes at 0x90000, where 16 f16 lanes span 256 bytes. -/
def wideTag : State := { smallS with mem := page bigMem 9 (0x19 * 2 ^ 24 + 0x17 + 12 * 2 ^ 11) }
theorem witness_FormatAccesses : (∀ k ∈ [Access.read, .write], taggedPasses smallS 0x20000 k 2 0 = true ∧
      taggedPasses smallS 0x2FFC0 k 5 0 = true ∧ taggedPasses wideTag 0x9FF00 k 3 0 = true) ∧
    smallS.readable ([.g 1] ++ [.v 1] ++ [.p (guardReg 0)]) ∧ (∀ l, quietFlags smallS l) ∧
    elemsOn 2 (smallS.rp (guardReg 1)) = [] ∧ isBig smallS.cur.tid = false ∧ slotFree smallS smallS.cur = true := by
  refine ⟨?_, .inl rfl, fun _ => BitVec.and_zero, ?_, ?_, ?_⟩ <;> decide +kernel

/-- A copy descriptor: 128 bytes in two rows from VA 0x10000 to the last two lines of the page. -/
def copyS : State := setE (setE (setE (setE smallS 0 0x10000) 1 0x1FF00) 2 (2 ^ 32 + 128)) 3 (2 ^ 39 + 128)
def copyOf (s : State) (fill : Bool) : CopyCmd :=
  { tid := s.cur.tid, asid := s.cur.asid, seq := s.cur.r.copySeq + 1, fill := fill, src := s.re 0, dst := s.re 1,
    len := (s.re 2).toNat % 2 ^ 32, rows := (s.re 2).toNat / 2 ^ 32 % 2 ^ 16 + 1,
    sstride := BitVec.ofNat 64 ((s.re 3).toNat % 2 ^ 32), dstride := BitVec.ofNat 64 ((s.re 3).toNat / 2 ^ 32 % 2 ^ 32),
    pc := s.cur.r.pc, launch := s.cur.launch, cv := 0, v := 0 }
theorem witness_CopyInstructions : copyS.readable [.e 0, .e 1, .e 2, .e 3] ∧ copyS.readable [.g 31] ∧
    (∀ fill : Bool, checkRows copyS (copyOf copyS fill) (copyOf copyS fill).rows (copyOf copyS fill).src
      (copyOf copyS fill).dst = .ok ()) ∧ copyS.cur.irrev = false ∧ (copyS.cur.ex.hands.filter Hand.counted).length < 8 ∧
    (let s := setG smallS 31 (-1)
     s.cur.ex.hands.any (Hand.copyUpTo (min (s.rg 31).toNat s.cur.r.copySeq)) = false ∧
     min (s.rg 31).toNat s.cur.r.copySeq ≤ s.cur.copyDone) := by
  refine ⟨.inl rfl, .inl rfl, ?_, ?_, ?_, ?_⟩ <;> decide +kernel

/-- An atomic place that passes its checks at a spot. -/
def atomIs (s : State) (va : Word) (n : Nat) (k : Atom) (p : Spot) : Bool :=
  decide (atomPlace s va n k = .ok (locOf (resolve s s.cur va n .rmw), p)) &&
  goes s [(va, locOf (resolve s s.cur va n .rmw))] n .rmw
/-- One that is a chunk of one, on a coherent host page. -/
def cxlS : State := { smallS with links := { smallS.links with cxl := true } }
/-- A core that holds a record without a parked thread that is not posted. -/
def recS : State :=
  let r := { recordOf smallS smallS.cur cHAOP 0x10000 7 0 with nopark := true }
  { smallS with tails := [(0, { smallS.tail 0 with waitR := [r] })] }
def atomOne (s : State) (va : Word) (n : Nat) (k : Atom) : Bool :=
  decide (atomPlace s va n k = .ok (locOf (resolve s s.cur va n .rmw), .one)) &&
  (locOf (resolve s s.cur va n .rmw)).peer.isNone && (screen s [(va, locOf (resolve s s.cur va n .rmw))] n .rmw).isNone
theorem witness_Atomics : AtBoundary smallS ∧ smallS.readable [.g 1, .g 2] ∧ smallS.readable [.g 1, .g 2, .g 3] ∧
    (∀ o : Fin 8, atomIs smallS 0x1FFFC 4 (.amo o.val) .here = true ∧ atomIs smallS 0x1FFF8 8 (.amo o.val) .here = true) ∧
    atomIs smallS 0x1FFF8 8 .cas .here = true ∧
    (∀ o : Fin 8, o = 0 ∨ o = 1 → atomPlace smallS 0x4FFFC 4 (.amo o.val) =
      .ok (locOf (resolve smallS smallS.cur 0x4FFFC 4 .rmw), .host)) ∧
    atomPlace smallS 0x40000 8 .cas = .ok (locOf (resolve smallS smallS.cur 0x40000 8 .rmw), .host) ∧
    smallS.cur.ex.answer = none ∧ smallS.cur.ex.serial = false ∧
    (∀ n : Nat, (smallS.withCur { smallS.cur with ex := { smallS.cur.ex with answer := some (n, 0) } }).cur.ex.answer = some (n, 0)) ∧
    Alone cxlS ∧ (∀ o : Fin 8, atomOne cxlS 0x4FFFC 4 (.amo o.val) = true) ∧ atomOne cxlS 0x4FFF8 8 .cas = true ∧
    (locOf (resolve smallS smallS.cur 0x40000 8 .rmw)).peer = none := by
  refine ⟨boundary_of ?_, .inl rfl, .inl rfl, ?_, ?_, ?_, ?_, ?_, ?_, fun _ => rfl, alone_of ?_, ?_, ?_, ?_⟩ <;> decide +kernel
/-- One that the host performs. -/
def hostIs (s : State) (va : Word) (n : Nat) (k : Atom) : Bool :=
  decide (atomPlace s va n k = .ok (locOf (resolve s s.cur va n .rmw), .host)) &&
  (screen s [(va, locOf (resolve s s.cur va n .rmw))] n .rmw).isNone
theorem witness_Atomics_host :
    (screen smallS [(0x4FFFC, locOf (resolve smallS smallS.cur 0x4FFFC 4 .rmw))] 4 .rmw).isNone ∧
    Alone smallS ∧ coreHolds smallS (coreOf smallS.cur.tid) = false ∧ coreHolds recS (coreOf recS.cur.tid) = true ∧
    AtBoundary recS ∧ hostIs recS 0x40000 8 .cas = true ∧ recS.cur.ex.answer = none := by
  refine ⟨?_, alone_of ?_, ?_, ?_, boundary_of ?_, ?_, ?_⟩ <;> decide +kernel

/-- A 128-bit atomic of a big core whose place passes its checks, and one of a little core whose own checks pass. -/
def wideIs (s : State) (va : Word) (k : Atom) (p : Spot) : Bool :=
  let l := locOf (resolve s s.cur va 16 .rmw)
  decide (atomPlace s va 16 k = .ok (l, p)) && l.peer.isNone && (holdOf s [⟨va, l, 16, .rmw⟩]).isNone
def sentOn (s : State) (va : Word) (k : Atom) : Bool :=
  match atomPlace s va 16 k with
  | .trap c _ w => !senderCheck c w
  | _ => true
theorem sentOn_of {s : State} {va : Word} {k : Atom} (h : sentOn s va k = true) (c : Nat) (v w : Word)
    (e : atomPlace s va 16 k = .trap c v w) : senderCheck c w = false := by
  simpa [sentOn, e] using h
theorem witness_WideAtomics : Alone bigS ∧ isBig bigS.cur.tid = true ∧
    wideIs bigS 0x1FFF0 .wide .here = true ∧ wideIs bigS 0x1FFF0 .wideCas .here = true ∧
    wideIs bigS 0x40000 .wideCas .host = true ∧
    (let s := bigS.withCur { bigS.cur with ex := { bigS.cur.ex with answer := some (0, 0), lanes := [5] } }
     s.cur.ex.lanes ≠ [] ∧ s.cur.ex.answer = some (0, 0) ∧ Alone s ∧ wideIs s 0x40000 .wideCas .host = true) ∧
    bigS.readable [.g 1, .g (evenReg 15), .g (oddReg 15), .g (evenReg 0), .g (oddReg 0)] ∧
    Alone smallS ∧ isBig smallS.cur.tid = false ∧ slotFree smallS smallS.cur = true ∧
    sentOn smallS 0x1FFF0 .wide = true ∧ sentOn smallS 0x80000 .wideCas = true := by
  refine ⟨alone_of ?_, ?_, ?_, ?_, ?_, ⟨?_, ?_, alone_of ?_, ?_⟩, .inl rfl, alone_of ?_, ?_, ?_, ?_, ?_⟩ <;> decide +kernel

/-- Sixteen 32-bit indices 4 j. -/
def strided4 : Vec := BitVec.ofNat 512 (sumOf ((List.range 16).map (fun j => 4 * j * 2 ^ (32 * j))))

/-- A reduction whose place passes its checks at a spot, and which nothing holds back. -/
def redIs (s : State) (va : Word) (n : Nat) (k : Atom) (p : Spot) : Bool :=
  decide (atomPlace s va n k = .ok (locOf (resolve s s.cur va n .rmw), p)) &&
  (screen s [(va, locOf (resolve s s.cur va n .rmw))] n .reduce).isNone && !s.cur.ex.serial
theorem witness_Reductions_outside : (∀ n ∈ [4, 8], redIs smallS 0x40000 n (.red 0 n) .host = true ∧
      (∀ o : Fin 8, redIs smallS 0x5FFF8 n (.red o.val n) .peer = true) ∧ redIs smallS 0x5FFF8 n .redf .peer = true ∧
      redIs smallS 0x1FFF8 n .redf .here = true ∧ redIs smallS 0x1FFF8 n (.red 7 n) .here = true) := by decide +kernel
theorem witness_Reductions : smallS.readable [.g 1, .g 2] ∧
    (∀ o : Fin 8, atomIs smallS 0x1FFFC 4 (.red o.val 4) .here = true ∧ atomIs smallS 0x1FFF8 8 (.red o.val 8) .here = true) ∧
    atomIs smallS 0x1FFFC 4 .redf .here = true ∧ atomIs smallS 0x1FFF8 8 .redf .here = true ∧
    (let s := setV (setG smallS 1 0x1FFC0) 3 strided4
     let on := (List.range 16).filter (fun j => (s.rp (guardReg 0)).getLsbD j)
     let place (j : Nat) : Word := s.rg 1 + (BitVec.ofNat 32 (lane 32 (s.rv 3) j)).signExtend 64
     s.readable [.g 1, .v 2, .v 3, .p (guardReg 0)] ∧ on.length = 16 ∧
     (∀ j ∈ on, atomPlace s (place j) 4 .vred = .ok (locOf (resolve s s.cur (place j) 4 .rmw), .here)) ∧
     (screen s (on.map (fun j => (place j, locOf (resolve s s.cur (place j) 4 .rmw)))) 4 .reduce).isNone) ∧
    (let s := setV (setG smallS 1 0x5FFC0) 3 strided4
     let on := (List.range 16).filter (fun j => (s.rp (guardReg 0)).getLsbD j)
     let place (j : Nat) : Word := s.rg 1 + (BitVec.ofNat 32 (lane 32 (s.rv 3) j)).signExtend 64
     (∀ j ∈ on, atomPlace s (place j) 4 .vred = .ok (locOf (resolve s s.cur (place j) 4 .rmw), .peer)) ∧
     (screen s (on.map (fun j => (place j, locOf (resolve s s.cur (place j) 4 .rmw)))) 4 .reduce).isNone) := by
  refine ⟨.inl rfl, ?_, ?_, ?_, ⟨.inl rfl, ?_, ?_, ?_⟩, ?_, ?_⟩ <;> decide +kernel

/-- A binning descriptor: two cells of 4 slots of 4 bytes; lane 0 names cell 1, every other lane a cell out of range. -/
def binS : State :=
  let s := setE (setE (setE (setE smallS 0 0x10000) 1 0x10100) 2 (2 * 2 ^ 32 + 4)) 3 0x1FFF8
  setV s 3 (BitVec.ofNat 512 (2 ^ 512 - 2 ^ 32 + 1))
/-- The answer of the checks of an append. -/
def binsIn (c : Chk (List (Nat × Option (Word × Loc)))) : List (Nat × Option (Word × Loc)) :=
  match c with
  | .ok p => p
  | _ => []
theorem witness_Appends : binS.readable [.v 1, .v 3, .p (guardReg 0), .e 0, .e 1, .e 2, .e 3] ∧
    (let on := (List.range 16).filter (fun j => (binS.rp (guardReg 0)).getLsbD j)
     let c := binPlaces binS 4 2 4 0x10000 0x10100 (on.map (fun j => (j, lane 32 (binS.rv 3) j)))
     let o := locOf (resolve binS binS.cur 0x1FFF8 8 .rmw)
     on ≠ [] ∧ c = .ok (binsIn c) ∧ ((binsIn c).filterMap Prod.snd).length = 1 ∧
     atomPlace binS (binS.re 3) 8 .vbina = .ok (o, .here) ∧ rangeStall binS (binS.re 3) 8 true = false ∧
     (∀ e ∈ binsIn c, e.2.isSome →
       rangeStall binS (binS.re 1 + BitVec.ofNat 64 (lane 32 (binS.rv 3) e.1 * 4 * 4)) (4 * 4) true = false) ∧
     binS.cur.ex.serial = false ∧ (holdOf binS (binProbes (binsIn c) (binS.re 3) o)).isNone) ∧
    (List.range 16).filter (fun j => ((setP binS 1 0).rp (guardReg 1)).getLsbD j) = [] := by
  refine ⟨.inl rfl, ⟨?_, ?_, ?_, ?_, ?_, ?_, ?_, ?_⟩, ?_⟩ <;> decide +kernel

theorem witness_BufferedEffectsApply : Memory.wf smallS.mem = true ∧
    (let s : State := { smallS with mem := Memory.setNum smallS.mem 0x140000 4 3 }
     let u : State := { s with mem := Memory.setNum s.mem 0x140000 4 4 }
     let l := locOf (resolve u (aThread 0) (0x1FFF0 + BitVec.ofNat 64 (3 * 4)) 1 .write)
     Memory.wf s.mem = true ∧ Memory.num s.mem 0x140000 4 = 3 ∧
     resolve u (aThread 0) (0x1FFF0 + BitVec.ofNat 64 (3 * 4)) 1 .write = .ok l ∧
     (l.key + 4 ≤ 0x140000 ∨ 0x140000 + 4 ≤ l.key) ∧ 3 ≤ Memory.num s.mem 0x140000 4 ∧
     (0x140000 - 8) + 8 ≤ 0x140000) := by decide +kernel

/-- Descriptors of the smallest jobs: A 16 by 32, B 32 by 16, of s8 at 0x60000, C at 0x60000 or an accumulator tile at
0x70000, the table at 0x10000. -/
def jobS (s : State) (fc dm a b c ldc : Nat) : State :=
  let s := setE (setE (setE s 0 (BitVec.ofNat 64 a)) 1 (BitVec.ofNat 64 b)) 2 (BitVec.ofNat 64 c)
  let s := setE s 3 (BitVec.ofNat 64 (3 * 2 ^ 22 + 2 * 2 ^ 26 + 2 * 2 ^ 30 + fc * 2 ^ 34 + dm * 2 ^ 38))
  setE (setE (setE s 4 (BitVec.ofNat 64 ((if a = 0x70000 then 192 else 64) + 64 * 2 ^ 32))) 5 (BitVec.ofNat 64 ldc)) 6 0x10000
/-- The checks of a job pass on its registers and its memory, none of which is held back. -/
def jobPasses (s : State) (j : Job) : Bool :=
  (regFault s j (descOf s)).isNone &&
  (match jobMem s j (descOf s) with
    | .ok m => (holdOf s (jobProbes j m)).isNone
    | _ => false)
theorem jobPasses_of {s : State} {j : Job} (h : jobPasses s j = true) : ∃ mem, regFault s j (descOf s) = none ∧
    jobMem s j (descOf s) = .ok mem ∧ holdOf s (jobProbes j mem) = none := by
  unfold jobPasses at h
  simp only [Bool.and_eq_true, Option.isNone_iff_eq_none] at h
  obtain ⟨h1, h2⟩ := h
  split at h2
  · next m hm => exact ⟨m, h1, hm, by simpa using h2⟩
  · exact absurd h2 (by simp)
def mulS (s : State) : State := jobS s 13 0 0x60000 0x61000 0x70000 192
theorem test_job_mma : jobPasses (mulS bigS) .mma = true := by decide +kernel
theorem test_job_mmaz : jobPasses (mulS bigS) .mmaz = true := by decide +kernel
theorem test_job_mdrn : jobPasses (jobS bigS 2 1 0x70000 0x61000 0x60000 64) .mdrn = true := by decide +kernel
theorem test_job_mtrn : jobPasses (jobS bigS 2 1 0x60000 0x61000 0x62000 64) .mtrn = true := by decide +kernel
theorem test_job_mrsum : jobPasses (jobS bigS 2 1 0x60000 0x61000 0x62000 64) .mrsum = true := by decide +kernel
theorem witness_MatrixJobs : Alone (mulS bigS) ∧ isBig (mulS bigS).cur.tid = true ∧
    (mulS bigS).readable [.e 0, .e 1, .e 2, .e 3, .e 4, .e 5, .e 6, .e 7] ∧ (∀ l, quietFlags (mulS bigS) l) ∧
    (∀ j ∈ [Job.mma, Job.mmaz], ∃ mem, regFault (mulS bigS) j (descOf (mulS bigS)) = none ∧
      jobMem (mulS bigS) j (descOf (mulS bigS)) = .ok mem ∧ holdOf (mulS bigS) (jobProbes j mem) = none) ∧
    Alone (mulS smallS) ∧ isBig (mulS smallS).cur.tid = false ∧ slotFree (mulS smallS) (mulS smallS).cur = true ∧
    regFault (mulS smallS) .mma (descOf (mulS smallS)) = none ∧
    (∀ j ∈ [Job.mdrn, .mtrn, .mrsum], regFault (jobS smallS 2 1 (if j = .mdrn then 0x70000 else 0x60000) 0x61000
      (if j = .mdrn then 0x60000 else 0x62000) 64) j
      (descOf (jobS smallS 2 1 (if j = .mdrn then 0x70000 else 0x60000) 0x61000
        (if j = .mdrn then 0x60000 else 0x62000) 64)) = none) := by
  refine ⟨alone_of (by decide +kernel), by decide +kernel, .inl rfl, fun _ => BitVec.and_zero, fun j hj => ?_,
    alone_of (by decide +kernel), by decide +kernel, by decide +kernel, by decide +kernel, by decide +kernel⟩
  simp only [List.mem_cons, List.not_mem_nil, or_false] at hj
  rcases hj with rfl | rfl
  · exact jobPasses_of test_job_mma
  · exact jobPasses_of test_job_mmaz

theorem witness_OperandTraps : AtBoundary smallS ∧ smallS.readable [.e 0, .e 1, .e 2, .e 3, .e 4, .e 5, .e 6, .e 7] ∧
    regFault smallS .mma (descOf smallS) = some (3, 2) ∧ regFault smallS .mtrn (descOf smallS) = some (3, 2) ∧
    (regFault smallS .mdrn (descOf smallS)).isSome ∧
    (2 : Fin 8).val ≠ smallS.cur.r.level.toNat ∧ (levelOf bigS bigS.cur).bscope = 0 ∧
    smallS.readable [.g 1, .g 2, .g 3, .g 4, .g 5, .g 6, .g 7] ∧
    (smallS.withCur { smallS.cur with gang := some 0 }).cur.gang ≠ none ∧ smallS.cur.gang = none ∧
    (smallS.withCur { smallS.cur with ordered := true }).cur.ordered = true ∧
    (let s := setG (setG smallS 1 0x1FFC0) 2 65537
     s.readable [.g 1, .g 2] ∧ passes s (s.rg 1) 64 .read ∧ s.cur.launch = some 0 ∧ s.launchAt 0 = some aLaunch ∧
     65536 < (s.rg 2).toNat ∧
     chunkNum s (locOf (resolve s s.cur (s.rg 1) 64 .read)) 64 / 2 ^ 32 % 8 < s.cur.r.level.toNat) := by
  refine ⟨boundary_of ?_, .inl rfl, ?_, ?_, ?_, ?_, ?_, .inl rfl, ?_, ?_, ?_, .inl rfl, passes_of ?_, ?_, ?_, ?_, ?_⟩ <;>
    decide +kernel

theorem witness_ChunkInstructions : AtBoundary smallS ∧ writesAcked smallS smallS.cur.tid = true ∧
    writesAcked { smallS with links := { smallS.links with hostWrites := [⟨0, false, 0, 0, []⟩] } } 0 = false ∧
    writesAcked { smallS with links := { smallS.links with hostWrites := [⟨0, true, 0, 0, []⟩] } } 0 = true ∧
    smallS.cur.com.all (fun c => c.task.isNone) = true ∧ smallS.cur.ordered = false ∧
    (smallS.withCur { smallS.cur with ordered := true }).cur.ordered = true := by
  refine ⟨boundary_of ?_, ?_, ?_, ?_, ?_, ?_, ?_⟩ <;> decide +kernel

/-- The state after BARA: the thread has arrived at its barrier, whose phase is open until every slot of the launch does. -/
def arrivedS : State := { smallS with
  cur := { smallS.cur with pending := some (0, 0) }
  work := { smallS.work with barriers :=
    [{ launch := 0, key := barrierKey smallS smallS.cur, phase := 0, parts := some [0, 1], arrived := [0], late := [], v := 0, lateV := 0 }] } }
theorem witness_Barriers : AtBoundary smallS ∧ (1 : Fin 8).val = smallS.cur.r.level.toNat ∧ (levelOf smallS smallS.cur).bscope ≠ 0 ∧
    openPhase smallS smallS.cur = none ∧ smallS.cur.irrev = false ∧ AtBoundary arrivedS ∧
    openPhase arrivedS arrivedS.cur = some (0, 0) ∧ (levelOf arrivedS arrivedS.cur).bscope ≠ 0 ∧
    (let s := smallS.withCur { smallS.cur with irrev := true, ordered := true }
     AtBoundary s ∧ openPhase s s.cur = none ∧ s.cur.irrev = true ∧ (levelOf s s.cur).bscope ≠ 0) ∧
    smallS.thread smallS.cur.tid = some smallS.cur ∧ (arrivedS.withCur (aThread 8)).thread 8 = some (aThread 8) := by
  refine ⟨boundary_of ?_, ?_, ?_, ?_, ?_, boundary_of ?_, ?_, ?_, ⟨boundary_of ?_, ?_, ?_, ?_⟩, ?_, ?_⟩ <;> decide +kernel
/-- R366: an item that the phase does not wait for arrives at the next one, and is released with that. -/
theorem test_late_arrival :
    (let s : State := { smallS with cur := aThread 8, work := { smallS.work with launches :=
       [{ aLaunch with levels := [⟨0, 0, 1, 0, 0⟩, ⟨2, 2, 1, 1, 0⟩] }] } }
     let b : Barrier := { launch := 0, key := barrierKey s s.cur, phase := 0, parts := some [0, 1], arrived := [0], late := [], v := 0, lateV := 0 }
     let u := handOff { s with work := { s.work with barriers := [b] } } s.cur 0 (.arrive true)
     (u.thread 8).map Thread.pending = some (some (0, 1)) ∧ (u.work.barriers[0]?).map (fun b => (b.arrived, b.late)) = some ([0], [8])) := by
  decide +kernel

theorem witness_WatchesAndExchanges :
    (let s := setG smallS 1 0x1FFFF
     let l := locOf (resolve s s.cur (s.rg 1) 1 .read)
     let t : State := { s with weir := { s.weir with touched := [(l.line, 1)] } }
     let u : State := { s with others := List.replicate 1024 { aThread 8 with wait := .waitv l.line l.node 0 9 } }
     AtBoundary s ∧ s.readable [.g 1] ∧ s.cur.ex.answer = none ∧ resolve s s.cur (s.rg 1) 1 .read = .ok l ∧
     (∀ f, l.leaf = some f → f.irrev = false ∧ f.loc = 0) ∧
     (∃ e ∈ t.weir.touched, e.1 = l.line ∧ t.cur.lastOrder < e.2) ∧ watchesAt s l.node < 1024 ∧ 1024 ≤ watchesAt u l.node) ∧
    (let s := setV smallS 1 (BitVec.ofNat 512 (2 ^ 512 - 1))
     s.readable [.v 1, .p (guardReg 0)] ∧ (∀ f, quietFlags s f) ∧ (bigS.cur.ex.answer = none ∧ isBig bigS.cur.tid = true) ∧
     s.cur.r.scxg = 0 ∧ ∀ u ∈ s.others, sameExchange s.cur 1 u = false) ∧
    (∀ r : Nat, (smallS.withCur { smallS.cur with ex := { smallS.cur.ex with answer := some (r, 7) } }).cur.ex.answer = some (r, 7)) ∧
    smallS.weir.touched = [] ∧
    (let me : Thread := { aThread 0 with r := { (aThread 0).r with scxg := 1 } }
     let u : Thread := { aThread 8 with r := { (aThread 8).r with scxg := 1 }, wait := .vscx 2 0 9 0 }
     let s : State := { smallS with cur := me, others := [u] }
     let ended : State := { s with cycle := 4096 }
     (s.others.filter (fun u => sameExchange s.cur 2 u && !scxOver s u)).length + 1 = 2 ∧
     (ended.others.filter (fun u => sameExchange ended.cur 2 u && !scxOver ended u)).length + 1 < 2) := by
  refine ⟨⟨boundary_of ?_, .inl rfl, ?_, ?_, ?_, ?_, ?_, ?_⟩, ⟨.inl rfl, fun _ => BitVec.and_zero, ?_, ?_, ?_⟩, fun _ => rfl,
    rfl, ?_⟩
  case refine_4 =>
    intro f hf
    have : (locOf (resolve (setG smallS 1 0x1FFFF) (setG smallS 1 0x1FFFF).cur ((setG smallS 1 0x1FFFF).rg 1) 1 .read)).leaf =
      some (leafOf (0x13 * 2 ^ 24 + 0x1F) false) := by decide +kernel
    rw [this] at hf
    cases hf
    decide
  all_goals decide +kernel

theorem witness_Spawning :
    (let s := setG (setG { smallS with mem := Memory.setNum smallS.mem 0x13FFC0 8 (2 ^ 32) } 1 0x1FFC0) 2 2
     let l := locOf (resolve s s.cur (s.rg 1) 64 .read)
     let t := s.withCur { s.cur with ordered := true, ts := 0 }
     s.readable [.g 1, .g 2] ∧ passes s (s.rg 1) 64 .read ∧ s.cur.irrev = false ∧
     (s.cur.ex.hands.filter Hand.counted).length < 8 ∧ s.cur.launch = some 0 ∧ s.launchAt 0 = some aLaunch ∧
     0 < (s.rg 2).toNat ∧ (s.rg 2).toNat ≤ 65536 ∧ chunkNum s l 64 / 2 ^ 32 % 8 = 1 ∧ 1 ≤ aLaunch.nlev ∧
     s.cur.r.level.toNat ≤ 1 ∧ (aLaunch.levelAt 0).bscope = 0 ∧ aLaunch.ord = true ∧ s.cur.ordered = false ∧
     t.cur.ts.toNat ≤ chunkNum t l 64 / 2 ^ 64 % 2 ^ 64) := by
  refine ⟨.inl rfl, passes_of ?_, ?_, ?_, ?_, ?_, ?_, ?_, ?_, ?_, ?_, ?_, ?_, ?_, ?_⟩ <;> decide +kernel

theorem witness_EndingItems :
    (let s := smallS
     let u := s.done 4 7 s.cur
     let v := commitOlder (u.withCur { u.cur with com := some { u.cur.ex with phase := .ended } }) s.cur.tid
     AtBoundary s ∧ s.cur.super = false ∧ s.cur.irrev = false ∧ s.cur.ordered = false ∧ s.cur.ex.task = none ∧
     v.cur.com = none ∧ v.cur.tid = s.cur.tid ∧ v.cur.launch = some 0 ∧ (v.launchAt 0).isSome ∧ s.cur.gang = none ∧
     s.launchAt 0 = some aLaunch ∧ s.readable [.g 1, .g 2, .g 3, .g 4, .g 5, .g 6, .g 7]) := by
  refine ⟨boundary_of ?_, ?_, ?_, ?_, ?_, ?_, ?_, ?_, ?_, ?_, ?_, .inl rfl⟩ <;> decide +kernel

/-- An ordered task of the launch with an id in a state, and the thread running its body. -/
def aTask (st : TaskState) (tid : Option Nat) : Sys2Proof.Machine.Task :=
  { id := 0, launch := 0, die := 0, item := Item.none, ts := 0, state := st, tid := tid, spilled := false, leave := false, serialShip := false }
def bodyS : State := { smallS with
  cur := { smallS.cur with ordered := true, ex := { smallS.cur.ex with task := some (0, 0) } }
  work := { smallS.work with tasks := [aTask .running (some 0)] } }
theorem witness_SupervisorWaitsAndBodies : AtBoundary bigS ∧ bigS.cur.super = true ∧ bigS.cur.wakePending = false ∧
    (bigS.withCur { bigS.cur with wakePending := true }).cur.wakePending = true ∧
    bodyS.cur.super = false ∧ bodyS.cur.irrev = false ∧ bodyS.cur.ex.task = some (0, 0) ∧
    mayFinish bodyS bodyS.cur = true ∧ bodyS.task (0, 0) = some (aTask .running (some 0)) := by
  refine ⟨boundary_of ?_, ?_, ?_, ?_, ?_, ?_, ?_, ?_, ?_⟩ <;> decide +kernel

/-- The supervisor of die 0 with a parked thread of a little core selected, whose record is posted. -/
def aRec (fatal : Bool) : Rec := { recordOf smallS (aThread 0) cTRAP 0x10000 7 0 with fatal := fatal }
def parkedS (fatal : Bool) : State := { smallS with
  cur := { smallS.others.headD smallS.cur with parksel := 0 }
  others := { aThread 0 with place := .parked, trap := some (aRec fatal), posted := true, trpc := 0x10004, stepFlag := true } ::
    smallS.others.drop 1 }
theorem witness_selected : (parkedS false).cur.super = true ∧ (selected (parkedS false)).isSome ∧ selected bigS = none ∧
    (selected (parkedS false)).map Thread.tid = some 0 ∧ (parkedS false).cur.tid = 65536 ∧
    (selected (parkedS false)).map Thread.super = some false ∧
    (selected (parkedS false)).bind Thread.trap = some (aRec false) ∧
    (selected (parkedS true)).bind Thread.trap = some (aRec true) ∧ (aRec true).fatal = true ∧ (aRec false).fatal = false := by
  decide +kernel
theorem witness_CsrReads : shipsOut smallS = false ∧ bigS.cur.super = true ∧ selected bigS = none ∧ (selected (parkedS false)).isSome := by
  decide +kernel
theorem witness_CsrWrites_places : bigS.cur.place = .run ∧ (parkedS false).cur.place = .run ∧ smallS.cur.place = .run ∧
    smallS.readable [.g 31] ∧ ((selected (parkedS false)).map Thread.tid).isSome := by
  refine ⟨?_, ?_, ?_, .inl rfl, ?_⟩ <;> decide +kernel
theorem witness_CsrWrites : AtBoundary bigS ∧ bigS.readable [.g 31] ∧ (checked bigS).readable [.g 31] ∧ shipsOut bigS = false ∧
    ((setG bigS 31 4).rg 31).toNat % 8 < 5 ∧ 5 ≤ ((setG bigS 31 5).rg 31).toNat % 8 ∧ bigS.cur.super = true ∧
    selected bigS = none ∧ AtBoundary (parkedS false) ∧ (selected (parkedS false)).map Thread.tid = some 0 := by
  refine ⟨boundary_of ?_, .inl rfl, readable_of ?_, ?_, ?_, ?_, ?_, ?_, boundary_of ?_, ?_⟩ <;> decide +kernel
theorem witness_Privilege : AtBoundary smallS ∧ smallS.cur.super = false ∧ smallS.readable [.g 31] :=
  ⟨boundary_of (by decide +kernel), by decide +kernel, .inl rfl⟩
theorem witness_SoftwareTraps : AtBoundary smallS ∧ smallS.readable [.g 1] ∧ bodyS.cur.ex.task = some (0, 0) ∧
    bodyS.cur.irrev = false ∧ bodyS.task (0, 0) = some (aTask .running (some 0)) ∧ bodyS.readable [.g 1] ∧
    (let s := smallS.withCur { smallS.cur with ex := { smallS.cur.ex with count := 3 } }
     s.cur.ex.task = none ∧ s.cur.truncates = true ∧ s.cur.r.sbchk = false) := by
  refine ⟨boundary_of ?_, .inl rfl, ?_, ?_, ?_, .inl rfl, ?_⟩ <;> decide +kernel
theorem witness_ReturnAndPark : AtBoundary bigS ∧ bigS.cur.super = true ∧ selected bigS = none ∧ AtBoundary (parkedS false) ∧
    AtBoundary (parkedS true) ∧ (parkedS true).cur.super = true ∧ (selected (parkedS true)).map Thread.launch = some (some 0) ∧
    (parkedS true).launchAt 0 = some aLaunch := by
  refine ⟨boundary_of ?_, ?_, ?_, boundary_of ?_, boundary_of ?_, ?_, ?_, ?_⟩ <;> decide +kernel

theorem witness_ScoreboardRules : AtBoundary (checked smallS) ∧ (checked smallS).cur.r.sbchk = true ∧
    firstEarly (checked smallS).cur.stale (checked smallS).cycle [.g 2, .g 1] = some (.g 1, 4) ∧
    firstEarly ((smallS.cur.putP 0 2 7 1).putE 0 2 7 1).stale 1 [.p 7, .g 1, .g 2] = some (.p 7, 1) ∧
    firstEarly ((smallS.cur.putP 0 2 7 1).putE 0 2 7 1).stale 1 [.e 7] = some (.e 7, 1) ∧
    smallS.cur.stale = [] ∧ smallS.cycle ≤ smallS.cycle ∧ smallS.cur.r.sbchk = false ∧
    (match exec (.add false 1 2 3 0) smallS with
      | .next t => t.cur.place == smallS.cur.place
      | _ => false) = true ∧
    (match exec (.cmp false 0 1 2 3 0) smallS with
      | .next t => t.cur.place == smallS.cur.place
      | _ => false) = true := by
  refine ⟨boundary_of ?_, ?_, ?_, ?_, ?_, ?_, ?_, ?_, ?_, ?_⟩ <;> decide +kernel

theorem witness_SealedChunkCommits :
    (let c := smallS.cur.ex
     let k := coreNode (coreOf smallS.cur.tid)
     smallS.cur.com = none ∧ smallS.cur.irrev = false ∧ smallS.cur.trail = none ∧ c.doomed = false ∧ repliesIn smallS smallS.cur.tid c.gen = true ∧
     (smallS.node k).excl = none ∧
     (smallS.node k).pin = none ∧ (smallS.node k).queue = []) ∧ Untouched smallS.cur.ex := by
  refine ⟨by decide +kernel, ⟨rfl, ⟨rfl, rfl, rfl, rfl, rfl, rfl⟩, ⟨rfl, rfl, rfl, rfl⟩, rfl, rfl⟩⟩

/-- A state with the function 0 changed, and one whose chain is enabled with 16 entries of which one is to be taken. -/
def withFunc (s : State) (g : Func → Func) : State := s.mapFunc 0 g
def chainS : State := withFunc { bigS with boot := { bigS.boot with started := true } } (fun x => { x with lcctl := 260, lctail := 1 })

theorem witness_ChainRegisters : ¬ (bigS.func 16).lcctl.getLsbD 8 = true ∧ (chainS.func 0).lcctl.getLsbD 8 = true ∧
    bigS.boot.started = true ∧ ((bigS.box 0).busy && (bigS.box 0).code == 3) = false ∧ (0x11F#64).getLsbD 8 = true ∧
    (0xFF#64).getLsbD 8 = false ∧
    (let x := chainS.func 0
     let n := 2 ^ (x.lcctl.toNat % 32)
     n = 16 ∧ (0#64).toNat < n ∧ (0 + n - x.lctail) % n ≤ (n - 1 - (x.lctail + n - x.lchead) % n) + 1 ∧
     (15 + n - x.lctail) % n ≤ n - 1 - (x.lctail + n - x.lchead) % n ∧
     n - 1 - (x.lctail + n - x.lchead) % n < (0 + n - x.lctail) % n ∧ n ≤ (16#64).toNat) ∧ 7 < 8 ∧ 127 < 128 ∧ chainS.links.waiting = [] ∧
    Arrival.source (.write 0 5 [1]) = (0, (0 : Fin 17).val) := by decide +kernel
/-- R339: a tail write stays behind an earlier write of its function that waits, and the chain behind the tail. -/
theorem test_tail_waits : nextIs (exec (.lctailWrite 0 2) { chainS with links := { chainS.links with waiting := [.write 0 5 [1]] } })
    (fun t => t.links.waiting == [.write 0 5 [1], .tail 0 2] && (t.func 0).lctail == 1) = true := by decide +kernel

/-- The state with every Weir node held by thread 3. -/
def busyNodes (s : State) : State :=
  { s with weir := { s.weir with nodes := (List.range 512).map (fun n => (n, { Node.fresh with excl := some 3 })) } }

/-- A launch chain in host memory with a record that the checks of R41 accept, and one that they refuse. -/
def record : List Byte :=
  ([1 + 2 ^ 24, 0x10000, 0, 0, 0, 0x10040, 1, 0x10080, 0, 0, 0, 0, 0, 0, 0, 0] : List Nat).flatMap (bytesOf 8)
def recordS (bs : List Byte) : State :=
  { chainS with
    mem := Memory.setAll chainS.mem (cellsAt (hostKey 0) bs)
    parts := [{ fn := 0, clusters := [0], tiles := [] }]
    work := { chainS.work with asids := chainS.work.asids ++ [(1, { root := 0x100000, directed := false, owner := 0 })] } }
/-- That launch admitted, with its item not yet delivered, acknowledged, or run. -/
def launchS (delivered : Nat) (acked : Bool) : State :=
  let s := recordS record
  { s with work := { s.work with launches := [{ launchOf 0 1 record with delivered := delivered, acked := acked }] } }
theorem witness_LaunchLife_records : chainReady (recordS record) 0 = true ∧
    readRecord (recordS record) ((recordS record).func 0) = some record ∧
    readRecord (withFunc (recordS record) (fun x => { x with lcbase := 1 }))
      ((withFunc (recordS record) (fun x => { x with lcbase := 1 })).func 0) = none ∧
    (recordS record).work.launches = [] ∧ acceptCheck (recordS record) (launchOf 0 1 record) record = 0 ∧
    acceptCheck (recordS (List.replicate 128 0)) (launchOf 0 1 (List.replicate 128 0)) (List.replicate 128 0) = 1 ∧
    (writeCompletion (recordS []) 0 (launchOf 0 1 (List.replicate 128 0)) 1).isSome ∧
    (writeCompletion (busyNodes (recordS record)) 0 (launchOf 0 1 record) 1).isSome = false := by decide +kernel
/-- A record whose ASID is not live (R41), and one taken again after it has completed (R61). -/
def doneS : State :=
  let s := recordS record
  { s with work := { s.work with launches := [{ launchOf 0 1 record with epoch := (s.func 0).epoch, complete := true }] } }
theorem witness_LaunchLife_again : chainReady doneS 0 = true ∧ readRecord doneS (doneS.func 0) = some record ∧
    doneS.work.launches.any (fun k =>
      k.fn == 0 && k.epoch == (doneS.func 0).epoch && k.seq == (doneS.func 0).lcseq + 1 && k.complete) = true ∧
    acceptCheck { recordS record with work := chainS.work } (launchOf 0 1 record) record = 3 := by decide +kernel
/-- That launch with a barrier at level 0, its one item in a group of its own. -/
def groupS : State :=
  let s := recordS record
  { s with work := { s.work with launches := [{ launchOf 0 1 record with levels := [⟨1, 1, 0, 0, 0⟩] }] } }
theorem witness_LaunchLife_group : cpRuns groupS = true ∧
    (groupS.launchAt 0).map (fun r => (r.complete, (r.levelAt 0).bscope != 0, decide (r.delivered < r.nitems),
      min 65536 (r.nitems - r.delivered))) = some (false, true, true, 1) ∧
    ((groupS.launchAt 0).bind (fun r => initialItem groupS 0 r (r.delivered + 0))).isSome := by decide +kernel
/-- The command processors with a LOCK record that is not posted. -/
def lockS (n : Nat) : State :=
  let r := { recordOf bigS bigS.cur cLOCK 0 (BitVec.ofNat 64 n) 0 with nopark := true }
  { bigS with tails := [(0, { bigS.tail 0 with waitH := [r] })] }
theorem witness_LaunchLife_items : (launchS 0 false).launchAt 0 = some { launchOf 0 1 record with delivered := 0, acked := false } ∧
    cpRuns (launchS 0 false) = true ∧ ((launchS 0 false).launchAt 0).map (fun r => (r.complete, (r.levelAt 0).bscope, r.nitems)) =
      some (false, 0, 1) ∧
    (initialItem (launchS 0 false) 0 (launchOf 0 1 record) 0).isSome ∧ firstUnacked (launchS 1 false) 0 = some 0 ∧
    ackReady (launchS 1 false) 0 { launchOf 0 1 record with delivered := 1 } = true ∧
    launchIdle (launchS 1 true) 0 { launchOf 0 1 record with delivered := 1, acked := true } = true ∧
    (writeCompletion (launchS 1 true) 0 { launchOf 0 1 record with delivered := 1, acked := true } 0).isSome ∧
    (writeCompletion (busyNodes (launchS 1 true)) 0 { launchOf 0 1 record with delivered := 1, acked := true } 0).isSome = false ∧
    launchIdle (busyNodes (launchS 1 true)) 0 { launchOf 0 1 record with delivered := 1, acked := true } = true ∧
    heldBy (lockS 0) 0 = true ∧ heldBy bigS 0 = false ∧ (lockS 3).boot.halted = false ∧
    ({ bigS with boot := { bigS.boot with firmware := true } } : State).boot.firmware = true ∧ bigS.boot.halted = false := by decide +kernel

/-- A launch without whole clusters that wants a core for an item in the Shoe of cluster 0. -/
def wantS (noclu : Bool) : State :=
  let s := launchS 1 true
  { s with work := { s.work with
      launches := [{ launchOf 0 1 record with delivered := 1, acked := true, noclu := noclu }]
      shoes := [(0, { items := [Item.none], gotBatch := false, stepped := false, occ := 0, dispatched := 0 })] } }
def idleS : State :=
  let s := wantS true
  { s with others := { aThread 0 with place := .waiting, keeps := true } :: s.others
           work := { s.work with holds := [(0, 0)], shoes := [], zeroing := [(0, 0)] } }
theorem witness_Cores :
    (let s := wantS true
     let r := (s.launchAt 0).getD aLaunch
     cpRuns s = true ∧ r.complete = false ∧ r.ended = false ∧ outranked s 0 r = false ∧ r.noclu = true ∧
     ((demandOf s 0 r).bind (fun d => nearestCore s 0 r d.1 d.2)).isSome) ∧
    (let s := wantS false
     let r := (s.launchAt 0).getD aLaunch
     cpRuns s = true ∧ r.noclu = false ∧ outranked s 0 r = false ∧ coresOf s 0 = [] ∧ (wholeClusters s r.fn).find? (clusterFree s) = some 0) ∧
    coreIdle idleS 0 = true ∧ Tbl.find idleS.work.zeroing 0 = some 0 ∧ 0 ≤ idleS.cycle := by decide +kernel

/-- The user launch with work in the Shoe of cluster 0 and a slot of little core 0 that waits. -/
def anItem (word0 : Word) : Item := { Item.none with words := [word0, 0, 0, 0, 0, 0, 0, 0] }
def waitS : State := { smallS with cur := { smallS.cur with place := .waiting, ex := Chunk.empty smallS.cur.r } }
def withWork (s : State) (f : Work → Work) : State := { s with work := f s.work }
def inShoe (s : State) (l : List Item) : State :=
  withWork s (fun w => { w with shoes := [(0, { Shoe.fresh with items := l })] })
def loadingS : State := { smallS with
  cur := { smallS.cur with place := .loading (anItem 0x100000004) 0 }, boot := { smallS.boot with started := true } }
/-- Two members of a gang that are loading. -/
def matesS : State :=
  let t (n : Nat) : Thread := { aThread n with place := .loading (anItem 0x100000004) 0, gang := some 5 }
  { loadingS with cur := t 0, others := [t 1] }

theorem witness_ShoeDispatch :
    (withWork smallS (fun w => { w with arriving := [(63, Item.none)] })).work.arriving.find? (fun e => e.1 == 63) = some (63, Item.none) ∧
    (smallS.launchAt 0).map (fun l => (l.ended, l.complete)) = some (false, false) ∧ (smallS.shoe 63).items.length < 4096 ∧
    refillFor (withWork smallS (fun w => { w with launches := [{ aLaunch with spilled := [(0, Item.none)] }] })) 0 =
      some (0, (0, Item.none)) ∧
    shoeFree (inShoe waitS [anItem 0]) 0 = true ∧ shoeChoice (inShoe waitS [anItem 0]) 0 = some (anItem 0) ∧
    chooseSlot (eligible (inShoe waitS [anItem 0]) 0 (anItem 0)) = some 0 ∧
    (loadingS.thread 0).map Thread.place = some (.loading (anItem 0x100000004) 0) ∧ 0 ≤ loadingS.cycle ∧
    tileFrozen loadingS (tileOf 0) = false ∧ (loadingS.thread 0).bind Thread.launch = some 0 ∧
    loadingS.launchAt 0 = some aLaunch ∧ loadingS.cur.gang = none ∧ (matesS.threads.map Thread.tid).Nodup ∧
    matesS.threads.map (fun t => (t.tid, loadDue matesS t)) = [(0, true), (1, true)] ∧
    matesS.threads.map Thread.gang = [some 5, some 5] := by decide +kernel

/-- A gang of two at the Shoe of cluster 0, none or one of whose slots is reserved, beside two waiting slots. -/
def gangS (reserved : List Nat) : State :=
  let s := { waitS with others := { aThread 1 with place := .waiting } :: waitS.others }
  withWork s (fun w => { w with
    launches := [{ aLaunch with levels := [⟨1, 0, 1, 0, 0⟩, ⟨1, 1, 1, 1, 0⟩] }]
    gangs := [{ launch := 0, group := 5, level := 1, items := [anItem 0x100000000, anItem 0x100000000], agent := 0, inst := none, reserved := reserved }] })
/-- The gang of those states, and the one whose slots are none to reserve. -/
def aGang (s : State) : Gang := s.work.gangs.headD ⟨0, 0, 0, [], 0, none, []⟩
def fullS : State := { gangS [] with
  cur := { (gangS []).cur with place := .run }, others := { aThread 1 with place := .run } :: waitS.others }
/-- An item on a walk to cluster h that has come to cluster c. -/
def aWalk (h c : Nat) : Walk := { goal := h, here := c, item := anItem (BitVec.ofNat 64 (7 * 2 ^ 37)), due := 0 }
def walkS (h c : Nat) : State := withWork waitS (fun w => { w with walking := [aWalk h c] })
theorem witness_GangsAndWalks :
    gangHead (gangS []) 0 = some 0 ∧ (gangS []).work.gangs[0]? = some (aGang (gangS [])) ∧
    (gangInstance (gangS []) (aGang (gangS []))).map (fun e => (minBy Thread.tid e.2).map Thread.tid) = some (some 0) ∧
    (aGang (gangS [])).reserved.length + 1 < (aGang (gangS [])).items.length ∧
    (gangInstance fullS (aGang fullS)).map Prod.snd = some [] ∧ (aGang fullS).reserved.length < (aGang fullS).items.length ∧
    (aGang (gangS [0])).reserved.length + 1 = (aGang (gangS [0])).items.length ∧
    (let s : State := { gangS [0] with cur := { (gangS [0]).cur with place := .reserved 5 } }
     (gangInstance s (aGang s)).map (fun e => (minBy Thread.tid e.2).map Thread.tid) = some (some 1)) ∧
    (let s : State := { gangS [64] with others := { aThread 2 with place := .waiting } :: { aThread 64 with place := .reserved 5 } :: (gangS []).others }
     let g : Gang := { aGang s with items := [anItem 0, anItem 0, anItem 0] }
     let q := withWork s (fun w => { w with gangs := [g] })
     gangHead q 0 = some 0 ∧ (gangInstance q g).map Prod.fst = some 0 ∧ instanceOf 1 64 ≠ 0 ∧ (q.thread 64).isSome ∧
     g.reserved.length + 1 < g.items.length ∧ ((q.launchAt g.launch).map (fun l => (l.levelAt g.level).dom)).getD 0 = 1) ∧
    ([0] ++ [1] : List Nat).Nodup ∧ (∀ n ∈ ([0] : List Nat), ((gangS [0]).thread n).isSome) ∧
    walkDue (walkS 0 0) = some (aWalk 0 0) ∧ walkDue (walkS 0 63) = some (aWalk 0 63) ∧ walkDue (walkS 8 7) = some (aWalk 8 7) ∧
    hops 7 0 ≤ (anItem (BitVec.ofNat 64 (7 * 2 ^ 37))).w0.toNat / 2 ^ 37 % 8 ∧
    ¬ hops 8 7 ≤ (anItem (BitVec.ofNat 64 (7 * 2 ^ 37))).w0.toNat / 2 ^ 37 % 8 ∧
    chooseSlot (eligible waitS 0 (aWalk 0 0).item) = some 0 ∧ chooseSlot (eligible waitS 63 (aWalk 0 63).item) = none ∧
    shoeReady waitS 0 = false ∧ (waitS.shoe 0).stepped = false ∧ (waitS.shoe 0).gotBatch = false ∧
    minBy (fun k => (waitS.shoe k).occ * 64 + k) (neighbours waitS 0) = some 1 ∧
    (waitS.shoe 0).occ - (waitS.shoe 1).occ ≤ waitS.work.threshold ∧
    (let s := withWork waitS (fun w => { w with shoes := [(0, { Shoe.fresh with occ := 33 })] })
     minBy (fun k => (s.shoe k).occ * 64 + k) (neighbours s 0) = some 1 ∧ s.work.threshold < (s.shoe 0).occ - (s.shoe 1).occ) ∧
    (let s := { withWork waitS (fun w => { w with batches := [⟨0, 4, 3, [anItem 0], none⟩] }) with cycle := 5 }
     s.work.batches.find? (fun e => e.goal == 3 && decide (e.left < s.cycle)) = some ⟨0, 4, 3, [anItem 0], none⟩) ∧
    (waitS.shoe 3).items.length + [anItem 0].length ≤ 4096 := by decide +kernel

/-- The ordered launch with one task. -/
def taskS (k : Sys2Proof.Machine.Task) : State := withWork waitS (fun w => { w with tasks := [k] })
theorem witness_OrderedTasks :
    (withWork waitS (fun w => { w with offered := [(3, anItem 0)] })).work.offered.find? (fun e => e.1 == 3) = some (3, anItem 0) ∧
    (waitS.launchAt 0).map (fun l => (l.ended, l.ord)) = some (false, true) ∧ (dieTasks waitS 3 false).length < 49152 ∧
    (dieTasks (taskS { aTask .queued none with spilled := true }) 0 true).length ≤ 64 ∧
    (waitS.thread 0).bind (slotWaits waitS) = some 0 ∧
    sluiceAnswer (taskS (aTask .queued none)) 0 0 = some (aTask .queued none) ∧
    shoeFree (taskS (aTask .queued none)) (clusterOf 0) = true ∧
    grantFor (taskS (aTask .queued none)) 0 = some (aTask .queued none) ∧
    grantChoice (taskS (aTask .queued none)) (clusterOf 0) = some (0, aTask .queued none) ∧
    Tbl.find (taskS (aTask .queued none)).work.shoes (clusterOf 0) = none ∧
    (gvtFor (withWork (taskS { aTask .overflow none with leave := true }) (fun w => { w with gvt := [⟨0, 0, true, true⟩] })) 0 0).isSome ∧
    leaveFor (taskS (aTask .finished (some 0))) 0 = some (aTask .finished (some 0)) ∧
    leaveFor (taskS (aTask .overflow none)) 0 = some (aTask .overflow none) ∧
    retirable (taskS { aTask .finished none with leave := true }) 0 = some { aTask .finished none with leave := true } ∧
    (let s : State := { waitS with cycle := 1024 }
     s.cycle % 1024 = 0 ∧ s.work.lastGvt ≠ s.cycle / 1024) ∧
    waitS.work.gvt = [] ∧ minBy Task.rank (tasksOf (taskS (aTask .queued none)) 0) = some (aTask .queued none) := by decide +kernel

/-- Registers of the little thread that wait, oldest first, and a job of it on a big core. -/
def waits (r : Reg) (why : BusyBy) : Busy := ⟨r, why, 0, 0⟩
def busyS (l : List Busy) : State := { smallS.withCur { aThread 0 with busy := l } with cycle := 20 }
theorem witness_LateResults :
    (let l := [waits (.g 5) .job, waits (.g 1) .load, waits (.e 7) .load, waits (.v 31) .unit, waits (.g 9) .div]
     let s := busyS l
     s.thread 0 = some s.cur ∧ tileFrozen s (tileOf 0) = false ∧ runningJob s 0 = none ∧
     l = [waits (.g 5) .job] ++ waits (.g 1) .load :: [waits (.e 7) .load, waits (.v 31) .unit, waits (.g 9) .div] ∧
     (∀ b ∈ [waits (.g 5) .job], b.why ≠ .load) ∧
     l = [] ++ waits (.g 5) .job :: [waits (.g 1) .load, waits (.e 7) .load, waits (.v 31) .unit, waits (.g 9) .div] ∧
     (s.queueOf (coreOf 0)).head?.map VecCmd.tid ≠ some 0 ∧
     l = [waits (.g 5) .job, waits (.g 1) .load, waits (.e 7) .load] ++ waits (.v 31) .unit :: [waits (.g 9) .div] ∧
     localDone s s.cur (waits (.v 31) .unit) = true ∧ localDone s s.cur (waits (.g 9) .div) = true ∧
     (∀ b ∈ [waits (.g 5) .job, waits (.g 1) .load, waits (.e 7) .load], localDone s s.cur b = false)) ∧
    (let s : State := { busyS [waits (.v 31) .unit] with queues := [(0, [⟨0, some (.v 31)⟩, ⟨1, none⟩])] }
     s.queueOf (coreOf 0) = ⟨0, some (.v 31)⟩ :: [⟨1, none⟩] ∧ ¬ (⟨0, some (.v 31)⟩ : VecCmd) ∈ [(⟨1, none⟩ : VecCmd)] ∧
     (waits (.v 31) .unit).queued = true ∧ [waits (.v 31) .unit] = [] ++ waits (.v 31) .unit :: []) ∧
    (let u : Thread := { aThread 0 with wait := .vscx 4 0 9 1 }
     let s : State := { smallS.withCur u with cycle := 4096 }
     u.wait = .vscx 4 0 9 1 ∧ 0 + 4096 ≤ s.cycle) := by decide +kernel

/-- A shipped instruction of the little thread on its way. -/
def aShip (i : Instr) : Ship :=
  { id := 0, tid := 0, asid := 0, fmode := 0, seed := 1, gen := 1, seq := 0, sid := 0, since := 0, instr := i, guard := 0, a := 0, b := 0,
    c := 0, x := 0, y := 0, z := 0, cluster := 0, admitted := false, pool := false, retryAt := 0, issued := false, cancelled := false,
    asked := false, hostOk := none, chunk := none, replied := false, status := 0, cause := 0, flags := 0, result := 0, writes := true,
    val := 0, val2 := 0 }
def shipS (x : Ship) : State := { smallS with
  cur := { smallS.cur with slots := 1, busy := [waits (.g 5) (.ship 0)] }, ships := [x], nextShip := 1 }
/-- A guest cycle of every big core (R97). -/
def turnS (s : State) : State := { s with cycle := 1 }
/-- It as the Penstock holds it, and as its reply comes. -/
def entry (i : Instr) : Ship := { aShip i with admitted := true }
def answer (i : Instr) (st : Nat) : Ship := { entry i with issued := true, replied := true, status := st }
/-- A job that its big core performs. -/
def jobShip : Ship := { entry (.mma 3 0) with issued := true, chunk := some (newChunk Regs.reset none 1) }
theorem witness_LateResults_jobs :
    runningJob (shipS jobShip) 0 = some jobShip ∧ jobShip.cancelled = false ∧ jobShip.chunk.isSome ∧
    tileFrozen (shipS jobShip) (1024 + jobShip.cluster) = false ∧
    runningJob (shipS { jobShip with cancelled := true }) 0 = some { jobShip with cancelled := true } := by decide +kernel

theorem witness_Shipping_way :
    (let x := aShip (.nop 0)
     (shipS x).ship 0 = some x ∧ hasEntry (shipS x) x (routeCluster (shipS x) (clusterOf 0)) = true ∧
     hasEntry { shipS x with freeze := { (shipS x).freeze with tiles := [(1024, { Tile.fresh with state := .frozen })] } } x 0 = false ∧
     (let y := { x with retryAt := 16 }
      y.retryAt ≠ 0 ∧ y.retryAt ≤ ({ shipS y with cycle := 16 } : State).cycle ∧ tileFrozen (shipS y) (tileOf y.tid) = false) ∧
     ({ x with cancelled := true } : Ship).issued = false ∧ x.replied = false ∧ x.admitted = false ∧ x.noticeAt = 0) ∧
    (let x := entry (.dadd 5 1 2 0)
     guestTurn (turnS (shipS x)) 0 = true ∧ (nextGuest (turnS (shipS x)) 0).map Ship.id = some 0 ∧ (remoteBody x).isNone) := by decide +kernel

/-- What a big core comes to for an entry. -/
def comesTo (s : State) (x : Ship) (p : Remote → Bool) : Bool :=
  guestTurn s 0 && (nextGuest s 0).map Ship.id == some 0 &&
  (match remoteBody x with
    | some body => p (body (guestState (s.guestSpent 0 (coreOf x.tid)) x))
    | none => false)
def wideShip (a : Word) : Ship := { entry (.amowcas 3 2 1 1 0) with a := a }
theorem witness_Shipping_guest :
    comesTo (turnS (shipS (wideShip 0x1FFF0))) (wideShip 0x1FFF0) (fun r => match r with
      | .done .. => true
      | _ => false) = true ∧
    comesTo (turnS (shipS (wideShip 0x30000))) (wideShip 0x30000) (fun r => match r with
      | .trap c _ v => c == cSCOPE && v == 1
      | _ => false) = true ∧
    comesTo (turnS (shipS (wideShip 0x40000))) (wideShip 0x40000) (fun r => match r with
      | .ask => true
      | _ => false) = true ∧
    (let s := turnS (shipS (wideShip 0x1FFF0))
     let l := (locOf (resolve s s.cur 0x1FFF0 16 .rmw)).line
     comesTo { s with weir := { s.weir with heldCounts := [l] } } (wideShip 0x1FFF0) (fun r => match r with
      | .later _ => true
      | _ => false)) = true := by decide +kernel

theorem witness_Shipping_replies :
    (let x := answer (.dadd 5 1 2 0) 0
     let u := (shipS x).cur
     (shipS x).thread 0 = some u ∧ tileFrozen (shipS x) (tileOf 0) = false ∧ x.cancelled = false ∧ x.gen = u.ex.gen ∧
     shipsClosing x.instr = false ∧ x.writes = true ∧ u.busy = [] ++ waits (.g 5) (.ship 0) :: [] ∧ u.ex.task = none ∧
     u.ex.serialShip = false ∧ ({ x with cancelled := true } : Ship).cancelled = true ∧ u.com = none) ∧
    (let x := answer (.dadd 5 1 2 0) 2
     let s := (shipS x).withCur { (shipS x).cur with ex := { (shipS x).cur.ex with serialShip := true }, wait := .ship 0 }
     x.gen = s.cur.ex.gen ∧ s.cur.ex.serialShip = true ∧ s.cur.ex.task = none ∧ s.cur.com = none ∧ x.seq = 0 ∧
     x.tid = s.cur.tid ∧ shipsClosing x.instr = false) ∧
    (let x := { answer (.amowcas 3 2 1 1 0) 0 with chunk := some (newChunk Regs.reset none 1) }
     let s := (shipS x).withCur { (shipS x).cur with wait := .ship 0 }
     shipsClosing x.instr = true ∧ x.gen = s.cur.ex.gen ∧ s.cur.wait = .ship 0 ∧ x.tid = s.cur.tid ∧ x.chunk.isSome ∧
     s.cur.ex.count = 0 ∧ s.threads.all (fun v => v.com.isNone) = true) ∧
    (let c := { newChunk Regs.reset none 1 with rlines := [.glob 0 512] }
     let x := { jobShip with chunk := some c }
     (shipS x).thread 0 = some (shipS x).cur ∧ x.cancelled = false ∧ c.serial = false ∧ (true && c.pinned) = false ∧
     (Line.glob 0 512).reaches (coreOf 0) = true ∧ Line.glob 0 512 ∈ c.rlines ∧
     (countSquash (shipS x).cur 1).mustPin = false) := by decide +kernel

/-- R475: a frozen big tile refuses a cancel notice, which goes again 16 cycles later. -/
theorem test_cancel_frozen :
    (let x := { entry (.dadd 5 1 2 0) with cancelled := true }
     let s := { shipS x with freeze := { (shipS x).freeze with tiles := [(1024, { Tile.fresh with state := .frozen })] } }
     match execCancelNotice 0 s with
     | .next t => (t.ship 0).map (fun y => (y.replied, y.noticeAt)) == some (false, s.cycle + 16)
     | _ => false) = true := by decide +kernel

/-- A node that the home vector of a chunk that reads the line of VA 0x10000 holds, and a chunk that has ended. -/
def endedS (ph : Phase) (f : Chunk → Chunk) : State :=
  smallS.withCur { smallS.cur with com := some (f { smallS.cur.ex with phase := ph, count := 3 }) }
theorem witness_CommitSteps_boundary :
    (let u : Thread := { aThread 0 with ex := { (aThread 0).ex with count := 4096 } }
     let s : State := smallS.withCur u
     s.thread 0 = some u ∧ u.place = .run ∧ u.ex.count ≠ 0 ∧ u.irrev = false ∧ u.ex.task = none ∧ u.com = none ∧
     tileFrozen s (tileOf 0) = false) ∧ 2 ≤ (2 : Fin 5).val ∧ 2 ≤ (4 : Fin 5).val ∧
    (let at' (spcount lmcount : Nat) : SafePoint := safePointAt
       { smallS with work := { smallS.work with launches := [{ aLaunch with spbase := 0x20000, lmbase := 0x20100, spcount := spcount, lmcount := lmcount }] } }
       (aThread 0)
     at' 0 0 = .no ∧ at' 1 0 = .full ∧ at' 1 1 = .masked (liveMask 0)) := by decide +kernel
theorem witness_CommitSteps_pins :
    (let u : Thread := { aThread 0 with mustPin := true, lastHomes := [8, 256] }
     let s : State := smallS.withCur u
     wantsPins u = true ∧ nextPin s u = some 8 ∧ (s.node 8).pin = none ∧ (s.node 8).excl = none ∧ (s.node 8).shared = [] ∧
     (s.node 8).pinQueue = [] ∧ nextPin s { u with lastHomes := [] } = none ∧
     (let v : State := s.setNode 8 { s.node 8 with pinQueue := [0, 5] }
      nextPin v u = some 8 ∧ (v.node 8).pin = none ∧ (v.node 8).excl = none ∧ (v.node 8).shared = [] ∧
      (v.node 8).pinQueue.head? = some 0)) := by decide +kernel
theorem witness_CommitSteps_token :
    (let u : Thread := { aThread 0 with mustSerial := true }
     let s : State := { smallS.withCur u with weir := { smallS.weir with serialQueue := [0] } }
     s.weir.serial = none ∧ s.weir.serialQueue = 0 :: [] ∧ u.place = .run ∧ u.mustSerial = true) := by decide +kernel
theorem witness_CommitSteps_request :
    (let s := endedS .ended id
     ((s.thread 0).bind Thread.com).map (fun c => (c.phase == .ended, repliesIn s 0 c.gen, s.cur.trailDone c.gen, hasLeave s c,
       ownsLines s s.cur c, handsFree s s.cur c)) = some (true, true, true, true, true, true) ∧ tileFrozen s (tileOf 0) = false) := by decide +kernel
theorem witness_CommitSteps_grant :
    (let s := endedS .requested (fun c => { c with shared := [8, 9], excl := [9] })
     (s.cur.com.map (fun c => ((homesOf s.cur c).filter (fun n => !c.held.contains n), c.doomed))) = some (8 :: [9], false) ∧
     nodeFree (s.node 8) 0 false = true) := by decide +kernel
theorem witness_CommitSteps_number :
    (let s := endedS .requested (fun c => { c with shared := [8, 9], excl := [9], held := [8, 9] })
     (s.cur.com.map (fun c => ((homesOf s.cur c).filter (fun n => !c.held.contains n), c.effects, c.hands, c.doomed,
       handsFree s s.cur c))) = some ([], [], [], false, true)) ∧
    (let s := endedS .requested (fun c => { c with shared := [8, 9], excl := [9], held := [8] })
     (s.cur.com.map (fun c => ((homesOf s.cur c).filter (fun n => !c.held.contains n), c.excl.contains 9, c.effects, c.hands))) =
       some ([9], true, [], []) ∧ nodeFree (s.node 9) 0 true = true) := by decide +kernel
theorem witness_CommitSteps_ack :
    (let s := endedS .numbered (fun c => { c with acks := [0, 5] })
     s.cur.com.map (fun c => (c.phase == .numbered, c.acks, c.task)) = some (true, [0, 5], none) ∧ s.cur.fins = []) := by decide +kernel
theorem witness_CommitSteps_release :
    (endedS .numbered id).cur.com.map (fun c => (c.phase == .numbered, c.acks, c.task)) = some (true, [], none) := by decide +kernel
theorem witness_CommitSteps_lanes :
    (let q := Lane.mem 0 9 (.glob 0 512) [(0x13FF80, 7)] false
     let s := endedS .numbered (fun c => { c with later := [q] })
     s.cur.com.map (fun c => (c.phase == .numbered, c.acks, c.later == [q])) = some (true, [], true) ∧
     nodeFree { s.node 9 with queue := [] } 0 true = true) := by decide +kernel
theorem witness_CommitSteps_receive :
    (let l := Line.glob 0 512
     let u : Thread := { aThread 0 with ex := { (aThread 0).ex with rlines := [l], count := 2 } }
     l ∈ [l] ∧ (l ∈ u.ex.rlines ∨ l ∈ u.ex.wlines) ∧ u.com = none ∧ u.fins = [] ∧ u.irrev = false ∧ u.ex.task = none ∧
     u.ex.serial = false ∧ l.reaches (coreOf 0) = true ∧ ({ u with ex := { u.ex with serial := true } } : Thread).ex.serial = true ∧
     (true && ({ u with ex := { u.ex with pinned := true } } : Thread).ex.pinned) = true ∧ (true && u.ex.pinned) = false ∧
     smallS.thread 0 = some smallS.cur) := by decide +kernel

/-- A copy of 16 bytes to the end of a page. -/
def aCopy (src : Word) : CopyCmd :=
  { tid := 0, asid := 0, seq := 1, fill := false, src := src, dst := 0x1FFF0, len := 16, rows := 1, sstride := 0, dstride := 0,
    pc := 0, launch := some 0, cv := 1, v := 1 }
def aChannel (src : Word) : Channel := { cmd := aCopy src, row := 0, off := 0, asked := false, got := none }
def hoistS (h : Hoist) : State := { smallS with hoists := [(0, h)] }
/-- The places of a check that passes, never compared. -/
def locsOf (c : Chk (List Loc)) : List Loc :=
  match c with
  | .ok l => l
  | _ => []
def passed (c : Chk (List Loc)) : Bool :=
  match c with
  | .ok _ => true
  | _ => false
theorem ok_of_passed {c : Chk (List Loc)} (h : passed c = true) : c = .ok (locsOf c) := by
  cases c <;> simp_all [passed, locsOf]
/-- Where nothing holds a Weir node, every agent's point can be taken. -/
theorem agentFree_of {s : State} {a : Nat} {l : List Nat} (h : s.weir.nodes = []) : agentFree s a l = true := by
  simp [agentFree, State.node, Tbl.at, Tbl.find, h, Node.fresh, nodeFree]
def ahead : State := hoistS { Hoist.fresh with channels := [(3, aChannel 0x10000)] }
/-- The same from the irrevocable page. -/
def irrevS : State := hoistS { Hoist.fresh with channels := [(3, aChannel 0xA0000)] }
/-- A piece that has read what it reads on the irrevocable page. -/
theorem witness_Copies_read : ({ aChannel 0xA0000 with got := some (0, List.replicate 16 7) } : Channel).got.map Prod.fst = some 0 := rfl
theorem witness_Copies :
    (let h : Hoist := { Hoist.fresh with queue := [aCopy 0x10000] }
     ((hoistS h).hoist 0).queue = aCopy 0x10000 :: [] ∧ freeChannel h = some 0 ∧ rangesFit h (aCopy 0x10000) = true) ∧
    (Tbl.find (ahead.hoist 0).channels (3 : Fin 4).val = some (aChannel 0x10000) ∧ (aChannel 0x10000).got.map Prod.fst = none ∧
      (pieceOf ahead (aChannel 0x10000)).2.2 = 16 ∧ (aCopy 0).len ≤ 0 + 16 ∧ (aCopy 0).rows ≤ 0 + 1) ∧
    (∃ a b, copyLocs ahead (aCopy 0x10000) .read 0x10000 16 = .ok a ∧ copyLocs ahead (aCopy 0x10000) .write 0x1FFF0 16 = .ok b ∧
      pieceOf ahead (aChannel 0x10000) = (0x10000, 0x1FFF0, 16) ∧
      (∀ q ∈ a ++ b, q.peer = none) ∧ agentFree ahead (agentId 4 3) (locNodes (a ++ b)) = true ∧
      (∀ q ∈ a, ¬ q.line ∈ ahead.weir.heldCounts) ∧ (∀ q ∈ a ++ b, arrayStopped ahead (aCopy 0x10000) q = false) ∧
      copyIrrev ahead (aCopy 0x10000) 0x1FFF0 .write = false ∧ copyIrrev ahead (aCopy 0x10000) 0x10000 .read = false) ∧
    (∃ a b, copyLocs irrevS (aCopy 0xA0000) .read 0xA0000 16 = .ok a ∧ copyLocs irrevS (aCopy 0xA0000) .write 0x1FFF0 16 = .ok b ∧
      pieceOf irrevS (aChannel 0xA0000) = (0xA0000, 0x1FFF0, 16) ∧ copyIrrev irrevS (aCopy 0xA0000) 0xA0000 .read = true ∧
      (∀ q ∈ a ++ b, q.peer = none) ∧ agentFree irrevS (agentId 4 3) (locNodes a) = true ∧
      agentFree irrevS (agentId 4 3) (locNodes ([] ++ b)) = true ∧ (∀ q ∈ a, ¬ q.line ∈ irrevS.weir.heldCounts) ∧
      (∀ q ∈ a, poisoned irrevS q 1 = false) ∧ (∀ q ∈ a ++ b, arrayStopped irrevS (aCopy 0xA0000) q = false)) ∧
    (let s := hoistS { Hoist.fresh with channels := [(0, aChannel 0x80000)] }
     copyLocs s (aCopy 0x80000) .read 0x80000 16 = .trap cPAGE 0x80000 48 ∧ pieceOf s (aChannel 0x80000) = (0x80000, 0x1FFF0, 16)) ∧
    (let y : Channel := { aChannel 0x10000 with cmd := { aCopy 0x10000 with len := 4096, rows := 2 } }
     (pieceOf ahead y).2.2 = 16 ∧ y.off + 16 < y.cmd.len ∧ y.cmd.len ≤ 4080 + 16 ∧ y.row + 1 < y.cmd.rows) :=
  ⟨by decide +kernel, by decide +kernel,
    ⟨_, _, ok_of_passed (by decide +kernel), ok_of_passed (by decide +kernel), by decide +kernel, by decide +kernel,
      agentFree_of rfl, by decide +kernel, by decide +kernel, by decide +kernel, by decide +kernel⟩,
    ⟨_, _, ok_of_passed (by decide +kernel), ok_of_passed (by decide +kernel), by decide +kernel, by decide +kernel, by decide +kernel,
      agentFree_of rfl, agentFree_of rfl, by decide +kernel, by decide +kernel, by decide +kernel⟩,
    by decide +kernel, by decide +kernel⟩

/-- The Tailrace block of die 0 at VA 0x10000, its rings in the pages at 0x60000 and 0x1C000, and a record on each lane. -/
def tailS (h r : List Rec) : State := { smallS with
  tails := [(0, { block := some 0x10000, rbase := 0x60000, hbase := 0x1C000, waitR := r, waitH := h, postedR := 0, postedH := 0 })] }
theorem post_isSome {s : State} {r : Rec} {x : Nat} (hn : s.weir.nodes = []) (hb : (s.tail 0).block = some 0x10000)
    (laneH : Bool) (hx : (if laneH then (s.tail 0).postedH else (s.tail 0).postedR) = 0)
    (hr : (readSpace s 0 ((0x10000 : Word).toNat + if laneH then 24 else 8) 8).isSome = true)
    (he : (if laneH then (s.tail 0).hbase else (s.tail 0).rbase).toNat = x)
    (ha : (placeCells s 0 .write (x + 0 % (if laneH then 256 else 4096) * 64) (recBytes r)).isSome = true)
    (hc : (placeCells s 0 .write ((0x10000 : Word).toNat + 48)
      (bytesOf 8 (waitWord ((s.tail 0).waitH.length - bitOf laneH) ((s.tail 0).waitR.length - bitOf !laneH)))).isSome = true)
    (hd : (placeCells s 0 .write ((0x10000 : Word).toNat + if laneH then 16 else 0) (bytesOf 8 (0 + 1))).isSome = true) :
    (postRecord s 0 laneH r).isSome = true := by
  obtain ⟨y, hr⟩ := Option.isSome_iff_exists.mp hr
  obtain ⟨p, ha⟩ := Option.isSome_iff_exists.mp ha
  obtain ⟨q, hd⟩ := Option.isSome_iff_exists.mp hd
  obtain ⟨z, hz⟩ := Option.isSome_iff_exists.mp hc
  simp only [postRecord, hb, hx, hr, he, ha, hd, hz, Nat.min_zero, Nat.sub_zero, agentFree_of hn]
  rw [if_neg (by cases laneH <;> decide)]
  rfl
theorem test_post_lanes : (postRecord (tailS [aRec true] []) 0 true (aRec true)).isSome ∧
    (postRecord (tailS [] [aRec false]) 0 false (aRec false)).isSome :=
  ⟨post_isSome (x := 0x1C000) rfl rfl true rfl (by decide +kernel) rfl (by decide +kernel) (by decide +kernel) (by decide +kernel),
    post_isSome (x := 0x60000) rfl rfl false rfl (by decide +kernel) rfl (by decide +kernel) (by decide +kernel) (by decide +kernel)⟩
theorem witness_Wakes :
    (let u : Thread := { aThread 0 with wait := .waitv (.glob 0 512) 8 0 65536 }
     let s : State := { smallS.withCur u with cycle := 65536 }
     s.thread 0 = some u ∧ tileFrozen s (tileOf 0) = false ∧ 65536 ≤ s.cycle) ∧
    (({ aThread 0 with wait := .host } : Thread).wait = .host) ∧
    (let h : HostAdd := { tid := 0, asid := 0, key := 2 ^ 56, size := 4, x := 1, va := 0x40000, pc := 0, v := 0 }
     let s : State := { smallS with links := { smallS.links with hostAdds := [h] } }
     s.cur.wait ≠ .host ∧ (askedShip s 0).isNone ∧ s.links.hostAdds.find? (fun h => h.tid == 0) = some h) ∧
    (let x := { wideShip 0x40000 with asked := true }
     (askedShip (shipS x) 0).map Ship.id = some 0 ∧ (shipS x).cur.wait ≠ .host) ∧
    (let m : PeerMsg := { tid := 0, asid := 0, dev := 1, off := 0, va := 0x50000, pc := 0, act := .reduce 0 4 1, since := 0 }
     peerHead { smallS with links := { smallS.links with peerOut := [m] } } 0 = some m) ∧
    (let m : PeerMsg := { tid := 0, asid := 0, dev := 1, off := 0, va := 0x50000, pc := 0, act := .read 8 255, since := 0 }
     let s : State := { smallS.withCur { aThread 0 with wait := .peer } with
       cycle := 2 ^ 20, links := { smallS.links with peerOut := [m] } }
     peerHead s 0 = some m ∧ m.since + 2 ^ 20 ≤ s.cycle ∧ s.cur.wait = .peer) ∧
    (let b : Barrier := { launch := 0, key := 0, phase := 0, parts := some [0], arrived := [0], late := [], v := 0, lateV := 0 }
     let s : State := withWork smallS (fun w => { w with barriers := [b] })
     s.work.barriers[0]? = some b ∧ barrierFull s b = true ∧ 0 ∈ b.arrived ∧ tileTakes s (tileOf 0) = true) ∧
    ((tailS [aRec true] []).tail 0).waitH = aRec true :: [] ∧ ((tailS [] [aRec false]).tail 0).waitR = aRec false :: [] ∧
    (let s : State := bigS.withCur { bigS.cur with place := .parked }
     (s.thread (superTid (0 : Fin 4).val)).map Thread.place = some .parked) := by decide +kernel

theorem witness_HardwareErrors :
    (let u : Thread := { aThread 0 with com := some { (aThread 0).ex with phase := .numbered, num := 65536, since := 0 } }
     let s : State := { smallS.withCur u with cycle := 2 ^ 20 }
     s.thread 0 = some u ∧ u.tid = 0 ∧ watchdogFinds s u true = some 0 ∧ u.place = .run ∧ u.inBody = false) ∧
    watchdogFinds { shipS (aShip (.nop 0)) with cycle := 2 ^ 20 } (shipS (aShip (.nop 0))).cur false = some 0 ∧
    (let s := smallS
     resolve s s.cur 0x1FFF0 1 .read = .ok (locOf (resolve s s.cur 0x1FFF0 1 .read)) ∧
     (readingShip s 0 (locOf (resolve s s.cur 0x1FFF0 1 .read)).line).isNone ∧ (5 : Fin 8) ≠ 0) ∧
    (let s := shipS { jobShip with chunk := some { newChunk Regs.reset none 1 with
       rlines := [(locOf (resolve smallS smallS.cur 0x1FFF0 1 .read)).line] } }
     (readingShip s 0 (locOf (resolve s s.cur 0x1FFF0 1 .read)).line).map Ship.id = some 0) ∧
    (let u : Thread := { aThread 0 with chcause := 5, chrun := 1, com := some { (aThread 0).ex with phase := .ended } }
     let s : State := { smallS.withCur u with work := { smallS.work with launches := [{ aLaunch with paired := true }] } }
     s.thread 0 = some u ∧ pairedRun s u = true ∧ u.place = .run ∧ u.ex.task = none ∧
     (u.com.map (fun c => c.phase == .ended && c.task.isNone)) = some true ∧ pairedRun s { u with chrun := 0 } = true ∧
     pairedRun smallS (aThread 0) = false) ∧
    (7 : Fin 8) ≠ 0 ∧ tileFrozen smallS (tileOf 0) = false ∧ deviceBacked 0x3FFFFFFFF = true ∧ deviceBacked 0xFFFFFFFFFF = true ∧
    2 ^ 40 ≤ 2 ^ 40 ∧ 2 ^ 40 + 8256 * 2 ^ 21 - 1 < 2 ^ 40 + 8256 * 2 ^ 21 ∧ 2 ^ 57 - 1 < 2 ^ 57 ∧
    sharerLine (sharerKey 1023 (2 ^ 57 - 1)) = .glob 1023 (2 ^ 57 - 1) := by
  decide +kernel

/-- The aperture of function 0 over VA 0x10000 on, with an import window onto the page at 0x60000. -/
def linkS : State := withFunc { bigS with
    mem := page bigS.mem 1 (0x13 * 2 ^ 24 + 0x3F)
    links := { bigS.links with windows := [(0x10000, 0x10000, 0x60000, 7)] } } (fun x => { x with apva := 0x10000 })
theorem witness_LinkAccesses :
    apertureVa linkS 0 0xFF80 128 = some 0x1FF80 ∧ 128 ≤ 128 - 0x1FF80 % 128 ∧ linkS.links.waiting = [] ∧
    apertureVa linkS 0 0xFF40 192 = some 0x1FF40 ∧
    (let n := ((hostLoc linkS 0x1FF80 .write).getD (locOf (.nomem 0))).node
     agentFree (linkS.setNode n { linkS.node n with excl := some 3 }) (agentId 0 0) [n] = false) ∧
    (let l := (hostLoc linkS 0x1FF80 .write).getD (locOf (.nomem 0))
     hostLoc linkS 0x1FF80 .write = some l ∧ hostLoc linkS 0x1FF80 .read = some l ∧ hostLoc linkS 0x1FF80 .rmw = some l ∧
     agentFree linkS (agentId 0 0) [l.node] = true ∧ lineBusy linkS l = false ∧ (l.leaf.map Leaf.sys).getD false = true ∧
     ¬ l.line ∈ linkS.weir.heldCounts) ∧
    apertureVa linkS 0 0xFFF0 16 = some 0x1FFF0 ∧ 0x1FFF0 % 16 = 0 ∧ hostLoc linkS 0x80000 .write = none ∧
    apertureVa linkS 0 0x70000 8 = some 0x80000 ∧
    (let s : State := { smallS with links := { smallS.links with hostWrites := [⟨0, false, 0, 7, []⟩] } }
     s.links.hostWrites = ⟨0, false, 0, 7, []⟩ :: []) ∧ State.reset.boot.started = false ∧ State.reset.links.waiting = [] ∧
    (let s := endedS .ended (fun c => { c with sysLines := [7] })
     let t : State := { s with links := { s.links with cxl := true } }
     t.links.cxl = true ∧ t.cur.com.map (fun c => c.sysLines.find? (fun n => !t.links.cxlOwned.contains n)) = some (some 7)) ∧
    agentFree linkS (agentId 0 512) ((namesOf linkS 5).foldl (fun m e => insertAsc e.2.2 m) []) = true ∧
    windowOf linkS 0x1FF80 = some (0x10000, 0x10000, 0x60000, 7) ∧ 0x6FF80 = 0x60000 + (0x1FF80 - 0x10000) ∧
    (windowOf linkS 0x1FF80).all (fun w => decide (w.1 + w.2.1 < 0x1FF80 + 129)) = true ∧
    (windowOf linkS 0x20000).all (fun w => decide (w.1 + w.2.1 < 0x20000 + 1)) = true ∧ 0x1FF80 + 128 ≤ 0x10000 + 0x10000 ∧
    (let l := (hostLoc linkS 0x6FF80 .read).getD (locOf (.nomem 0))
     hostLoc linkS 0x6FF80 .read = some l ∧ hostLoc linkS 0x6FF80 .write = some l ∧ poisoned linkS l 128 = false ∧
     lineBusy linkS l = false ∧ agentFree linkS (agentId 0 (32 + 255)) [l.node] = true ∧ hostLoc linkS 0x6FF80 .rmw = some l) ∧ 7 % 2 = 1 ∧ 7 / 2 % 2 = 1 ∧
    7 / 4 % 2 = 1 ∧ 6 % 2 = 0 := by decide +kernel

theorem witness_PowerAndResets : (16 : Fin 17) ≠ 0 ∧ smallS.boot.started = true ∧ smallS.links.waiting = [] ∧
    (withWork smallS (fun w => { w with launches := [{ aLaunch with fn := 16 }] })).launchAt 0 = some { aLaunch with fn := 16 } ∧
    aLaunch.complete = false ∧ 105 ≤ 105 ∧
    ({ smallS with power := { smallS.power with target := some (1250, 600, some 0) } } : State).power.target = some (1250, 600, some 0) ∧
    (let s := smallS.mapBox 20 (fun b => { b with busy := true })
     (Tbl.find s.boxes 20).map Mailbox.busy = some true) := by decide +kernel

/-! An image of tile 0 in 26 frames from VA 0x20000000 on, whose stepping is the device's own: its crc is the one that R399
asks for, never evaluated here. -/

theorem get_append_left {m n : Memory} {a : Nat} (h : ∀ e ∈ n, e.1 ≠ a) : Memory.get (m ++ n) a = Memory.get m a := by
  induction m with
  | nil =>
    induction n with
    | nil => rfl
    | cons e n ih =>
      have hn := ih (fun x hx => h x (by simp [hx]))
      have he := h e (by simp)
      simp_all [Memory.get]
  | cons e m ih => simp only [List.cons_append, Memory.get, ih]

theorem get_append_right {m n : Memory} {a : Nat} (h : ∀ e ∈ m, e.1 ≠ a) : Memory.get (m ++ n) a = Memory.get n a := by
  induction m with
  | nil => rfl
  | cons e m ih => simp [Memory.get, h e (by simp), ih (fun x hx => h x (by simp [hx]))]

theorem bytes_congr {m n : Memory} {k : Nat} {a : Nat} (h : ∀ b, a ≤ b → b < a + k → Memory.get m b = Memory.get n b) :
    Memory.bytes m a k = Memory.bytes n a k := by
  induction k generalizing a with
  | zero => rfl
  | succ k ih =>
    rw [Memory.bytes, Memory.bytes, h a (by omega) (by omega), ih (fun b hb hk => h b (by omega) (by omega))]

theorem bytes_add (m : Memory) (a i j : Nat) : Memory.bytes m a (i + j) = Memory.bytes m a i ++ Memory.bytes m (a + i) j := by
  induction i generalizing a with
  | zero => simp [Memory.bytes]
  | succ i ih => rw [show i + 1 + j = (i + j) + 1 by omega]; simp [Memory.bytes, ih, Nat.add_right_comm, Nat.add_assoc]

theorem bytes_length (m : Memory) (a n : Nat) : (Memory.bytes m a n).length = n := by
  induction n generalizing a with
  | zero => rfl
  | succ n ih => simp [Memory.bytes, ih]

theorem cellsAt_keys {l : List Byte} {a : Nat} {e : Host.Cell} (h : e ∈ cellsAt a l) : a ≤ e.1 ∧ e.1 < a + l.length := by
  induction l generalizing a with
  | nil => simp [cellsAt] at h
  | cons b l ih =>
    simp only [cellsAt, List.mem_cons] at h
    rcases h with rfl | h
    · simp
    · have := ih h; simp; omega

theorem bytes_cellsAt (l : List Byte) (m n : Memory) (a : Nat) (hm : ∀ e ∈ m, e.1 < a) :
    Memory.bytes (m ++ (cellsAt a l ++ n)) a l.length = l := by
  induction l generalizing m a with
  | nil => rfl
  | cons b l ih =>
    have hg : Memory.get (m ++ (cellsAt a (b :: l) ++ n)) a = b := by
      rw [get_append_right (fun e he => by have := hm e he; omega)]; simp [cellsAt, Memory.get]
    simp only [List.length_cons, Memory.bytes, hg]
    have := ih (m ++ [(a, b)]) (a + 1) (fun e he => by
      simp only [List.mem_append, List.mem_singleton] at he
      rcases he with he | rfl
      · have := hm e he; omega
      · simp)
    simp only [List.append_assoc, List.singleton_append] at this
    rw [cellsAt, List.cons_append, this]

theorem ofBytes_bytesOf (n x : Nat) : ofBytes (bytesOf n x) = x % 256 ^ n := by
  induction n generalizing x with
  | zero => simp [bytesOf, ofBytes, Nat.mod_one]
  | succ n ih =>
    simp only [bytesOf, ofBytes, ih, BitVec.toNat_ofNat]
    rw [Nat.pow_succ' (m := 256), Nat.mod_mul]

theorem crcByte_lt (n c : Nat) (h : c < 2 ^ 32) : crcByte n c < 2 ^ 32 := by
  induction n generalizing c with
  | zero => exact h
  | succ n ih =>
    simp only [crcByte]; apply ih; split
    · exact Nat.xor_lt_two_pow (by omega) (by decide)
    · omega

theorem crc32c_lt (bs : List Byte) : crc32c bs < 2 ^ 32 := by
  refine Nat.xor_lt_two_pow ?_ (by decide)
  have : ∀ (l : List Byte) c, c < 2 ^ 32 → l.foldl (fun c b => crcByte 8 (c ^^^ b.toNat)) c < 2 ^ 32 := by
    intro l
    induction l with
    | nil => intro c h; exact h
    | cons b l ih => intro c h; exact ih _ (crcByte_lt _ _ (Nat.xor_lt_two_pow h (Nat.lt_of_lt_of_le b.isLt (by decide))))
  exact this bs _ (by decide)

/-- The header of R399 up to its crc: magic, version, stepping, a little tile 0, ASID 0, stamp 1, generation 5. -/
def imgHead : List Byte :=
  [0x49, 0x4D, 0x47, 0x00, 1, 0] ++ (bytesOf 2 Config.stepping.toNat ++ ([0, 0, 0, 0] ++ ([0, 0, 0, 0] ++
    ([0, 0, 0, 0, 0, 0, 0, 0] ++ ([1, 0, 0, 0, 0, 0, 0, 0] ++ ([5, 0, 0, 0, 0, 0, 0, 0] ++
    [0, 0, 0, 0, 0, 0, 0, 0, 0, 0, 0, 0, 0, 0, 0, 0]))))))
/-- Tables that map VA 0x20000000 as a page of 512 MiB at the same physical address. -/
def imgTables : Memory := Memory.setNum bigS.mem 0x110008 8 (0x2000 * 2 ^ 24 + 0x17)
def imgMem0 : Memory := imgTables ++ cellsAt 0x20000000 imgHead
def imgFrames : List Nat := (List.range 26).map (fun k => 0x20000000 + 65536 * k)
def imgZeroed : List Byte :=
  Memory.bytes imgMem0 0x20000000 56 ++ [0, 0, 0, 0] ++
    (Memory.bytes imgMem0 (0x20000000 + 60) 65476 ++ (imgFrames.drop 1).flatMap (fun f => Memory.bytes imgMem0 f 65536))
def imgMem : Memory := imgTables ++ (cellsAt 0x20000000 (imgHead ++ bytesOf 4 (crc32c imgZeroed)))

theorem imgHead_length : imgHead.length = 56 := rfl
theorem imgTables_low : ∀ e ∈ imgTables, e.1 < 0x20000000 := by decide +kernel

theorem cellsAt_append (a : Nat) (l k : List Byte) : cellsAt a (l ++ k) = cellsAt a l ++ cellsAt (a + l.length) k := by
  induction l generalizing a with
  | nil => rfl
  | cons b l ih => simp [cellsAt, ih, Nat.add_assoc, Nat.add_comm 1]

theorem imgMem_eq : imgMem = imgMem0 ++ cellsAt (0x20000000 + 56) (bytesOf 4 (crc32c imgZeroed)) := by
  simp only [imgMem, imgMem0, cellsAt_append, imgHead_length, List.append_assoc]

theorem imgMem_get {a : Nat} (h : a < 0x20000000 + 56 ∨ 0x20000000 + 60 ≤ a) : Memory.get imgMem a = Memory.get imgMem0 a := by
  rw [imgMem_eq]
  exact get_append_left (fun e he => by have := cellsAt_keys he; simp [bytesOf] at this; omega)

theorem imgMem_low {a : Nat} (h : a < 0x20000000) : Memory.get imgMem a = Memory.get imgTables a :=
  get_append_left (fun e he => by have := cellsAt_keys he; omega)

theorem imgMem_num {a : Nat} (h : a + 8 ≤ 0x20000000) : Memory.num imgMem a 8 = Memory.num imgTables a 8 := by
  rw [Memory.num, Memory.num, bytes_congr (fun b _ hb => imgMem_low (by omega))]

/-- The image's state: no work, tile 0 stopped or not as a test asks, and what the module keeps of the image. -/
def imgS (fr : Freeze) : State :=
  { bigS with mem := imgMem, freeze := fr, parts := [{ fn := 0, clusters := [0], tiles := [] }] }

theorem imgMem_walk (va : Nat) (h : va / 2 ^ 29 = 1) : walk imgMem [] 0x100000 va = .inr (leafOf (0x2000 * 2 ^ 24 + 0x17) true) := by
  have h1 : va / 2 ^ 42 % 1024 = 0 := by omega
  have h2 : va / 2 ^ 29 % 8192 = 1 := by omega
  have e1 : walkLevel imgMem [] 1 0x100000 0 = .inr (0x11000001, false) := by
    rw [walkLevel, imgMem_num (by decide)]; decide +kernel
  have e2 : walkLevel imgMem [] 2 0x110000 1 = .inr (0x2000 * 2 ^ 24 + 0x17, true) := by
    rw [walkLevel, imgMem_num (by decide)]; decide +kernel
  simp only [walk, h1, h2, e1]
  rw [show 285212673 / 2 ^ 24 * 65536 = 0x110000 by decide, e2]

theorem img_translate (fr : Freeze) (va : Nat) (k : Access) (h : va / 2 ^ 29 = 1) (hk : k ≠ .fetch) :
    ∃ l, translate (imgS fr) 0 va k = .ok l ∧ l.key = va ∧ l.leaf = some (leafOf (0x2000 * 2 ^ 24 + 0x17) true) := by
  have hw := imgMem_walk va h
  have ha : (imgS fr).maps.aliases = [] := rfl
  have hd : Tbl.find (imgS fr).work.asids 0 = some { root := 0x100000, directed := false, owner := 0 } := rfl
  have hm : (imgS fr).mem = imgMem := rfl
  have hpo : (imgS fr).poison = [] := rfl
  have hkey : leafKey (leafOf (0x2000 * 2 ^ 24 + 0x17) true) va = va := by
    have : leafKey (leafOf (0x2000 * 2 ^ 24 + 0x17) true) va = 0x2000 * 65536 + va % 2 ^ 29 := rfl
    rw [this]; omega
  have hb : deviceBacked va = true := by simp only [deviceBacked, Bool.or_eq_true, decide_eq_true_eq]; left; omega
  cases k <;> first
    | exact absurd rfl hk
    | exact ⟨_, by
        simp only [Sys2Proof.Machine.translate, ha, Sys2Proof.Machine.aliasIn, Option.getD, hd, hm, hpo, hw]; rw [hkey, hb]; rfl, rfl, rfl⟩

theorem img_readSpace (fr : Freeze) (n va : Nat) (h : 2 ^ 29 ≤ va) (hn : va + n ≤ 2 ^ 30) :
    readSpace (imgS fr) 0 va n = some (Memory.bytes imgMem va n) := by
  induction n generalizing va with
  | zero => rfl
  | succ n ih =>
    obtain ⟨l, hl, hk, -⟩ := img_translate fr va .read (by omega) (by decide)
    have hp : poisoned (imgS fr) l 1 = false := rfl
    have hc : ¬ cluBase ≤ va := by simp only [cluBase]; omega
    simp only [readSpace, hc, if_false, hl, hp, ih (va + 1) (by omega) (by omega), hk, Memory.bytes]
    rfl

theorem img_spanFrames (fr : Freeze) (k : Access) (hk : k ≠ .fetch) (n va : Nat) (h : 2 ^ 29 ≤ va)
    (hn : va + 65536 * n ≤ 2 ^ 30) : spanFrames (imgS fr) va k n = some ((List.range n).map (fun i => va + 65536 * i)) := by
  induction n generalizing va with
  | zero => rfl
  | succ n ih =>
    obtain ⟨l, hl, he, hf⟩ := img_translate fr va k (by omega) hk
    have hc : ¬ cluBase ≤ va := by simp only [cluBase]; omega
    have h2 : ((leafOf (0x2000 * 2 ^ 24 + 0x17) true).loc == 0) = true := rfl
    have h3 : decide (va < 0x400000000) = true := decide_eq_true (by omega)
    have ha : 2 ^ 29 ≤ va + 65536 := Nat.le_trans h (Nat.le_add_right _ _)
    have hb : va + 65536 + 65536 * n ≤ 2 ^ 30 := by have := Nat.mul_succ 65536 n; omega
    simp only [spanFrames, hc, if_false, hl, he, hf, Option.map_some, Option.getD_some, h2, h3, Bool.and_self, if_true,
      ih (va + 65536) ha hb, List.range_succ_eq_map, List.map_cons, List.map_map, Nat.mul_zero, Nat.add_zero]
    have hi : ∀ i, va + 65536 + 65536 * i = va + 65536 * (i + 1) := fun i => by omega
    have hm : (List.range n).map (fun i => va + 65536 + 65536 * i) = (List.range n).map (fun i => va + 65536 * (i + 1)) :=
      List.map_congr_left (fun i _ => hi i)
    rw [hm]
    rfl

theorem bytes_split (m n : Memory) (c : List Byte) (a k w : Nat) (fs : List Nat) (hw : w = 56 + (4 + k))
    (hm : ∀ b, b < a + 56 ∨ a + 60 ≤ b → Memory.get m b = Memory.get n b) (hc : Memory.bytes m (a + 56) 4 = c)
    (hf : ∀ f ∈ fs, a + 60 ≤ f) : (a :: fs).flatMap (fun f => Memory.bytes m f w) =
      Memory.bytes n a 56 ++ (c ++ (Memory.bytes n (a + 60) k ++ fs.flatMap (fun f => Memory.bytes n f w))) := by
  have h1 : Memory.bytes m a 56 = Memory.bytes n a 56 := bytes_congr (fun b _ hb => hm b (Or.inl hb))
  have h2 : Memory.bytes m (a + 56 + 4) k = Memory.bytes n (a + 60) k :=
    bytes_congr (fun b hb _ => hm b (Or.inr (by omega)))
  have h3 : fs.flatMap (fun f => Memory.bytes m f w) = fs.flatMap (fun f => Memory.bytes n f w) :=
    congrArg List.flatten (List.map_congr_left (fun f h =>
      bytes_congr (fun b hb _ => hm b (Or.inr (by have := hf f h; omega)))))
  subst hw
  rw [List.flatMap_cons, h3, bytes_add, bytes_add, h1, hc, h2]
  simp only [List.append_assoc]

theorem img_all : frameBytes imgMem imgFrames = Memory.bytes imgMem0 0x20000000 56 ++ (bytesOf 4 (crc32c imgZeroed) ++
    (Memory.bytes imgMem0 (0x20000000 + 60) 65476 ++ (imgFrames.drop 1).flatMap (fun f => Memory.bytes imgMem0 f 65536))) := by
  have hc : Memory.bytes imgMem (0x20000000 + 56) 4 = bytesOf 4 (crc32c imgZeroed) := by
    have hl : (bytesOf 4 (crc32c imgZeroed)).length = 4 := rfl
    have := bytes_cellsAt (bytesOf 4 (crc32c imgZeroed)) imgMem0 [] (0x20000000 + 56) (fun e he => by
      rcases List.mem_append.mp he with h | h
      · have := imgTables_low e h; omega
      · have := cellsAt_keys h; rw [imgHead_length] at this; omega)
    rw [List.append_nil, hl] at this
    rw [imgMem_eq, this]
  exact bytes_split imgMem imgMem0 _ 0x20000000 65476 65536 (imgFrames.drop 1) (by decide) (fun _ h => imgMem_get h) hc
    (by decide +kernel)

theorem take_drop (a c d r z : List Byte) (h1 : a.length = 56) (h2 : c.length = 4) (hz : z = [0, 0, 0, 0]) :
    (a ++ (c ++ (d ++ r))).take 56 ++ z ++ (a ++ (c ++ (d ++ r))).drop 60 = a ++ [0, 0, 0, 0] ++ (d ++ r) := by
  rw [List.take_left' h1, ← List.append_assoc a, List.drop_left' (by rw [List.length_append, h1, h2]), hz]

/-- The header reads back with its stepping, tile and generation. -/
theorem img_header (fr : Freeze) : readHeader (imgS fr) 0x20000000 =
    some { stepping := Config.stepping.toNat, big := false, tile := 0, asid := 0, stamp := 1, gen := 5 } := by
  have hs : Config.stepping.toNat % 256 ^ 2 = Config.stepping.toNat := Nat.mod_eq_of_lt Config.stepping.isLt
  have hcrc : crc32c imgZeroed % 256 ^ 4 = crc32c imgZeroed := Nat.mod_eq_of_lt (crc32c_lt _)
  have hb : Memory.bytes imgMem 0x20000000 64 = imgHead ++ bytesOf 4 (crc32c imgZeroed) ++ Memory.bytes imgMem (0x20000000 + 60) 4 := by
    have := bytes_cellsAt (imgHead ++ bytesOf 4 (crc32c imgZeroed)) imgTables [] 0x20000000 imgTables_low
    rw [List.append_nil, show (imgHead ++ bytesOf 4 (crc32c imgZeroed)).length = 60 from rfl] at this
    rw [show (64 : Nat) = 60 + 4 from rfl, bytes_add]
    exact congrArg (· ++ _) this
  have hz : (frameBytes imgMem imgFrames).take 56 ++ [0, 0, 0, 0] ++ (frameBytes imgMem imgFrames).drop 60 = imgZeroed := by
    rw [img_all]
    exact take_drop _ _ _ _ _ (bytes_length ..) rfl rfl
  have hf : spanFrames (imgS fr) 0x20000000 .read 26 = some imgFrames := img_spanFrames fr .read (by decide) 26 _ (by decide) (by decide)
  have hst : ofBytes (bytesOf 2 Config.stepping.toNat) = Config.stepping.toNat := by rw [ofBytes_bytesOf, hs]
  have hcr : ofBytes (bytesOf 4 (crc32c imgZeroed)) = crc32c imgZeroed := by rw [ofBytes_bytesOf, hcrc]
  have hp : imgFrames.any (fun f => (imgS fr).poison.any (fun u => f ≤ u && u < f + 65536)) = false := by
    simp [imgS, show bigS.poison = [] from rfl]
  generalize hx : crc32c imgZeroed = x at hb hcr
  generalize hy : Memory.bytes imgMem (0x20000000 + 60) 4 = y at hb
  unfold readHeader
  rw [show (0x20000000 : Word).toNat = 0x20000000 from rfl, if_neg (by decide), img_readSpace fr 64 _ (by decide) (by decide), hb, Option.bind_some]
  have f (o k : Nat) (z : List Byte) (h : ((imgHead ++ bytesOf 4 x ++ y).drop o).take k = z) :
      ofBytes (((imgHead ++ bytesOf 4 x ++ y).drop o).take k) = ofBytes z := by rw [h]
  simp only [f 0 4 [0x49, 0x4D, 0x47, 0] rfl, f 4 2 [1, 0] rfl, f 12 4 [0, 0, 0, 0] rfl, f 6 2 (bytesOf 2 Config.stepping.toNat) rfl,
    f 8 1 [0] rfl, f 16 2 [0, 0] rfl, f 24 8 [1, 0, 0, 0, 0, 0, 0, 0] rfl, f 32 8 [5, 0, 0, 0, 0, 0, 0, 0] rfl,
    f 56 4 (bytesOf 4 x) rfl, hst, hcr]
  rw [show fieldTile (ofBytes [0, 0, 0, 0]) = 0 from rfl, show imageSize 0 / 65536 = 26 from rfl, hf, if_neg (by decide),
    Option.bind_some, if_neg]
  · rfl
  · rw [hp]
    simp only [Bool.false_eq_true, false_or, ne_eq, Classical.not_not]
    rw [show (imgS fr).mem = imgMem from rfl, hz, hx]

/-- A supervisor's mailbox takes any command in bigS, and the host's one whose code its command holds. -/
theorem accepts_super (fr : Freeze) (code : Nat) : Accepts { bigS with freeze := fr } 20 code :=
  ⟨.inl (by decide), rfl, ⟨rfl, rfl⟩, fun _ => rfl⟩
theorem accepts_img (fr : Freeze) (code : Nat) : Accepts (imgS fr) 20 code := ⟨.inl (by decide), rfl, ⟨rfl, rfl⟩, fun _ => rfl⟩
def frost (t : Tile) (images : List Image) : Freeze := { tiles := [(0, t)], images := images, nextGen := 6, retired := [], hubs := [] }
def anImage : Image :=
  { addr := 0x20000000, tile := 0, gen := 5, stamp := 1, asid := 0, pondva := 0, threads := [], pond := [], poison := [] }
def tileS (t : Tile) : State := { bigS with freeze := frost t [anImage] }
theorem witness_Tiles :
    (Accepts bigS 20 0x30 ∧ tileThere bigS 0 = true ∧ tileTakes bigS 0 = true ∧ holdsSuper 0 = false) ∧
    (let s := imgS (frost { Tile.fresh with state := .frozen } [])
     Accepts s 20 0x31 ∧ (s.tile 0).state = .frozen ∧ (s.tile 0).saving = none ∧
     (spanFrames s 0x20000000 .write (imageSize 0 / 65536)).isSome ∧ (spanFrames s 0x20200000 .write 1).isSome) ∧
    (let s := imgS (frost { Tile.fresh with state := .frozen, saving := some (0x20000000, 0, 20) } [])
     (s.tile 0).saving = some (0x20000000, 0, (20 : Fin 21).val) ∧ saveReady s 0 = true ∧
     spanFrames s 0x20000000 .write (imageSize 0 / 65536) = some imgFrames) ∧
    (let s := tileS { Tile.fresh with state := .saved, gen := 5 }
     Accepts s 20 0x32 ∧ Accepts s 20 0x33 ∧ (s.tile 0).state = .saved ∧ (s.tile 0).saving = none) ∧
    restoreFault bigS (readHeader bigS 0) 0 false = 1 ∧
    (let s := imgS (frost Tile.fresh [anImage])
     Accepts s 20 0x34 ∧ tileThere s 0 = true ∧ restoreFault s (readHeader s 0x20000000) 0 false = 0) ∧
    (let s := imgS (frost { Tile.fresh with loading := some (0x20000000, false, 20) } [anImage])
     (s.tile 0).loading = some (0x20000000, false, (20 : Fin 21).val) ∧ (∃ h, readHeader s 0x20000000 = some h ∧
       h.stepping = Config.stepping.toNat ∧ s.freeze.images.find? (fun i => i.gen == h.gen) = some anImage ∧ h.tile = 0) ∧
     anImage.tile = 0) ∧
    (Accepts (imgS (frost Tile.fresh [anImage])) 20 0x35 ∧ imageAt (imgS (frost Tile.fresh [anImage])) 0x20000000 = some anImage) ∧
    (let s := imgS (frost { Tile.fresh with state := .frozen } [anImage])
     Accepts s 20 0x34 ∧ tileThere s 0 = true ∧ restoreFault s (readHeader s 0x20000000) 0 false = 4) ∧
    (let x : Tile := { Tile.fresh with state := .frozen, held := [.load 3] }
     let s := tileS x
     tileTakes s 0 = false ∧ (s.tile 0).held = .load 3 :: [] ∧ (s.tile 0).pond = []) ∧
    (let f : Forward := ⟨1, 5, 0, [], [], []⟩
     let s : State := { bigS with freeze := { frost Tile.fresh [] with
       tiles := [(0, { Tile.fresh with state := .vacant, forwards := [f], held := [.load 3, .load 64] }), (1, { Tile.fresh with state := .frozen })] } }
     (s.tile 0).pond.find? (fun e => goesOnward s 0 e.packet) = none ∧ (s.tile 0).held.find? (goesOnward s 0) = some (.load 64) ∧
     ((Packet.load 64).slot s).map tileOf = some 1 ∧ tileTakes s 1 = false) ∧
    (let f : Forward := ⟨1, 5, 0, [], [], []⟩
     let s := tileS { Tile.fresh with state := .vacant, forwards := [f], pond := [⟨.load 64, 0⟩] }
     (s.tile 0).pond.find? (fun e => goesOnward s 0 e.packet) = some ⟨.load 64, 0⟩ ∧ tileTakes s 1 = true) ∧
    (let s := tileS { Tile.fresh with loading := some (0, false, 20) }
     (s.tile 0).loading = some (0, false, (20 : Fin 21).val) ∧ (readHeader s 0).isNone) ∧
    (∀ e ∈ [(⟨.load 3, 0⟩ : PondEntry), ⟨.copy 4 [] 0, 0⟩], (mergeNotice (.load 3) e).isSome = false ∧
      (mergeNotice (.copy 3 [] 0) e).isSome = false) ∧
    (bigS.shoe (tileCluster 0)).items.length + bigS.threads.length ≤ 4096 ∧
    (let f : Forward := ⟨1, 5, 0, [], [], []⟩
     let s : State := { tileS { Tile.fresh with state := .vacant, forwards := [f] } with cycle := 65536 }
     (s.tile 0).forwards.find? (forwardDone s 0) = some f) := by
  have hspan (fr : Freeze) : spanFrames (imgS fr) 0x20000000 .write 26 = some imgFrames :=
    img_spanFrames fr .write (by decide) 26 _ (by decide) (by decide)
  have hs : imageSize 0 / 65536 = 26 := rfl
  refine ⟨⟨accepts_super _ _, by decide +kernel⟩, ⟨accepts_img _ _, rfl, rfl, ?_, ?_⟩, ⟨rfl, rfl, ?_⟩,
    ⟨accepts_super _ _, accepts_super _ _, by decide +kernel⟩, by decide +kernel, ⟨accepts_img _ _, rfl, ?_⟩,
    ⟨rfl, ⟨_, img_header _, rfl, rfl, rfl⟩, rfl⟩, ⟨accepts_img _ _, ?_⟩, ⟨accepts_img _ _, rfl, ?_⟩, by decide +kernel, by decide +kernel,
    by decide +kernel, by decide +kernel, by decide +kernel, by decide +kernel, by decide +kernel⟩
  · rw [hs, hspan]; rfl
  · rw [img_spanFrames _ .write (by decide) 1 _ (by decide) (by decide)]; rfl
  · rw [hs, hspan]
  · rw [img_header]; simp only [restoreFault, ne_eq, not_true_eq_false, false_and, if_false]; rfl
  · rw [imageAt, img_header]; rfl
  · rw [img_header]; simp only [restoreFault, ne_eq, not_true_eq_false, false_and, if_false]; rfl

/-- The host's mailbox with a command's code in it. -/
def boxS (s : State) (code : Nat) : State := s.mapBox 0 (fun b => { b with op := BitVec.ofNat 64 code })
theorem accepts_box (s : State) {code : Nat} (h : (decide (code < 65536) && !(s.box 0).busy && !s.power.critical && !s.boot.halted &&
    (code ≤ 3 || s.boot.started)) = true) : Accepts (boxS s code) 0 code := by
  simp only [Bool.and_eq_true, Bool.or_eq_true, decide_eq_true_eq, Bool.not_eq_true'] at h
  have hb : (boxS s code).box 0 = { s.box 0 with op := BitVec.ofNat 64 code } := by
    simp [boxS, State.mapBox, State.box, Tbl.at, find_put_same]
  refine ⟨.inr ?_, ?_, ⟨h.1.1.2, h.1.2⟩, fun hc => h.2.resolve_left (by omega)⟩
  · rw [show ((0 : Fin 21).val) = 0 from rfl, hb]
    simp only [BitVec.toNat_ofNat]; omega
  · rw [show ((0 : Fin 21).val) = 0 from rfl, hb]; exact h.1.1.1.2

/-- A quota of 4 ASIDs for function 0, of which two are taken. -/
def mapS : State :=
  let s := bigS.mapFunc 0 (fun x => { x with quota := 4 })
  { s with work := { s.work with asids := s.work.asids ++ [(5, { root := 0x100000, directed := false, owner := 0 })] } }
theorem witness_MappingCommands :
    (Accepts (boxS mapS 0x11) 0 0x11 ∧ Tbl.find mapS.work.asids 7 = none ∧ deviceBacked 0x200000 = true ∧
      asidsOf (boxS mapS 0x11) 0 < ((boxS mapS 0x11).func 0).quota) ∧
    (Accepts (boxS mapS 0x12) 0 0x12 ∧ ownsAsid (boxS mapS 0x12) 0 5 = true ∧
      mapS.work.launches.any (fun l => l.asid == 5 && !l.complete) = false) ∧
    Accepts (boxS mapS 0x13) 0 0x13 ∧
    (let s := boxS mapS 0x20
     Accepts s 0 0x20 ∧ ownsAsid s 0 0 = true ∧
     (let leaf := 2 ^ 56 + 0x117
      badLeaf leaf 0x80000 false = false ∧ covered s 0 0x80000 false = false ∧ sizeClash s 0 0x80000 false = false ∧
      mayShare s 0 0 leaf false = true ∧ framesToFill s 0 leaf false = [] ∧ s.maps.fills = [] ∧ s.weir.nodes = []) ∧
     (let leaf := 0x17 * 2 ^ 24 + 0x17
      badLeaf leaf 0x80000 false = false ∧ mayShare s 0 0 leaf false = true ∧ framesToFill s 0 leaf false ≠ [])) ∧
    (let leaf : Word := 0x17 * 2 ^ 24 + 0x17
     let s : State := { mapS with maps := { mapS.maps with fills := [(0, 0, 0x80000, leaf, false)] } }
     s.maps.fills = (0, 0, 0x80000, leaf, false) :: [] ∧ s.weir.nodes = [] ∧ framesToFill s 0 leaf.toNat false ≠ []) ∧
    (let e := leafEntry mapS 0 0x20000
     mapS.links.waiting = [] ∧ ownsAsid mapS 0 0 = true ∧ e.isSome ∧
     e.map (fun x => x.2.big) = some false ∧
     agentFree mapS (agentId 3 0) (homesOfLines mapS (pageLines mapS 0 0x20000 false).2) = true ∧ e.map (fun x => x.2.frame) = some 0x14 ∧ badLeaf (0x14 * 2 ^ 24 + 0x13) 0x20000 false = false ∧
     Accepts (boxS mapS 0x21) 0 0x21 ∧ Accepts (boxS mapS 0x22) 0 0x22) ∧
    (Accepts (boxS mapS 0x23) 0 0x23 ∧ mapS.maps.aliases.length < 16384 ∧ (Tbl.find mapS.work.asids 5).isSome ∧
     mappedBig mapS 5 0x20000 = some false ∧ mappedBig mapS 0 0x90000 ≠ some (!false) ∧ 0x90000 % pageSize false = 0 ∧
     (let s : State := { mapS with mem := Memory.setNum bigMem 0x110008 8 (0x2000 * 2 ^ 24 + 0x17) }
      mappedBig s 5 0x20000000 = some true ∧ mappedBig s 0 0x40000000 ≠ some (!true) ∧ covered s 0 0x40000000 true = false ∧
      0x40000000 % pageSize true = 0) ∧
     aliasIn mapS.maps.aliases 0 0x90000 = none ∧ mapS.links.waiting = [] ∧
     agentFree mapS (agentId 3 0) (pageHomes mapS 0 0x90000 false) = true) ∧
    (let s : State := { mapS with maps := { mapS.maps with aliases := [(0, 0x90000, 5, 0x20000, 16)] } }
     Accepts (boxS s 0x24) 0 0x24 ∧ ownsAsid s 0 0 = true ∧ mappedBig s 0 0x90000 = none ∧
     s.maps.aliases.any (fun e => e.1 == 0 && e.2.1 == 0x90000) = true ∧ s.links.waiting = [] ∧ s.weir.nodes = []) := by
  refine ⟨⟨accepts_box _ ?_, ?_⟩, ⟨accepts_box _ ?_, ?_⟩, accepts_box _ ?_, ⟨accepts_box _ ?_, ?_⟩, ?_,
    ⟨?_, ?_, ?_, ?_, agentFree_of rfl, ?_, ?_, accepts_box _ ?_, accepts_box _ ?_⟩, ⟨accepts_box _ ?_, ?_⟩, ⟨accepts_box _ ?_, ?_⟩⟩ <;>
  decide +kernel

theorem witness_MailboxCommands :
    Accepts bigS 20 0x01 ∧
    (let s := boxS State.reset 2
     Accepts s 0 2 ∧ s.boot.started = false ∧ s.boot.failed = none) ∧
    (let s := boxS { State.reset with boot := { State.reset.boot with firmware := true } } 3
     Accepts s 0 3 ∧ s.boot.started = false ∧ s.boot.failed = none ∧ s.boot.firmware = true) ∧
    (Accepts (boxS bigS 0x10) 0 0x10 ∧ (∀ c ∈ [0], c ∈ presentClusters bigS) ∧
      (∀ t ∈ [16], t < 1024 ∧ tileCluster t ∈ presentClusters bigS ∧ ¬ tileCluster t ∈ [0]) ∧
      (bigS.parts.filter (fun q => q.fn != 1)).any (overlaps { fn := 1, clusters := [0], tiles := [16] }) = false ∧
      (bigS.parts.filter (fun q => q.fn != 1)).length < 16) ∧
    (Accepts (boxS bigS 0x40) 0 0x40 ∧ (1024 = 2 ^ 10)) ∧
    (Accepts (boxS smallS 0x41) 0 0x41 ∧ launchBy smallS 0 aLaunch.seq = some 0 ∧ smallS.launchAt 0 = some aLaunch ∧
      Accepts (boxS smallS 0x42) 0 0x42 ∧ Accepts smallS 20 0x42 ∧ aLaunch.complete = false ∧
      (aLaunch.acked && launchIdle smallS 0 aLaunch) = false) ∧
    (Accepts bigS 20 0x43 ∧ ¬ (0 : Fin 64).val ∈ bigS.boot.absent) ∧
    (Accepts (boxS bigS 0x50) 0 0x50 ∧ 2 ^ 26 = 2 ^ 26) ∧
    (Accepts bigS 20 0x51 ∧ bigS.links.waiting = [] ∧ bigS.weir.nodes = [] ∧
      (placeCells bigS 0 .write (0x20000 + 32) (bytesOf 8 0x30000 ++ bytesOf 8 0x40000)).isSome) ∧
    (let s : State := { bigS.withCur { bigS.cur with place := .parked } with
       work := { bigS.work with launches := [{ aLaunch with fn := 1 }] } }
     Accepts (boxS s 0x42) 0 0x42 ∧ hostStands (boxS s 0x42) = true ∧ launchBy s 1 aLaunch.seq = some 0) ∧
    Accepts (boxS bigS 0x52) 0 0x52 ∧
    (Accepts (boxS bigS 0x60) 0 0x60 ∧ bigS.power.hold = false ∧ 1000 ≤ bigS.power.clock ∧
      ({ bigS with power := { bigS.power with clock := 800 } } : State).power.clock < 1250) ∧
    Accepts bigS 20 0x61 ∧ Accepts bigS 20 0x62 ∧ Accepts (boxS bigS 0x63) 0 0x63 ∧
    (Accepts bigS 20 0x7777 ∧ commandCodes.contains 0x7777 = false) ∧
    (let s := bigS.mapBox 0 (fun b => { b with busy := true, result := some (0, [1]) })
     (s.box (0 : Fin 21).val).busy = true ∧ (s.box (0 : Fin 21).val).result = some (0, [1])) := by
  have h (c : Nat) : Accepts bigS 20 c := accepts_super bigS.freeze c
  refine ⟨h _, ⟨accepts_box _ ?_, ?_⟩, ⟨accepts_box _ ?_, ?_⟩, ⟨accepts_box _ ?_, ?_⟩, ⟨accepts_box _ ?_, ?_⟩,
    ⟨accepts_box _ ?_, ?_, ?_, accepts_box _ ?_, ⟨.inl (by decide), rfl, ⟨rfl, rfl⟩, fun _ => rfl⟩, ?_⟩, ⟨h _, ?_⟩,
    ⟨accepts_box _ ?_, ?_⟩, ⟨h _, ?_⟩, ⟨accepts_box _ ?_, ?_⟩, accepts_box _ ?_, ⟨accepts_box _ ?_, ?_⟩, h _, h _, accepts_box _ ?_, ⟨h _, ?_⟩, ?_⟩ <;>
  decide +kernel

/-- A word placed where the next step fetches runs in that step. -/
def placed (s : State) (nbits w : Nat) : State := s.withFetchWord nbits w
def okWord (c : Chk Nat) : Option Nat :=
  match c with
  | .ok w => some w
  | _ => none

/-- The issuing thread of a state, when nothing else happens, and one that stops on a page of no memory. -/
def issues (s : State) : Bool := (chooseEvent s).isNone && canIssue (drawn s)
def withCur (f : Thread → Thread) : State := bigS.withCur (f bigS.cur)
def noMem : State :=
  { bigS with mem := page bigMem 11 (0x40000 * 2 ^ 24 + 0x1F), cur := { bigS.cur with r := { bigS.cur.r with pc := 0xB0000 } } }
theorem witness_StepRunsDecoded_before :
    (let s := withCur (fun t => { t with stepOwed := some 0 })
     issues s = true ∧ s.cur.stepOwed.isSome) ∧
    (let s := withCur (fun t => { t with owed := some { aRec false with pc := t.r.pc } })
     issues s = true ∧ s.cur.owing = true ∧ s.cur.stepOwed = none) ∧
    (let s := withCur (fun t => { t with ex := { t.ex with count := 4096 } })
     issues s = true ∧ boundaryDue (drawn s) = 2 ∧ s.cur.owing = false) ∧
    (let s := withCur (fun t => { t with r := { t.r with pc := 0x80000 } })
     issues s = true ∧ boundaryDue (drawn s) = 0 ∧ (match fetchWord (drawn s) (drawn s).cur with
       | .trap c v _ => c == cPAGE && v == 0x80000
       | _ => false) = true) ∧
    (issues noMem = true ∧ (match fetchWord (drawn noMem) (drawn noMem).cur with
       | .nomem p => p == 0x400000000
       | _ => false) = true) ∧
    (let s := setG { noMem with cur := bigS.cur } 1 0xB0000
     nextIs (exec (.ld 3 5 1 0 0) (noteTable s)) (fun _ => true) = false) ∧
    (let q := placed bigS 32 0x8C520C03
     let s := q.withCur { q.cur with busy := [waits (.g 4) .load] }
     holdsBack s s.cur (.divz true 3 4 5 0) = true ∧ okWord (fetchWord s s.cur) = some 0x8C520C03 ∧ boundaryDue s = 0) := by
  decide +kernel
theorem witness_StepRunsDecoded_idle :
    (let s : State := { bigS with cur := { bigS.cur with place := .parked }, others := [{ bigS.cur with tid := superTid 1 }] }
     (chooseEvent s).isNone = true ∧ canIssue (drawn s) = false ∧ s.power.critical = false ∧ (passTurn (drawn s)).isSome = true) ∧
    (let s : State := { bigS with cur := { bigS.cur with place := .parked }, others := [] }
     canIssue s = false ∧ passTurn s = none ∧ (pressing s).isEmpty = true) ∧
    (let s : State := { loadingS with others := [] }
     canIssue s = false ∧ passTurn s = none ∧ (pressing s).length = 1) := by decide +kernel

theorem witness_StepRunsDecoded :
    (let s := placed bigS 32 0x8C520C03
     let q := drawn s
     (chooseEvent s).isNone = true ∧ canIssue q = true ∧ q.cur.stepOwed.isNone = true ∧ boundaryDue q = 0 ∧
     okWord (fetchWord q q.cur) = some 0x8C520C03 ∧ decode 0x8C520C03 = some (.divz true 3 4 5 0) ∧
     holdsBack q q.cur (.divz true 3 4 5 0) = false ∧ nextIs (exec (.divz true 3 4 5 0) (noteTable q)) (fun _ => true) = true) ∧
    (okWord (fetchWord (drawn (placed bigS 16 0x0020)) (drawn (placed bigS 16 0x0020)).cur) = some 0x0020 ∧ decode 0x0020 = none) ∧
    (let t := bigS.cur
     t.r.pc.toNat % 2 = 0 ∧ fetchLoc bigS t t.r.pc = .ok (locOf (fetchLoc bigS t t.r.pc)) ∧
     fetchLoc bigS t (t.r.pc + 2) = .ok (locOf (fetchLoc bigS t (t.r.pc + 2))) ∧
     poisoned bigS (locOf (fetchLoc bigS t t.r.pc)) 2 = false ∧ poisoned bigS (locOf (fetchLoc bigS t (t.r.pc + 2))) 2 = false) ∧
    (due bigS).length = 0 := by decide +kernel
theorem witness_RoundTrip : (Instr.divz true 3 4 5 0).wf = true ∧ encode (.divz true 3 4 5 0) = some 0x8C520C03 ∧
    (Instr.addC 7 0 7).wf = true ∧ (encode (.addC 7 0 7)).isSome = true := by decide
theorem witness_EveryBitRead : 0x8C520C03 < 2 ^ (8 * wordBytes 0x8C520C03) ∧ decode 0x8C520C03 = some (.divz true 3 4 5 0) ∧
    0x1122 < 2 ^ (8 * wordBytes 0x1122) ∧ decode 0x1122 = some (.addC 1 1 2) := by decide
theorem witness_ResetState : State.reset.boot.started = false := rfl
theorem witness_MemoryInvariant : bigS.mem.wf = true ∧ nextIs (step (placed bigS 32 0x8C520C03)) (fun _ => true) = true ∧
    (placed bigS 32 0x8C520C03).mem.wf = true := by decide +kernel

/-! Single steps, with results from the spec's examples or worked out by hand from its rules. -/

def runs (i : Instr) (s : State) (p : State → Bool) : Bool := nextIs (exec i s) p

/-- The example of R192: divz.w g3, g4, g5, as a step from its word, and the same without .w. -/
theorem test_divz : nextIs (step (placed (setG (setG bigS 4 0x180000000) 5 0x700000000) 32 0x8C520C03)) (fun t =>
      t.cur.r.g[3] == 0xFFFFFFFFFFFFFFFF && t.cur.r.pc == bigS.cur.r.pc + 4) = true ∧
    runs (.divz false 3 4 5 0) (setG (setG bigS 4 0x180000000) 5 0x700000000) (fun t => t.cur.r.g[3] == 0) = true := by
  decide +kernel
/-- Example of R195: the second and the fourth word of the constant. -/
theorem test_lih : nextIs (step (placed (setG bigS 7 0x24) 32 0x68AC9C99)) (fun t => t.cur.r.g[7] == 0x48D159) = true ∧
    nextIs (step (placed (setG bigS 7 0x91A2B3C4D5) 32 0xE6F79C19)) (fun t => t.cur.r.g[7] == 0x0123456789ABCDEF) = true := by
  decide +kernel
/-- R188, R190: a sum of width 32 wraps and is sign-extended; R191: a field past bit 63 is cut off there. -/
theorem test_add_wraps : runs (.add true 1 2 3 0) (setG (setG bigS 2 0x7FFFFFFF) 3 1) (fun t =>
    t.cur.r.g[1] == 0xFFFFFFFF80000000) = true := by decide +kernel
theorem test_extb_cut : runs (.extb false 1 2 3 0) (setG (setG bigS 2 0xD000000000000000) 3 0x1083C) (fun t =>
    t.cur.r.g[1] == 0xFFFFFFFFFFFFFFFD) = true := by decide +kernel
/-- R198: a branch goes twice its signed offset from its own address. -/
theorem test_blt_back : runs (.blt 0xFFF 1 2 0) (setG (setG bigS 1 0xFFFFFFFFFFFFFFFF) 2 0) (fun t =>
    t.cur.r.pc == bigS.cur.r.pc - 2) = true := by decide +kernel
/-- The example after R236: an f16 product and a sum fused, with and without FTZ, and the product alone. -/
def halves : State := setG (setG (setG bigS 1 0x3C01) 2 0x3C01) 3 0xBC02
theorem test_ffma_f16 : runs (.ffma 1 3 5 1 2 0) halves (fun t => t.cur.r.g[5] == 0x10 && t.cur.r.fflags == 0) = true ∧
    runs (.fmul 3 4 1 2 0) halves (fun t => t.cur.r.g[4] == 0x3C02 && t.cur.r.fflags == 0x10) = true := by decide +kernel
/-- The examples of R239. -/
theorem test_fcvt : runs (.fcvt 0 2 2 7 0) (setG bigS 7 0xC0200000) (fun t =>
      t.cur.r.g[2] == 0xFFFFFFFFFFFFFFFE && t.cur.r.fflags == 0x10) = true ∧
    runs (.fcvt 0 2 2 7 0) (setG bigS 7 0x4F000000) (fun t => t.cur.r.g[2] == 0x7FFFFFFF && t.cur.r.fflags == 1) = true ∧
    runs (.fcvt 1 2 2 7 0) (setG bigS 7 0x4F000000) (fun t => t.cur.r.g[2] == 0x80000000 && t.cur.r.fflags == 0) = true ∧
    runs (.fcvt 3 2 2 7 0) (setG bigS 7 0x47800000) (fun t => t.cur.r.g[2] == 0x7C00 && t.cur.r.fflags == 0x14) = true := by
  decide +kernel
/-- The example of R229: the first draw from SRSEED 1. -/
theorem test_draw : draw 1 = (0x40822041, 0) := by decide +kernel
/-- The example of R260: elements 10 + i packed under 0x00A5. -/
theorem test_vcmpr : runs (.vcmpr 0 1 6 3 0)
    (setP (setV bigS 3 (BitVec.ofNat 512 ((List.range 16).foldl (fun m i => m + (10 + i) * 2 ^ (32 * i)) 0))) 1 0xA5)
    (fun t => t.cur.r.v[6] == BitVec.ofNat 512 (10 + 12 * 2 ^ 32 + 15 * 2 ^ 64 + 17 * 2 ^ 96)) = true := by decide +kernel
/-- The example of R302 with its data at VA 0x81230: e4m3 bytes and the scale 2^-3 in, f32 elements out, and back. -/
def tagged : State :=
  let m := page bigS.mem 8 (0x18 * 2 ^ 24 + 0x17 + 6 * 2 ^ 11 + 2 * 2 ^ 15)
  let m := Memory.setNum (Memory.setNum m 0x181230 5 0x01807E383C) 0x1C4091 1 0x7C
  setG { bigS with mem := m } 6 0x81230
theorem test_vldf : runs (.vldf 2 0 4 6 0) tagged (fun t => t.cur.r.v[4] == BitVec.ofNat 512
    (0x3E400000 + 0x3E000000 * 2 ^ 32 + 0x42600000 * 2 ^ 64 + 0x80000000 * 2 ^ 96 + 0x39800000 * 2 ^ 128)) = true := by
  decide +kernel
theorem test_vstf : runs (.vstf 2 0 4 6 0) (setV tagged 4 (BitVec.ofNat 512
    (0x3E4CCCCD + 0x3E000000 * 2 ^ 32 + 0x42600000 * 2 ^ 64 + 0x80000000 * 2 ^ 96 + 0x39800000 * 2 ^ 128))) (fun t =>
    t.cur.ex.writes.take 6 == [(0x181230, 0x3D), (0x181231, 0x38), (0x181232, 0x7E), (0x181233, 0x80), (0x181234, 0x01), (0x181235, 0)] &&
    t.cur.r.fflags == 0x10) = true := by decide +kernel
/-- The examples of R270 and R268. -/
theorem test_homes : homeSlice bigS 0 0x4000123480 = 66 ∧
    homeSlice { bigS with boot := { bigS.boot with absent := [33, 34] } } 0 0x4000123480 = 98 := by decide +kernel
theorem test_window : (cluLoc { smallS with work := { smallS.work with
      launches := [{ aLaunch with levels := [⟨0, 0, 0, 0, 0⟩, ⟨0, 0, 0, 2, 0⟩] }] } }
    (aThread 0) 0x23480).key = arrayKey 105 + 0x400 := by decide +kernel
/-- The example after R393: the record of trap 7. -/
def traps : State :=
  let t := aThread 0x55F4
  setG (bigS.withCur { t with asid := 0x23, chseq := 0x3120041, r := { t.r with pc := 0x1000001A48 }, launch := none }) 1 0x4000000200
theorem test_trap : runs (.trap 7 0) traps (fun t => t.cur.place == .parked &&
    t.cur.trap.map (fun r => (recWords r).take 6) ==
      some [0x55F40003, 0x1000001A48, 7, 0x4000000200, 0x3120023, 0]) = true := by decide +kernel
/-- R3, R297: a store is buffered little-endian, and the chunk reads it back. -/
theorem test_store : runs (.st 2 1 5 1 0) (setG (setG bigS 5 0x1FF8C) 1 0x11223344) (fun t =>
    t.cur.ex.writes == [(0x13FF90, 0x44), (0x13FF91, 0x33), (0x13FF92, 0x22), (0x13FF93, 0x11)] && t.mem == bigS.mem) = true := by
  decide +kernel

end Sys2Proof.Tests
end

section

/-!
# Memory frames

The operations on a state that leave memory's bytes alone, one rule each (R3). Proofs about memory then rewrite with these
and need not unfold the operations.
-/

namespace Sys2Proof.Machine

@[simp] theorem ite_mem (c : Prop) [Decidable c] (a b : State) : (if c then a else b).mem = if c then a.mem else b.mem :=
  apply_ite State.mem c a b

theorem foldl_mem {β : Type} {f : State → β → State} (h : ∀ s b, (f s b).mem = s.mem) (l : List β) (s : State) :
    (l.foldl f s).mem = s.mem := foldl_keeps State.mem h l s

@[simp] theorem releaseBarrier_mem (s : State) (k : Nat) : (releaseBarrier s k).mem = s.mem := by
  unfold releaseBarrier; split <;> simp [foldl_mem]

@[simp] theorem leaveBarriers_mem (s : State) (tid : Nat) : (leaveBarriers s tid).mem = s.mem := rfl

@[simp] theorem retireItem_mem (s : State) (t : Thread) (keeps : Bool) : (retireItem s t keeps).mem = s.mem := by
  simp [retireItem]

@[simp] theorem handAlone_mem (s : State) (die : Nat) (r : Rec) : (handAlone s die r).mem = s.mem := by
  simp [handAlone]

@[simp] theorem handNext_mem (s : State) (who : Nat) : (handNext s who).mem = s.mem := by
  unfold handNext; split <;> simp

@[simp] theorem parkWith_mem (s : State) (t : Thread) (resume : Word) (r : Rec) :
    (parkWith s t resume r).mem = s.mem := by
  simp [parkWith]

@[simp] theorem truncate_mem (s : State) : (truncate s).mem = s.mem := rfl

@[simp] theorem overflow_mem (s : State) : (overflow s).mem = s.mem := by
  simp [overflow]

@[simp] theorem cutForeign_mem (s : State) : (cutForeign s).mem = s.mem := by
  simp [cutForeign]

@[simp] theorem restartCommit_mem (s : State) (tid : Nat) : (restartCommit s tid).mem = s.mem := by
  unfold restartCommit; dsimp only; (repeat' split) <;> simp

@[simp] theorem outgrow_mem (s : State) : (outgrow s).mem = s.mem := rfl

@[simp] theorem markPoison_mem (s : State) (key : Nat) : (markPoison s key).mem = s.mem := rfl

@[simp] theorem fatalPark_mem (s : State) (tid cause : Nat) (val val2 : Word) (squashCause : Nat) :
    (fatalPark s tid cause val val2 squashCause).mem = s.mem := by
  unfold fatalPark; dsimp only; (repeat' split) <;> simp

@[simp] theorem consumeError_mem (s : State) (tid : Nat) (va : Word) (key : Option Nat) (origin : Nat) :
    (consumeError s tid va key origin).mem = s.mem := by
  unfold consumeError; split <;> simp

@[simp] theorem reply_mem (s : State) (u status : Nat) (bs : List Byte) : (State.reply s u status bs).mem = s.mem := rfl

@[simp] theorem endThread_mem (s : State) (tid : Nat) : (endThread s tid).mem = s.mem := by
  unfold endThread; (repeat' split) <;> simp

@[simp] theorem discardWork_mem (s : State) (l : Nat) : (discardWork s l).mem = s.mem := rfl

@[simp] theorem endLaunch_mem (s : State) (idx status : Nat) : (endLaunch s idx status).mem = s.mem := by
  unfold endLaunch; split <;> simp [foldl_mem]

@[simp] theorem refuseMaps_mem (s : State) (asid : Nat) : (refuseMaps s asid).mem = s.mem := by
  show (List.foldl _ _ _ : State).mem = _
  rw [foldl_mem (by simp)]

@[simp] theorem retireAsid_mem (s : State) (asid : Nat) : (retireAsid s asid).mem = s.mem := by
  simp [retireAsid]

@[simp] theorem retireLeft_mem (s : State) : (retireLeft s).mem = s.mem := by
  simp [retireLeft, foldl_mem]

@[simp] theorem markTable_mem (s : State) (t : Thread) : (markTable s t).mem = s.mem := by
  simp [markTable]

@[simp] theorem awaitPhase_mem (s : State) : (awaitPhase s).mem = s.mem := by
  unfold awaitPhase; split <;> simp

@[simp] theorem atCore_mem (s : State) (tid : Nat) (f : Thread → Thread) : (State.atCore s tid f).mem = s.mem := by
  unfold State.atCore; split <;> simp

@[simp] theorem wakeReg_mem (tid : Nat) (why : BusyBy) (s : State) : (wakeReg tid why s).mem = s.mem := by
  simp [wakeReg]

@[simp] theorem retireCommand_mem (core : Nat) (s : State) : (retireCommand core s).mem = s.mem := by
  unfold retireCommand; (repeat' split) <;> simp

@[simp] theorem mapShip_mem (s : State) (k : Nat) (f : Ship → Ship) : (State.mapShip s k f).mem = s.mem := rfl

@[simp] theorem dropShip_mem (s : State) (k : Nat) : (State.dropShip s k).mem = s.mem := rfl

@[simp] theorem shipFault_mem (s : State) (t : Thread) (x : Ship) : (shipFault s t x).mem = s.mem := by
  unfold shipFault; dsimp only; (repeat' split) <;> simp

@[simp] theorem deliverSignatures_mem (s : State) (x : Ship) : (deliverSignatures s x).mem = s.mem := by
  unfold deliverSignatures
  refine foldl_mem (fun s t => ?_) _ _
  split
  · split <;> simp
  · rfl

@[simp] theorem setStat_mem (s : State) (f bits : Nat) : (setStat s f bits).mem = s.mem := by
  simp [setStat]

@[simp] theorem writeTail_mem (f : Fin 17) (v : BitVec 64) (s : State) : (writeTail f v s).mem = s.mem := by
  simp [writeTail]

@[simp] theorem zeroFor_mem (asid : Nat) (s : State) (tile : Nat) : (zeroFor asid s tile).mem = s.mem := by
  simp [zeroFor]

@[simp] theorem holdCore_mem (idx : Nat) (l : Launch) (s : State) (core : Nat) :
    (holdCore idx l s core).mem = s.mem := by
  simp [holdCore, foldl_mem]

@[simp] theorem releaseCore_mem (s : State) (core : Nat) : (releaseCore s core).mem = s.mem := rfl

@[simp] theorem holdCluster_mem (idx : Nat) (l : Launch) (s : State) (c : Nat) :
    (holdCluster idx l s c).mem = s.mem := by
  unfold holdCluster
  rw [foldl_mem (by simp), foldl_mem (by simp)]

@[simp] theorem completionWaits_mem (s : State) (agent : Nat) (l : Launch) (status : Nat) :
    (completionWaits s agent l status).mem = s.mem := agentWait_mem ..

@[simp] theorem admitLaunch_mem (s : State) (l : Launch) : (admitLaunch s l).mem = s.mem := by
  simp [admitLaunch, foldl_mem]

@[simp] theorem withdraw_mem (s : State) (idx : Nat) : (withdraw s idx).mem = s.mem := by
  unfold withdraw
  split
  · rfl
  · split
    · rfl
    · simp only [mapLaunch_mem]
      rw [foldl_mem (by simp), discardWork_mem]

@[simp] theorem markSpilled_mem (spilled : Bool) (s : State) (k : Task) : (markSpilled spilled s k).mem = s.mem := by
  simp [markSpilled]

@[simp] theorem grantTask_mem (s : State) (tid : Nat) (k : Task) : (grantTask s tid k).mem = s.mem := by
  unfold grantTask; split <;> simp

@[simp] theorem mapShoe_mem (s : State) (c : Nat) (f : Shoe → Shoe) : (State.mapShoe s c f).mem = s.mem := rfl

@[simp] theorem shoeSpent_mem (s : State) (c : Nat) (i : Option Item) : (shoeSpent s c i).mem = s.mem := rfl

@[simp] theorem sampleLaunch_mem (s : State) (idx : Nat) : (sampleLaunch s idx).mem = s.mem := by
  unfold sampleLaunch; dsimp only; (repeat' split) <;> simp

@[simp] theorem watchSlots_mem (s : State) : (watchSlots s).mem = s.mem := rfl

@[simp] theorem loadItem_mem (s : State) (tid : Nat) (i : Item) (gang : Option Nat) :
    (loadItem s tid i gang).mem = s.mem := by
  unfold loadItem; split <;> simp

@[simp] theorem takeItem_mem (s : State) (c : Nat) (i : Item) : (takeItem s c i).mem = s.mem := rfl

@[simp] theorem loadSlot_mem (s : State) (t : Thread) : (loadSlot s t).mem = s.mem := by
  unfold loadSlot; split <;> simp

@[simp] theorem newInterval_mem (s : State) : (newInterval s).mem = s.mem := by
  unfold newInterval; dsimp only; (repeat' split) <;> simp

@[simp] theorem sendBatch_mem (s : State) (c k : Nat) (out : List Item) (fantail : Bool) :
    (sendBatch s c k out fantail).mem = s.mem := by
  simp [sendBatch]

@[simp] theorem shipStranded_mem (c : Nat) (s : State) (idx : Nat) : (shipStranded c s idx).mem = s.mem := by
  simp [shipStranded, foldl_mem]

@[simp] theorem fantailStep_mem (s : State) (c : Nat) : (fantailStep s c).mem = s.mem := by
  unfold fantailStep; (repeat' split) <;> simp

@[simp] theorem csrWrite_mem (s : State) (n : BitVec 10) (x : Word) : (csrWrite s n x).mem = s.mem := by
  unfold csrWrite; (repeat' split) <;> simp

@[simp] theorem parkOut_mem (s : State) (u : Thread) : (parkOut s u).mem = s.mem := by
  unfold parkOut; split <;> simp

@[simp] theorem mapTile_mem (s : State) (tile : Nat) (f : Tile → Tile) : (State.mapTile s tile f).mem = s.mem := rfl

@[simp] theorem parkChunks_mem (s : State) (tid : Nat) : (parkChunks s tid).mem = s.mem := by
  unfold parkChunks; split <;> simp

@[simp] theorem regroup_mem (s : State) (t : Thread) (g : Nat) : (regroup s t g).mem = s.mem := by
  unfold regroup; dsimp only; (repeat' split) <;> simp

@[simp] theorem rollDoomed_mem (s : State) (tid : Nat) : (rollDoomed s tid).mem = s.mem := by
  unfold rollDoomed; split <;> simp [foldl_mem]

@[simp] theorem rename_mem (s : State) (f core : Nat → Nat) : (rename s f core).mem = s.mem := rfl

@[simp] theorem weirAway_mem (s : State) (tid : Nat) : (weirAway s tid).mem = s.mem := by
  simp [weirAway]

@[simp] theorem weirBack_mem (s : State) (t : Thread) : (weirBack s t).mem = s.mem := by
  simp [weirBack]

@[simp] theorem readdress_mem (s : State) (gen a b : Nat) : (readdress s gen a b).mem = s.mem := rfl

@[simp] theorem ownTile_mem (s : State) (target asid : Nat) (cores : List (Nat × Nat)) :
    (ownTile s target asid cores).mem = s.mem := rfl

@[simp] theorem rollBack_mem (s : State) (ts : List Thread) : (rollBack s ts).mem = s.mem := by
  show ((ts.foldl _ _ : State)).mem = _
  rw [foldl_mem (by simp), foldl_mem (by simp)]

@[simp] theorem dropJobs_mem (s : State) (tile : Nat) : (dropJobs s tile).mem = s.mem := rfl

@[simp] theorem refuseRestore_mem (s : State) (u target tile reason : Nat) :
    (refuseRestore s u target tile reason).mem = s.mem := by
  simp [refuseRestore]

@[simp] theorem moveHub_mem (s : State) (source target : Nat) : (moveHub s source target).mem = s.mem := by
  simp [moveHub]

@[simp] theorem discardImage_mem (s : State) (i : Image) : (discardImage s i).mem = s.mem := by
  unfold discardImage
  extract_lets x still gone ids launches drop s1 w fz s2 s3 s4 w' s5 s6 s7 s8
  have h3 : s3.mem = s.mem := (foldl_mem (by simp) _ _).trans (foldl_mem (by simp) gone s)
  have h5 : s5.mem = s3.mem := by unfold s5; split <;> rfl
  have h7 : s7.mem = s5.mem := by unfold s7; split <;> rfl
  have h8 : s8.mem = s7.mem := by unfold s8; split <;> rfl
  rw [foldl_mem (by simp), h8, h7, h5, h3]

@[simp] theorem mapHoist_mem (s : State) (c : Nat) (f : Hoist → Hoist) : (State.mapHoist s c f).mem = s.mem := rfl

@[simp] theorem endCopy_mem (s : State) (c ch : Nat) (cmd : CopyCmd) (failed : Bool) (v : Nat) :
    (endCopy s c ch cmd failed v).mem = s.mem := by
  simp [endCopy]

@[simp] theorem failCopy_mem (s : State) (c ch : Nat) (cmd : CopyCmd) (cause : Nat) (val val2 : Word) :
    (failCopy s c ch cmd cause val val2).mem = s.mem := by
  simp [failCopy]

@[simp] theorem copyPoison_mem (s : State) (srcs dsts : List Loc) : (copyPoison s srcs dsts).mem = s.mem := by
  simp [copyPoison, foldl_mem]

@[simp] theorem pieceLeaves_mem (s : State) (x : Channel) (dst : Word) (bs : List Byte) (dsts : List Loc)
    (cells : List Host.Cell) : (pieceLeaves s x dst bs dsts cells).mem = s.mem := by
  unfold pieceLeaves; split <;> simp

@[simp] theorem wakeWatch_mem (s : State) (t : Thread) (r : Nat) : (wakeWatch s t r).mem = s.mem := by
  unfold wakeWatch; split <;> simp

@[simp] theorem wakeSuper_mem (s : State) (die : Nat) : (wakeSuper s die).mem = s.mem := by
  unfold wakeSuper; split <;> simp

@[simp] theorem alertFor_mem (s : State) (r : Rec) : (alertFor s r).mem = s.mem := by
  simp [alertFor]

@[simp] theorem mapEvery_mem (s : State) (f : Thread → Thread) : (State.mapEvery s f).mem = s.mem := rfl

@[simp] theorem afterPost_mem (s : State) (d : Nat) (r : Rec) : (afterPost s d r).mem = s.mem := by
  unfold afterPost
  cases r.launch <;> cases r.holder <;> simp

@[simp] theorem endFence_mem (s : State) (tid : Nat) : (endFence s tid).mem = s.mem := by
  unfold endFence; split <;> simp

@[simp] theorem lateRecord_mem (s : State) (cause tid asid v : Nat) (launch : Option Nat) (pc va val2 : Word) :
    (lateRecord s cause tid asid v launch pc va val2).mem = s.mem := by
  simp [lateRecord]

@[simp] theorem takeOutside_mem (s : State) (t : Thread) (key n : Nat) (data : List Byte) :
    (takeOutside s t key n data).mem = s.mem := by
  simp [takeOutside]

@[simp] theorem answerPeer_mem (s : State) (m : PeerMsg) (status : Nat) (data : List Byte) :
    (answerPeer s m status data).mem = s.mem := by
  unfold answerPeer; dsimp only; (repeat' split) <;> simp

@[simp] theorem pairMismatch_mem (s : State) (t : Thread) (va : Word) : (pairMismatch s t va).mem = s.mem := by
  simp [pairMismatch]

@[simp] theorem later_mem (s : State) (a : Arrival) : (later s a).mem = s.mem := rfl

@[simp] theorem laterAt_mem (s : State) (agent : Nat) (nodes : List Nat) (a : Arrival) :
    (laterAt s agent nodes a).mem = s.mem := by
  simp [laterAt, agentWait_mem]

@[simp] theorem hostTakes_mem (s : State) (l : Loc) : (hostTakes s l).mem = s.mem := by
  simp [hostTakes]

@[simp] theorem answerHost_mem (s : State) (f : Nat) (a : Option (List Byte × Bool)) :
    (answerHost s f a).mem = s.mem := rfl

@[simp] theorem resetFunction_mem (f : Nat) (s : State) : (resetFunction f s).mem = s.mem := by
  simp [resetFunction, foldl_mem]

@[simp] theorem dropTarget_mem (s : State) : (dropTarget s).mem = s.mem := by
  unfold dropTarget; split <;> simp

@[simp] theorem replyEither_mem (s : State) (u x y : Nat) : (replyEither s u x y).mem = s.mem := rfl

@[simp] theorem refuseFin_mem (s : State) (tid : Nat) (c : Chunk) : (refuseFin s tid c).mem = s.mem := by
  unfold refuseFin; split <;> simp

@[simp] theorem refuseReds_mem (lines : List Line) (s : State) (tid : Nat) : (refuseReds lines s tid).mem = s.mem := by
  unfold refuseReds; split <;> simp [foldl_mem]

@[simp] theorem noteTable_mem (s : State) : (noteTable s).mem = s.mem := by
  simp [noteTable]

@[simp] theorem spent_mem (s : State) (tid : Nat) : (State.spent s tid).mem = s.mem := rfl

@[simp] theorem tick_mem (s : State) : (State.tick s).mem = s.mem := by
  unfold State.tick; dsimp only; split <;> simp [watchSlots]

@[simp] theorem enqueue_mem (i : Instr) (tid : Nat) (s : State) : (enqueue i tid s).mem = s.mem := by
  unfold enqueue; split <;> simp

@[simp] theorem settled_mem (i : Instr) (t : Thread) (s : State) : (settled i t s).mem = s.mem := by
  unfold settled; split <;> simp

end Sys2Proof.Machine

end

section

/-!
# What writes memory keeps its canonical form

The operations that a task's own work, a launch, a tile's image, a copy and a record perform (R3, log 3): each writes bytes by
`setAll`, `setNum` or `filter`, and these keep the form.
-/

namespace Sys2Proof.Machine

theorem foldl_wf {β : Type} {f : State → β → State} (h : ∀ s b, s.mem.wf = true → (f s b).mem.wf = true) (l : List β)
    {s : State} (hs : s.mem.wf = true) : (l.foldl f s).mem.wf = true :=
  foldl_inv (P := fun s : State => s.mem.wf = true) h l hs

theorem serialTake_mem {s u : State} {tid k : Nat} (h : serialTake s tid k = some u) : u.mem = s.mem := by
  unfold serialTake at h
  dsimp only at h
  split at h
  · cases h; rfl
  · split at h
    · cases h
    · cases h; simp [foldl_mem]

theorem serialAll_mem {s u : State} {tid : Nat} {ks : List Nat} (h : serialAll s tid ks = some u) :
    u.mem = s.mem := by
  induction ks generalizing s with
  | nil => cases h; rfl
  | cons k ks ih =>
    obtain ⟨v, hv, hu⟩ := Option.bind_eq_some_iff.1 h
    rw [ih hu, serialTake_mem hv]

theorem serialNodes_mem {s u : State} {ps : List Probe} (h : serialNodes s ps = some u) : u.mem = s.mem := by
  unfold serialNodes at h
  split at h
  · exact serialAll_mem h
  · cases h; rfl

theorem passTurn_mem {s u : State} (h : passTurn s = some u) : u.mem = s.mem := by
  obtain ⟨t, -, rfl⟩ := Option.map_eq_some_iff.1 h
  rfl

/-- An operation run on a thread that is made the current one. -/
theorem wf_onThread {s : State} (tid : Nat) {f : State → State}
    (hf : ∀ u : State, u.mem.wf = true → (f u).mem.wf = true)
    (h : s.mem.wf = true) : (s.onThread tid f).mem.wf = true := by
  unfold State.onThread
  split
  · exact hf s h
  · split
    · exact h
    · exact hf _ h

theorem afterGuest_mem (s u : State) : (s.afterGuest u).mem = u.mem := by
  unfold State.afterGuest; split <;> rfl

theorem wf_awaitOlder {s : State} (h : s.mem.wf = true) : (awaitOlder s).mem.wf = true := by
  simp [awaitOlder, wf_commitOlder, h]

theorem wf_takeOwed {s : State} (r : Rec) (h : s.mem.wf = true) : (takeOwed s r).mem.wf = true := wf_takeTrapRec _ _ h

theorem wf_takeTrap {s : State} (c : Nat) (v w : Word) (h : s.mem.wf = true) : (takeTrap s c v w).mem.wf = true :=
  wf_takeTrapRec _ _ h

theorem wf_trapShipped {s : State} (c : Nat) (v w : Word) (k : Nat) (h : s.mem.wf = true) :
    (trapShipped s c v w k).mem.wf = true := wf_takeTrapRec _ _ h

theorem wf_takeStep {s : State} (h : s.mem.wf = true) : (takeStep s).mem.wf = true := by
  unfold takeStep
  extract_lets u
  have hu : u.mem.wf = true := by
    unfold u
    split
    · exact h
    · exact wf_drain h
  split
  · exact hu
  · exact wf_takeTrapRec _ _ hu

/-- The accesses of an irrevocable body, performed at once. -/
theorem wf_performed {s : State} (h : s.mem.wf = true) : s.performed.mem.wf = true :=
  foldl_wf (fun _ x hu => wf_performLane _ _ x hu) _ (foldl_wf (fun _ x hu => wf_handOff _ _ x hu) _ h)

theorem wf_closed {s : State} (len : Nat) (z : Fin 8) (t : Thread) (h : s.mem.wf = true) :
    (s.closed len z t).mem.wf = true :=
  wf_sealed h

theorem wf_finish {s : State} (c : Bool) (len : Nat) (z : Fin 8) (t : Thread) (h : s.mem.wf = true) :
    (s.finish c len z t).mem.wf = true := by
  unfold State.finish
  split
  · exact h
  · split
    · exact wf_performed h
    · exact wf_closed _ _ _ h

theorem wf_cutNow {s : State} (h : s.mem.wf = true) : (cutNow s).mem.wf = true := by
  unfold cutNow
  split
  · rw [overflow_mem]; exact h
  · extract_lets u
    have hu : u.mem.wf = true := by
      unfold u
      split
      · exact wf_commitOlder _ h
      · exact h
    split <;> exact hu

theorem wf_cutThread {s : State} (tid : Nat) (m : Option LiveMask) (h : s.mem.wf = true) :
    (cutThread s tid m).mem.wf = true := by
  unfold cutThread
  dsimp only
  have hc : (match (s.thread tid).bind Thread.com with
    | some _ => commitOlder s tid
    | none => s).mem.wf = true := by
    split
    · exact wf_commitOlder _ h
    · exact h
  split
  · exact hc
  · split <;> (rw [setThread_mem]; exact hc)

theorem wf_writeOverflow {s : State} (l : Launch) (h : s.mem.wf = true) : (writeOverflow s l).mem.wf = true :=
  wf_writePlaced _ _ _ _ h

theorem wf_arriving {s : State} (b : Bool) (z : Fin 8) (h : s.mem.wf = true) : (arriving b z s).mem.wf = true := by
  unfold arriving
  split
  · simpa using h
  · split
    · split
      · simpa using wf_closed 4 z _ (by simpa using h)
      · exact wf_closed _ _ _ (by simpa using h)
    · exact wf_closed _ _ _ h

theorem wf_finishShip {s : State} (x : Ship) (h : s.mem.wf = true) : (finishShip x s).mem.wf = true :=
  wf_closed _ _ _ (by simpa using h)

theorem wf_shipTrap {s : State} (x : Ship) (h : s.mem.wf = true) : (shipTrap x s).mem.wf = true :=
  wf_trapShipped _ _ _ _ h

theorem wf_writeCompletion {s u : State} {a : Nat} {l : Launch} {st : Nat}
    (hu : writeCompletion s a l st = some u) (h : s.mem.wf = true) : u.mem.wf = true := by
  unfold writeCompletion at hu
  split at hu
  · cases hu; exact h
  · split at hu
    · cases hu
    · cases hu; exact wf_writePlaced _ _ _ _ h

theorem wf_checkRecord {s u : State} {l : Launch} {bs : List Byte}
    (hu : checkRecord s l bs = some u) (h : s.mem.wf = true) : u.mem.wf = true := by
  unfold checkRecord at hu
  split at hu
  · cases hu; simpa using h
  · dsimp only at hu
    split at hu
    · cases hu; exact h
    · exact wf_writeCompletion hu h

theorem wf_zeroArrays {s : State} (tile : Nat) (h : s.mem.wf = true) : (zeroArrays s tile).mem.wf = true :=
  wf_filter _ h

theorem wf_sluiceSpill {s : State} (d k : Nat) (h : s.mem.wf = true) : (sluiceSpill s d k).mem.wf = true := by
  unfold sluiceSpill
  split
  · exact h
  · split
    · exact h
    · split
      · rw [endLaunch_mem]; exact h
      · rw [foldl_mem (by simp)]; exact wf_writeOverflow _ h

theorem wf_shoeSpill {s : State} (c : Nat) (i : Item) (h : s.mem.wf = true) : (shoeSpill s c i).1.mem.wf = true := by
  unfold shoeSpill
  split
  · exact h
  · split
    · exact h
    · split
      · rw [endLaunch_mem]; exact h
      · rw [mapLaunch_mem]; exact wf_writeOverflow _ h

theorem wf_acceptItem {s : State} (c : Nat) (i : Item) (h : s.mem.wf = true) : (acceptItem c s i).mem.wf = true := by
  unfold acceptItem
  split
  · exact h
  · extract_lets i' w u r
    have hr : r.1.mem.wf = true := wf_shoeSpill _ _ h
    split <;> exact hr

theorem wf_returnItem {s : State} (c : Nat) (i : Item) (h : s.mem.wf = true) : (returnItem c s i).mem.wf = true := by
  unfold returnItem
  split
  · exact h
  · extract_lets i' w u v r
    have hr : r.1.mem.wf = true := wf_shoeSpill _ _ h
    split <;> exact hr

theorem wf_unloadSlot {s : State} (tid : Nat) (h : s.mem.wf = true) : (unloadSlot s tid).mem.wf = true := by
  unfold unloadSlot
  split
  · exact h
  · split
    · rw [setThread_mem]; exact h
    · split
      · simpa using h
      · simpa using h
      · exact wf_returnItem _ _ (by simpa using h)
    · exact h

theorem wf_freezeTile {s : State} (tile : Nat) (h : s.mem.wf = true) : (freezeTile s tile).mem.wf = true := by
  show (List.foldl parkChunks _ _ : State).mem.wf = true
  rw [foldl_mem (by simp)]
  exact foldl_wf (fun _ _ hu => wf_unloadSlot _ hu) _ h

theorem wf_writeFrames {m : Memory} (fs : List Nat) (cs : List (Nat × Byte)) (h : m.wf = true) :
    (writeFrames m fs cs).wf = true := wf_setAll _ (wf_filter _ h)

theorem wf_writeOverflowPond {m : Memory} (s : State) (x : Tile) (va : Word) (h : m.wf = true) :
    (writeOverflowPond s x va m).wf = true := by
  unfold writeOverflowPond
  split
  · exact wf_writeFrames _ _ h
  · exact h

theorem wf_saveImage {s : State} (tile : Nat) (i p : Word) (frames : List Nat) (h : s.mem.wf = true) :
    (saveImage s tile i p frames).mem.wf = true := by
  unfold saveImage
  extract_lets x body m m1 crc m2
  have hm : m.wf = true := wf_writeOverflowPond _ _ _ h
  have h1 : m1.wf = true := wf_writeFrames (m := m) frames _ hm
  clear_value m1 crc
  have h2 : m2.wf = true := wf_writeFrames (m := m1) frames _ h1
  clear_value m2
  rw [mapTile_mem]
  exact h2

theorem wf_vacateTile {s : State} (tile : Nat) (h : s.mem.wf = true) : (vacateTile s tile).mem.wf = true := by
  unfold vacateTile
  simp only [mapTile_mem, mapThreads_mem, rename_mem]
  rw [foldl_mem (by simp)]
  exact wf_zeroArrays _ h

theorem wf_arrayLoad {s : State} (big : Bool) (a b : Nat) (bs : List Byte) (h : s.mem.wf = true) :
    (arrayLoad s big a b bs).mem.wf = true := wf_setAll _ (wf_zeroArrays _ h)

theorem wf_archLoad {s : State} (hd : Header) (old : Option Image) (t : Nat) (bs : List Byte) (h : s.mem.wf = true) :
    (archLoad s hd old t bs).mem.wf = true := by
  unfold archLoad
  simp only [ownTile_mem]
  rw [foldl_mem (fun s b => ?_)]
  · exact wf_arrayLoad _ _ _ _ (by simpa using h)
  · (repeat' split) <;> simp

theorem wf_sameLoad {s : State} (i : Image) (t : Nat) (bs : List Byte) (h : s.mem.wf = true) :
    (sameLoad s i t bs).mem.wf = true := by
  unfold sameLoad
  simp only [ownTile_mem]
  rw [foldl_mem (fun s b => by split <;> simp), readdress_mem]
  exact wf_arrayLoad _ _ _ _ h

theorem wf_doPiece {s : State} (c ch : Nat) (x : Channel) (a b : Word) (n : Nat) (ss ds : List Loc)
    (h : s.mem.wf = true) :
    (doPiece s c ch x a b n ss ds).mem.wf = true := by
  unfold doPiece
  extract_lets agent plain split' from' nodes bs cells s1 r s2 s3
  have h2 : s2.mem.wf = true := by
    have hr : r.1.mem.wf = true := wf_agentPoint _ _ _ _ _ _ (by simpa [s1] using h)
    unfold s2
    split
    · exact hr
    · rw [copyPoison_mem]; exact hr
  have h3 : s3.mem.wf = true := by
    unfold s3
    cases x.cmd.launch <;> simpa using h2
  split
  · exact h
  · split
    · rw [agentWait_mem]; exact h
    · split
      · exact h
      · split
        · exact h3
        · rw [endCopy_mem]; exact h3

theorem wf_postRecord {s u : State} {d : Nat} {b : Bool} {r : Rec} (hu : postRecord s d b r = some u)
    (h : s.mem.wf = true) : u.mem.wf = true := by
  unfold postRecord at hu
  extract_lets at hu
  split at hu
  · cases hu
  · split at hu
    · cases hu
    · extract_lets at hu
      split at hu
      · cases hu
      · split at hu
        · extract_lets at hu
          split at hu
          · cases hu; rw [agentWait_mem]; exact h
          · cases hu; rw [afterPost_mem]; exact wf_writePlaced _ _ _ _ h
        · cases hu

theorem wf_keepWaiting {s : State} (d : Nat) (h : s.mem.wf = true) : (keepWaiting s d).mem.wf = true := by
  have hf : ((s.tail d).waitH.foldl alertFor s).mem.wf = true := by rw [foldl_mem (by simp)]; exact h
  unfold keepWaiting
  dsimp only
  split
  · exact hf
  split
  · exact hf
  split
  · exact hf
  split
  · rw [agentWait_mem]; exact hf
  · exact wf_writePlaced _ _ _ _ hf

end Sys2Proof.Machine

end

section

/-!
# Accesses from outside and mapping commands

The same for the host's, the peers' and the mailbox's operations that wait for their turn at a line.
-/

namespace Sys2Proof.Machine

theorem wf_takeTurn {s : State} (a : Arrival) {go : State → State}
    (hg : ∀ u : State, u.mem.wf = true → (go u).mem.wf = true)
    (h : s.mem.wf = true) : (takeTurn s a go).mem.wf = true := by
  unfold takeTurn
  split
  · exact h
  · exact hg s h

theorem wf_hostWriteLines {s : State} (f : Fin 17) (off : Nat) (bs : List Byte) (n : Nat) (h : s.mem.wf = true) :
    (hostWriteLines f off bs n s).mem.wf = true := by
  induction n generalizing s off bs with
  | zero => exact h
  | succ n ih =>
    unfold hostWriteLines
    split
    · split
      · exact h
      · exact h
    · extract_lets k
      split
      · exact h
      · split
        · exact ih _ _ h
        · split
          · rw [laterAt_mem]; exact h
          · extract_lets u
            have hu : u.mem.wf = true := by
              unfold u; rw [hostTakes_mem]; exact wf_sourcePoint _ _ _ _ h
            split <;> exact hu

theorem hostReadLines_mem (s : State) (f : Fin 17) (off len : Nat) (got : List Byte) (bad : Bool) :
    (hostReadLines f off len got bad s).mem = s.mem := by
  unfold hostReadLines
  split
  · rfl
  · extract_lets va k
    split
    · rfl
    · split
      · rfl
      · split
        · rfl
        · extract_lets u
          have hu : u.mem = s.mem := by simp [u]
          split <;> exact hu

theorem wf_hostAtomic {s : State} (f : Fin 17) (off : Nat) (op size : Fin 3) (x y : BitVec 128)
    (h : s.mem.wf = true) :
    (hostAtomic f off op size x y s).mem.wf = true := by
  unfold hostAtomic
  extract_lets n
  split
  · exact h
  · split
    · exact h
    · split
      · exact h
      · split
        · exact h
        · split
          · rw [laterAt_mem]; exact h
          · split
            · exact h
            · rw [answerHost_mem, hostTakes_mem]
              exact wf_sourcePoint _ _ _ _ h

theorem wf_snoopLine {s : State} (line : Nat) (h : s.mem.wf = true) : (snoopLine line s).mem.wf = true := by
  unfold snoopLine
  split
  · exact h
  · extract_lets names nodes l u asids v
    split
    · rw [laterAt_mem]; exact h
    · apply wf_sourcePoint
      unfold v
      rw [foldl_mem (by simp)]
      exact h

theorem wf_peerLine {s : State} (src : BitVec 8) (va : Nat) (kind : Fin 3) (op : Nat) (data got : List Byte)
    (h : s.mem.wf = true) : (peerLine src va kind op data got s).mem.wf = true := by
  unfold peerLine
  extract_lets dev agent here n k wait
  split
  · split
    · exact h
    · split
      · split
        · exact h
        · extract_lets got' u
          have hu : u.mem.wf = true := by simpa [u] using h
          split <;> exact hu
      · split
        · simpa [wait, agentWait_mem] using h
        · split
          · extract_lets u
            have hu : u.mem.wf = true := wf_sourcePoint _ _ _ _ h
            split <;> exact hu
          · exact wf_sourcePoint _ _ _ _ h
  · exact h

theorem wf_peerAccess {s : State} (src : BitVec 8) (off : Nat) (kind : Fin 3) (op : Nat) (data got : List Byte)
    (b : Bool)
    (h : s.mem.wf = true) : (peerAccess src off kind op data got b s).mem.wf = true := by
  unfold peerAccess
  extract_lets dev n
  split
  · exact wf_peerLine _ _ _ _ _ _ h
  · split
    · exact h
    · split
      · exact h
      · split
        · exact h
        · split
          · exact h
          · split
            · split
              · exact h
              · exact wf_peerLine _ _ _ _ _ _ h
            · exact h

theorem wf_resetModule {s : State} (h : s.mem.wf = true) : (resetModule s).mem.wf = true := h

theorem wf_bringUp {s : State} (h : s.mem.wf = true) : (bringUp s).mem.wf = true := by
  unfold bringUp
  extract_lets host asid0 u
  have hh : Memory.wf host = true := wf_filter _ h
  clear_value host
  rw [mapThreads_mem]
  exact wf_setAll _ hh

theorem wf_nextNode {s : State} (e : Nat) (h : s.mem.wf = true) : (nextNode s e).1.mem.wf = true := by
  unfold nextNode
  extract_lets x f m
  split
  · exact h
  · exact wf_setNum _ _ _ (wf_filter _ h)

theorem wf_writeLeaf {s : State} (a va l : Nat) (big : Bool) (h : s.mem.wf = true) :
    (writeLeaf s a va l big).mem.wf = true := by
  unfold writeLeaf
  split
  next u n hu =>
    have h2 : u.mem.wf = true := by
      have := wf_nextNode (rootOf s a + 8 * (va / 2 ^ 42 % 1024)) h
      rwa [hu] at this
    extract_lets e2
    split
    · exact wf_setNum _ _ _ h2
    · have h3 := wf_nextNode e2 h2
      split
      next v n' hv =>
        rw [hv] at h3
        exact wf_setNum _ _ _ h3

theorem wf_mapPoint {s : State} (u a va l : Nat) (big : Bool) (h : s.mem.wf = true) :
    (mapPoint s u a va l big).mem.wf = true :=
  wf_agentPoint _ _ _ _ _ _ (wf_writeLeaf _ _ _ _ h)

theorem wf_fillFrame {s : State} (a pa : Nat) (h : s.mem.wf = true) :
    (fillFrame a s pa).mem.wf = true := wf_filter _ h

theorem wf_remap {s : State} (u a : Nat) (va : Word) (e : Option Word) (h : s.mem.wf = true) :
    (remap s u a va e).mem.wf = true := by
  unfold remap
  split
  · exact h
  · split
    extract_lets homes again e' s1 s2 gone s3
    split
    · exact h
    · split
      · rw [laterAt_mem]; exact h
      · split
        · exact h
        · have h2 : s2.mem.wf = true := wf_agentPoint _ _ _ _ _ _ (wf_setNum _ _ _ h)
          rw [reply_mem]
          split
          · show s3.mem.wf = true
            unfold s3
            rw [foldl_mem (by simp)]
            exact h2
          · exact h2

theorem wf_mappingPoint {s : State} (u a va : Nat) (big : Bool) (ar : Arrival) {go : State → State}
    (hg : (go s).mem.wf = true) (h : s.mem.wf = true) : (mappingPoint s u a va big ar go).mem.wf = true := by
  unfold mappingPoint
  extract_lets homes
  split
  · rw [laterAt_mem]; exact h
  · exact wf_agentPoint _ _ _ _ _ _ hg

theorem wf_register {s : State} (u a : Nat) (va : Word) (c : Nat) (cva : Word) (big : Bool) (h : s.mem.wf = true) :
    (register u a va c cva big s).mem.wf = true := by
  unfold register
  extract_lets x y
  split
  · exact h
  · exact wf_mappingPoint _ _ _ _ _ h h

theorem wf_unregister {s : State} (u a : Nat) (va : Word) (h : s.mem.wf = true) :
    (unregister u a va s).mem.wf = true := by
  unfold unregister
  extract_lets hit
  split
  · exact h
  · exact wf_mappingPoint _ _ _ _ _ h h

theorem wf_giveBlock {s : State} (u d : Nat) (va r hb : Word) (h : s.mem.wf = true) :
    (giveBlock u d va r hb s).mem.wf = true := by
  unfold giveBlock
  extract_lets agent
  split
  · exact h
  · split
    · rw [laterAt_mem]; exact h
    · exact wf_writePlaced _ _ _ _ h

theorem wf_runArrival {s : State} (a : Arrival) (h : s.mem.wf = true) : (runArrival a s).mem.wf = true := by
  unfold runArrival
  split
  · exact wf_hostWriteLines _ _ _ _ h
  · rw [hostReadLines_mem]; exact h
  · exact wf_hostAtomic _ _ _ _ _ _ h
  · exact wf_snoopLine _ h
  · exact wf_peerAccess _ _ _ _ _ _ _ h
  · exact wf_remap _ _ _ _ h
  · exact wf_remap _ _ _ _ h
  · exact wf_register _ _ _ _ _ _ h
  · exact wf_unregister _ _ _ h
  · exact wf_giveBlock _ _ _ _ _ h
  · rw [resetFunction_mem]; exact h
  · rw [writeTail_mem]; exact h

theorem wf_performArrival {s : State} (a : Arrival) (h : s.mem.wf = true) : (performArrival a s).mem.wf = true := by
  unfold performArrival
  extract_lets t
  split <;> exact wf_runArrival _ h

theorem wf_refuseWrite {m : Memory} (rest : List HostWrite) (old : List Host.Cell) (h : m.wf = true) :
    (refuseWrite m rest old).1.wf = true := by
  induction old generalizing m rest with
  | nil => exact h
  | cons c l ih =>
    unfold refuseWrite
    have := ih rest h
    revert this
    cases refuseWrite m rest l with
    | mk m' rest' =>
      intro h'
      dsimp only
      split
      · exact wf_setAll _ h'
      · exact h'

end Sys2Proof.Machine

end

section

/-!
# Outcomes

What a step leads to keeps the canonical form when the state it gives does, and a rule for each shared shape of an
instruction: its checks, traps, closings and accesses.
-/

namespace Sys2Proof.Machine

/-- The next state that an outcome gives, if it gives one, has memory in its canonical form. -/
def OutWf : Out → Prop
  | .next t => t.mem.wf = true
  | .fault _ => True
  | .refused _ => True

@[simp] theorem outWf_next (t : State) : OutWf (.next t) ↔ t.mem.wf = true := Iff.rfl

/-- The same for a remote instruction's outcome. -/
def RemoteWf : Remote → Prop
  | .later s => s.mem.wf = true
  | .outgrown s => s.mem.wf = true
  | .done s _ _ _ => s.mem.wf = true
  | _ => True

/-- What runs a step keeps the canonical form. -/
def KeepsWf (f : State → Out) : Prop := ∀ s : State, s.mem.wf = true → OutWf (f s)

section
variable {s : State}

theorem outWf_trap (c : Nat) (v w : Word) (h : s.mem.wf = true) : OutWf (s.trap c v w) := wf_takeTrap c v w h

theorem outWf_trapMem (c : Nat) (v w : Word) (h : s.mem.wf = true) : OutWf (s.trapMem c v w) := by
  unfold State.trapMem
  extract_lets g
  split
  · exact wf_takeTrapRec _ _ h
  · split
    · exact wf_takeTrapRec _ _ h
    · exact outWf_trap _ _ _ h

theorem outWf_check (srcs : List Reg) {k : Out} (h : s.mem.wf = true) (hk : OutWf k) : OutWf (s.check srcs k) := by
  unfold State.check
  split
  · split
    · exact outWf_trap _ _ _ h
    · exact hk
  · exact hk

theorem outWf_closing {k : State → Out} (hk : KeepsWf k) (h : s.mem.wf = true) : OutWf (s.closing k) := by
  unfold State.closing
  split
  · exact hk s h
  · split
    · simpa using h
    · split
      · exact hk s h
      · extract_lets u
        have hu : u.mem.wf = true := wf_drain h
        simpa using hu

theorem outWf_closingLate {k : State → Out} (hk : KeepsWf k) (h : s.mem.wf = true) : OutWf (s.closingLate k) := by
  unfold State.closingLate
  split
  · exact hk s h
  · split
    · simpa using h
    · split
      · exact hk s h
      · split
        · exact wf_awaitOlder h
        · simpa using h

theorem outWf_privileged {k : Out} (hk : OutWf k) (h : s.mem.wf = true) : OutWf (s.privileged k) := by
  unfold State.privileged
  split
  · exact hk
  · exact outWf_trap _ _ _ h

theorem outWf_withFlags (l : List Flags) {k : Flags → Out} (hk : ∀ f, OutWf (k f)) (h : s.mem.wf = true) :
    OutWf (s.withFlags l k) := by
  unfold State.withFlags
  extract_lets fl en
  split
  · exact hk _
  · exact outWf_trap _ _ _ h

theorem outWf_heldOut (x : Hold) (h : s.mem.wf = true) : OutWf (heldOut s x) := by
  cases x with
  | poison va => exact outWf_trap _ _ _ h
  | wait => exact h
  | foreign => simpa [heldOut] using h
  | limit => exact wf_cutNow h
  | outgrown => exact h

theorem outWf_screenedAll (ps : List Probe) {k : State → Out} (hk : KeepsWf k) (h : s.mem.wf = true) :
    OutWf (s.screenedAll ps k) := by
  unfold State.screenedAll
  split
  next o ho =>
    obtain ⟨x, -, rfl⟩ := Option.map_eq_some_iff.1 ho
    exact outWf_heldOut x h
  · split
    · exact h
    next u hu => exact hk u (serialNodes_mem hu ▸ h)

theorem outWf_screened (vas : List (Word × Loc)) (n : Nat) (a : Access) {k : State → Out} (hk : KeepsWf k)
    (h : s.mem.wf = true) : OutWf (s.screened vas n a k) := outWf_screenedAll _ hk h

theorem outWf_access (vas : List Word) (n al : Nat) (a : Access) {k : State → Bool → List (Word × Loc) → Out}
    (hk : ∀ c l, KeepsWf (fun s => k s c l)) (h : s.mem.wf = true) : OutWf (s.access vas n al a k) := by
  unfold State.access
  split
  · exact outWf_trapMem _ _ _ h
  · trivial
  · split
    · exact outWf_closingLate (fun u hu => outWf_screened _ _ _ (hk _ _) hu) h
    · exact outWf_screened _ _ _ (hk _ _) h

theorem outWf_access1 (va : Word) (n al : Nat) (a : Access) {k : State → Bool → Loc → Out}
    (hk : ∀ c l, KeepsWf (fun s => k s c l)) (h : s.mem.wf = true) : OutWf (s.access1 va n al a k) := by
  unfold State.access1
  split
  · exact outWf_trapMem _ _ _ h
  · trivial
  · split
    · exact outWf_closingLate (fun u hu => outWf_screened _ _ _ (hk _ _) hu) h
    · exact outWf_screened _ _ _ (hk _ _) h

theorem outWf_readingOf (n en : Nat) (ls : List (Word × Loc)) {k : State → Out} (hk : KeepsWf k)
    (h : s.mem.wf = true) :
    OutWf (s.readingOf n en ls k) := by
  unfold State.readingOf
  extract_lets
  split
  · exact outWf_trap _ _ _ h
  · split
    · exact hk s h
    · rw [outWf_next, withCur_mem, foldl_mem (by simp)]; exact h

theorem outWf_reading (n : Nat) (ls : List (Word × Loc)) {k : State → Out} (hk : KeepsWf k) (h : s.mem.wf = true) :
    OutWf (s.reading n ls k) := outWf_readingOf _ _ _ hk h

theorem outWf_branch (len : Nat) (b : Bool) (x : Word) (z : Fin 8) (t : Thread) (h : s.mem.wf = true) :
    OutWf (branch len b x z t s) := by
  simpa [branch] using h

theorem outWf_jumpTo (x : Word) (z : Fin 8) (t : Thread) (h : s.mem.wf = true) : OutWf (jumpTo x z t s) := by
  unfold jumpTo
  split
  · exact outWf_trap _ _ _ h
  · exact h

theorem outWf_fpEnd (lat : Nat) (d : Fin 32) (z : Fin 8) (r : Nat × Flags) (x : Word) (h : s.mem.wf = true) :
    OutWf (fpEnd lat d z r x s) := outWf_withFlags _ (fun _ => h) h

theorem outWf_computed (lat : Nat) (d : Dst) (z : Fin 8) (r : VRes) (h : s.mem.wf = true) :
    OutWf (computed lat d z r s) :=
  outWf_withFlags _ (fun _ => h) h

theorem outWf_shipOut (i : Instr) (d : Dst) (z : Fin 8) (g : Pred) (x y v : Vec) (a b c e : Word)
    (h : s.mem.wf = true) :
    OutWf (shipOut i d z g x y v a b c e s) := by
  unfold shipOut
  split <;> exact h

theorem outWf_shipClosing (i : Instr) (k : Nat) (x y : Vec) (a b : Word) (h : s.mem.wf = true) :
    OutWf (shipClosing i k x y a b s) := by
  unfold shipClosing
  split <;> exact h

theorem outWf_native {o : Remote} (z : Fin 8) (put : Thread → Vec → Thread) (ho : RemoteWf o) (h : s.mem.wf = true) :
    OutWf (native o z put s) := by
  unfold native
  cases o with
  | later u => exact ho
  | ask => exact h
  | outgrown u => exact ho
  | trap c v w => exact outWf_trapMem _ _ _ h
  | nomem p => trivial
  | done u x fl e => exact wf_closed _ _ _ ho

theorem remoteWf_remotely (ps : List Probe) {k : State → Remote} (hk : ∀ u : State, u.mem.wf = true → RemoteWf (k u))
    (h : s.mem.wf = true) : RemoteWf (remotely s ps k) := by
  unfold remotely
  split
  · trivial
  · exact h
  · exact h
  · split
    · exact h
    next u hu => exact hk u (serialNodes_mem hu ▸ h)

theorem remoteWf_jobBody (j : Job) (d : Desc) (c : Nat) (h : s.mem.wf = true) : RemoteWf (jobBody j d c s) := by
  unfold jobBody
  split
  · trivial
  · trivial
  · refine remoteWf_remotely _ (fun u hu => ?_) h
    dsimp only
    split
    · trivial
    · exact hu

theorem remoteWf_wideBody (i : Instr) (ea : Word) (x y : Nat) (ho : Option (Option Nat)) (h : s.mem.wf = true) :
    RemoteWf (wideBody i ea x y ho s) := by
  unfold wideBody
  extract_lets op
  split
  · trivial
  · trivial
  · split
    · trivial
    · split
      · trivial
      · exact remoteWf_remotely _ (fun u hu => hu) h

theorem outWf_heavy (i : Instr) (srcs : List Reg) (d : Dst) (z : Fin 8) (g : Pred) (x y v : Vec) (a b c : Word)
    (h : s.mem.wf = true) : OutWf (heavy i srcs d z g x y v a b c s) := by
  refine outWf_check _ h ?_
  split
  · exact outWf_computed _ _ _ _ h
  · exact outWf_shipOut _ _ _ _ _ _ _ _ _ _ _ h

theorem outWf_vecInstr (i : Instr) (b : Bool) (lat : Nat) (srcs : List Reg) (d : Dst) (z : Fin 8) (g : Fin 4)
    (x y v : Vec) (a c : Word) (old : Pred) (h : s.mem.wf = true) : OutWf (vecInstr i b lat srcs d z g x y v a c old s) := by
  unfold vecInstr
  extract_lets gv srcs'
  split
  · exact outWf_heavy _ _ _ _ _ _ _ _ _ _ _ h
  · exact outWf_check _ h (outWf_computed _ _ _ _ h)

end

end Sys2Proof.Machine

end

section

/-!
# Instructions

Each shape of instruction keeps the canonical form.
-/

namespace Sys2Proof.Machine

section
variable {s : State}

theorem outWf_ite {c : Prop} [Decidable c] {a b : Out} (ha : OutWf a) (hb : OutWf b) :
    OutWf (if c then a else b) := by
  split <;> assumption

theorem outWf_binG (len lat : Nat) (f : Word → Word → Word) (d a b : Fin 32) (z : Fin 8) (h : s.mem.wf = true) :
    OutWf (binG len lat f d a b z s) := outWf_check _ h h

theorem outWf_unG (len : Nat) (f : Word → Word) (d a : Fin 32) (z : Fin 8) (h : s.mem.wf = true) :
    OutWf (unG len f d a z s) := outWf_check _ h h

theorem outWf_slowG (f : Word → Word → Word) (d a b : Fin 32) (z : Fin 8) (h : s.mem.wf = true) :
    OutWf (slowG f d a b z s) := outWf_check _ h h

theorem outWf_binP (f : Pred → Pred → Pred) (d a b : Fin 8) (z : Fin 8) (h : s.mem.wf = true) :
    OutWf (binP f d a b z s) := outWf_check _ h h

theorem outWf_branchOn (c : Word → Word → Bool) (o : BitVec 12) (a b : Fin 32) (z : Fin 8) (h : s.mem.wf = true) :
    OutWf (branchOn c o a b z s) := outWf_check _ h (outWf_branch _ _ _ _ _ h)

theorem outWf_fop2 (f : Fmt → BitVec 12 → Nat → Nat → Nat → Nat × Flags) (t : Fin 8) (d a b : Fin 32) (z : Fin 8)
    (h : s.mem.wf = true) : OutWf (fop2 f t d a b z s) := outWf_check _ h (outWf_fpEnd _ _ _ _ _ h)

theorem outWf_fop2n (f : Fmt → BitVec 12 → Nat → Nat → Nat × Flags) (t : Fin 8) (d a b : Fin 32) (z : Fin 8)
    (h : s.mem.wf = true) : OutWf (fop2n f t d a b z s) := outWf_check _ h (outWf_fpEnd _ _ _ _ _ h)

theorem outWf_vec2 (i : Instr) (hv : Bool) (t : Nat) (w : Bool) (lat : Nat) (g : Fin 4) (d a b : Fin 32) (z : Fin 8)
    (h : s.mem.wf = true) : OutWf (vec2 i hv t w lat g d a b z s) := outWf_vecInstr _ _ _ _ _ _ _ _ _ _ _ _ _ h

theorem outWf_vec1 (i : Instr) (hv k : Bool) (lat : Nat) (g : Fin 4) (d a : Fin 32) (z : Fin 8)
    (h : s.mem.wf = true) : OutWf (vec1 i hv k lat g d a z s) := outWf_vecInstr _ _ _ _ _ _ _ _ _ _ _ _ _ h

theorem outWf_hop (i : Instr) (srcs : List (Fin 32)) (d : Fin 32) (z : Fin 8) (h : s.mem.wf = true) :
    OutWf (hop i srcs d z s) := outWf_heavy _ _ _ _ _ _ _ _ _ _ _ h

theorem outWf_loadScalar (len n : Nat) (srcs : List Reg) (ea : Word) (put : Thread → Nat → Thread) (z : Fin 8)
    (h : s.mem.wf = true) : OutWf (loadScalar len n srcs ea put z s) :=
  outWf_check _ h (outWf_access1 _ _ _ _ (fun _ _ _ hu => outWf_reading _ _ (fun _ hv => wf_finish _ _ _ _ hv) hu) h)

theorem outWf_storeScalar (len n : Nat) (srcs : List Reg) (ea x : Word) (z : Fin 8) (h : s.mem.wf = true) :
    OutWf (storeScalar len n srcs ea x z s) :=
  outWf_check _ h (outWf_access1 _ _ _ _ (fun _ _ _ hu => wf_finish _ _ _ _ hu) h)

theorem outWf_execVld (e g : Fin 4) (d a : Fin 32) (i : BitVec 8) (z : Fin 8) (h : s.mem.wf = true) :
    OutWf (execVld e g d a i z s) := by
  refine outWf_check _ h ?_
  split
  · exact outWf_trap _ _ _ h
  · split
    · exact h
    · exact outWf_access1 _ _ _ _ (fun _ _ _ hu => outWf_readingOf _ _ _ (fun _ hv => wf_finish _ _ _ _ hv) hu) h

theorem outWf_execVst (e g : Fin 4) (d a : Fin 32) (i : BitVec 8) (z : Fin 8) (h : s.mem.wf = true) :
    OutWf (execVst e g d a i z s) := by
  refine outWf_check _ h ?_
  split
  · exact outWf_trap _ _ _ h
  · split
    · exact h
    · exact outWf_access1 _ _ _ _ (fun _ _ _ hu => wf_finish _ _ _ _ hu) h

theorem outWf_laneByLane (ls : List (Word × Loc)) {k : State → Out} (hk : KeepsWf k) (h : s.mem.wf = true) :
    OutWf (s.laneByLane ls k) := by
  unfold State.laneByLane
  split
  · exact hk s h
  · refine outWf_reading _ _ (fun u hu => ?_) h
    dsimp only
    split
    · exact hk _ hu
    · exact hu

theorem outWf_loadLanes (srcs : List Reg) (addr : Nat → Word) (g : Fin 4) (d : Fin 32) (z : Fin 8)
    (h : s.mem.wf = true) :
    OutWf (loadLanes srcs addr g d z s) := by
  refine outWf_check _ h ?_
  split
  · exact h
  · exact outWf_access _ _ _ _ (fun _ _ _ hu => outWf_laneByLane _ (fun _ hv => wf_finish _ _ _ _ hv) hu) h

theorem outWf_storeLanes (srcs : List Reg) (addr : Nat → Word) (g : Fin 4) (d : Fin 32) (z : Fin 8)
    (h : s.mem.wf = true) :
    OutWf (storeLanes srcs addr g d z s) :=
  outWf_check _ h (outWf_access _ _ _ _ (fun _ _ _ hu => wf_finish _ _ _ _ hu) h)

theorem outWf_taggedAccess (va : Word) (a : Access) (t : Nat) (on : List Nat)
    {k : State → Bool → List (Word × Loc) → Leaf → List (Word × Loc) → Out}
    (hk : ∀ c ds f ls, KeepsWf (fun s => k s c ds f ls)) (h : s.mem.wf = true) : OutWf (taggedAccess s va a t on k) := by
  unfold taggedAccess
  split
  · exact outWf_trapMem _ _ _ h
  · trivial
  · split
    · exact outWf_trapMem _ _ _ h
    · trivial
    next ls _ =>
      extract_lets n ds asks go
      have hg : ∀ c, KeepsWf (go c) := fun c u hu => outWf_screenedAll _
        (fun _ hv => outWf_reading _ _ (fun _ hw => outWf_reading _ _ (hk _ _ _ _) hw) hv) hu
      split
      · exact outWf_closingLate (hg true) h
      · exact hg false s h

theorem outWf_sealIf (c : Bool) {o : Out} (h : OutWf o) : OutWf (sealIf c o) := by
  cases o with
  | next t =>
    dsimp only [sealIf]
    split
    · rw [outWf_next]
      split
      · exact wf_performed h
      · exact wf_sealed h
    · exact h
  | fault => trivial
  | refused => trivial

theorem outWf_execVldf (t : Fin 8) (g : Fin 4) (d a : Fin 32) (z : Fin 8) (h : s.mem.wf = true) :
    OutWf (execVldf t g d a z s) := by
  refine outWf_check _ h ?_
  split
  · exact h
  · refine outWf_taggedAccess _ _ _ _ (fun c ds f ls u hu => outWf_sealIf _ ?_) h
    split
    · exact outWf_heavy _ _ _ _ _ _ _ _ _ _ _ hu
    · exact outWf_computed _ _ _ _ hu

theorem outWf_execVstf (t : Fin 8) (g : Fin 4) (d a : Fin 32) (z : Fin 8) (h : s.mem.wf = true) :
    OutWf (execVstf t g d a z s) := by
  refine outWf_check _ h ?_
  split
  · exact h
  · refine outWf_taggedAccess _ _ _ _ (fun c ds f ls u hu => outWf_sealIf _ ?_) h
    extract_lets
    split
    · split
      next v hv =>
        have hw : OutWf (.next v) := hv ▸ outWf_heavy _ _ _ _ _ _ _ _ _ _ _ hu
        rw [outWf_next]
        split <;> exact hw
      next o => exact outWf_heavy _ _ _ _ _ _ _ _ _ _ _ hu
    · exact outWf_withFlags _ (fun _ => hu) hu

theorem outWf_handing (x : Hand) {k : State → Out} (hk : KeepsWf k) (h : s.mem.wf = true) :
    OutWf (handing s x k) := by
  unfold handing
  split
  · split
    · exact hk _ (wf_handOff _ _ _ h)
    · exact h
  · split
    · exact wf_cutNow h
    · exact hk _ h

theorem outWf_copying (f : Bool) (srcs : List Reg) (d : Fin 32) (z : Fin 8) (h : s.mem.wf = true) :
    OutWf (copying f srcs d z s) := by
  refine outWf_check _ h ?_
  split
  · exact outWf_trapMem _ _ _ h
  · trivial
  · exact outWf_handing _ (fun _ hu => hu) h

theorem outWf_execCopyw (a : Fin 32) (z : Fin 8) (h : s.mem.wf = true) : OutWf (execCopyw a z s) := by
  refine outWf_check _ h ?_
  split
  · exact wf_cutNow h
  · split <;> exact h

theorem outWf_matrixJob (i : Instr) (j : Job) (g : Fin 32) (z : Fin 8) (h : s.mem.wf = true) :
    OutWf (matrixJob i j g z s) := by
  refine outWf_check _ h ?_
  split
  · exact outWf_trap _ _ _ h
  · refine outWf_closing (fun u hu => ?_) h
    dsimp only
    split
    · exact outWf_native _ _ (remoteWf_jobBody _ _ _ hu) hu
    · exact outWf_shipClosing _ _ _ _ _ _ hu

theorem outWf_atomAccess (va : Word) (n : Nat) (a : Atom) {k : State → Bool → Option Nat → Loc → Out}
    (hk : ∀ c g l, KeepsWf (fun s => k s c g l)) (h : s.mem.wf = true) : OutWf (atomAccess s va n a k) := by
  unfold atomAccess
  split
  · exact outWf_trapMem _ _ _ h
  · trivial
  · exact outWf_screened _ _ _ (hk _ _ _) h
  · refine outWf_closingLate (fun u hu => outWf_screened _ _ _ (fun v hv => ?_) hu) h
    split
    · split <;> exact hv
    · exact hk _ _ _ _ hv
    · exact outWf_trap _ _ _ hv
  · exact outWf_closingLate (fun u hu => outWf_screened _ _ _ (hk _ _ _) hu) h

theorem outWf_execAmo (w : Bool) (o : Fin 8) (d a b : Fin 32) (z : Fin 8) (h : s.mem.wf = true) :
    OutWf (execAmo w o d a b z s) :=
  outWf_check _ h (outWf_atomAccess _ _ _ (fun _ _ _ _ hu => wf_finish _ _ _ _ hu) h)

theorem outWf_execAmocas (t : Bool) (c d a b : Fin 32) (z : Fin 8) (h : s.mem.wf = true) :
    OutWf (execAmocas t c d a b z s) :=
  outWf_check _ h (outWf_atomAccess _ _ _ (fun _ _ _ _ hu => wf_finish _ _ _ _ hu) h)

theorem outWf_wideAtom (i : Instr) (srcs : List Reg) (d : Fin 16) (a : Fin 32) (x y : Nat) (z : Fin 8)
    (h : s.mem.wf = true) :
    OutWf (wideAtom i srcs d a x y z s) := by
  refine outWf_check _ h ?_
  split
  · exact outWf_closing (fun u hu => outWf_native _ _ (remoteWf_wideBody _ _ _ _ _ hu) hu) h
  · extract_lets ship
    have hs : OutWf ship := outWf_closing (fun u hu => outWf_shipClosing _ _ _ _ _ _ hu) h
    split
    · split
      · exact outWf_trapMem _ _ _ h
      · exact hs
    · exact hs

theorem outWf_reduce (n : Nat) (k : Atom) (a b : Fin 32) (c : Nat) (e : Nat → Word → Effect) (z : Fin 8)
    (h : s.mem.wf = true) :
    OutWf (reduce n k a b c e z s) := by
  refine outWf_check _ h ?_
  split
  · exact outWf_trapMem _ _ _ h
  · trivial
  · exact outWf_screened _ _ _ (fun _ hu => hu) h

theorem outWf_execVred (t : Fin 8) (g : Fin 4) (d a b : Fin 32) (z : Fin 8) (h : s.mem.wf = true) :
    OutWf (execVred t g d a b z s) := by
  refine outWf_check _ h ?_
  split
  · exact outWf_trapMem _ _ _ h
  · trivial
  · exact outWf_screened _ _ _ (fun _ hu => hu) h

theorem outWf_execVbina (t : Fin 8) (g : Fin 4) (a b : Fin 32) (z : Fin 8) (h : s.mem.wf = true) :
    OutWf (execVbina t g a b z s) := by
  unfold execVbina
  extract_lets
  refine outWf_check _ h ?_
  split
  · exact h
  · split
    · exact outWf_trapMem _ _ _ h
    · trivial
    · split
      · exact outWf_trapMem _ _ _ h
      · trivial
      · split
        · exact h
        · exact outWf_screenedAll _ (fun _ hu => hu) h

theorem outWf_barCheck (n : Fin 8) {k : State → Out} (hk : KeepsWf k) (h : s.mem.wf = true) :
    OutWf (barCheck n s k) := by
  unfold barCheck
  split
  · exact outWf_closing hk h
  · exact outWf_trap _ _ _ h

theorem outWf_execBarw (n z : Fin 8) (h : s.mem.wf = true) : OutWf (execBarw n z s) := by
  refine outWf_barCheck _ (fun u hu => ?_) h
  dsimp only
  split
  · simpa using hu
  · exact wf_closed _ _ _ hu

theorem outWf_execWaitv (d a : Fin 32) (z : Fin 8) (h : s.mem.wf = true) : OutWf (execWaitv d a z s) := by
  refine outWf_check _ h (outWf_closing (fun u hu => ?_) h)
  extract_lets ends
  have he : ∀ r, KeepsWf (fun u => ends u r) := fun r u hu => wf_closed _ _ _ hu
  split
  · exact he _ _ hu
  · split
    · exact outWf_trapMem _ _ _ hu
    · trivial
    · exact outWf_ite (outWf_trapMem _ _ _ hu) (outWf_ite (he _ _ hu) (outWf_ite (he _ _ hu) hu))

theorem outWf_execFence (e : Bool) (z : Fin 8) (h : s.mem.wf = true) : OutWf (execFence e z s) := by
  refine outWf_closing (fun u hu => ?_) h
  dsimp only
  split
  · exact hu
  · exact wf_closed _ _ _ hu

theorem outWf_finishBody (z : Fin 8) (h : s.mem.wf = true) : OutWf (finishBody z s) := by
  unfold finishBody
  split
  · exact h
  · extract_lets u x c v
    have hv : v.mem.wf = true := by unfold v; split <;> exact h
    simpa using hv

theorem outWf_retire (k : Bool) (z : Fin 8) (h : s.mem.wf = true) : OutWf (retire k z s) := by
  unfold retire
  extract_lets t u x c v y w
  have hv : v.mem.wf = true := by unfold v; split <;> exact h
  have hw : w.mem.wf = true := wf_commitOlder _ hv
  split
  · exact h
  · split
    · exact hw
    · simpa using hw

theorem outWf_execWend (z : Fin 8) (h : s.mem.wf = true) : OutWf (execWend z s) := by
  unfold execWend
  split
  · exact outWf_trap _ _ _ h
  · split
    · exact outWf_finishBody _ h
    · exact outWf_closing (fun _ hu => outWf_retire _ _ hu) h

theorem outWf_execWaitw (z : Fin 8) (h : s.mem.wf = true) : OutWf (execWaitw z s) := by
  refine outWf_closing (fun u hu => ?_) h
  dsimp only
  split
  · split
    · exact wf_closed _ _ _ hu
    · exact hu
  · exact outWf_retire _ _ hu

theorem outWf_execYield (z : Fin 8) (h : s.mem.wf = true) : OutWf (execYield z s) := by
  refine outWf_check _ h ?_
  split
  · exact outWf_trap _ _ _ h
  · split
    · exact outWf_trap _ _ _ h
    · refine outWf_closing (fun u hu => ?_) h
      dsimp only
      split
      · exact wf_closed _ _ _ hu
      · split
        · exact hu
        · exact wf_commitOlder u.cur.tid hu

theorem outWf_spawning (o : Bool) (a b : Fin 32) (z : Fin 8) (h : s.mem.wf = true) : OutWf (spawning o a b z s) := by
  refine outWf_check _ h (outWf_access1 _ _ _ _ (fun c l u hu => outWf_reading _ _ (fun v hv => ?_) hu) h)
  dsimp only
  split
  · exact outWf_trap _ _ _ hv
  · exact outWf_handing _ (fun _ hw => wf_finish _ _ _ _ hw) hv

theorem outWf_execVscx (g : Fin 4) (d a : Fin 32) (z : Fin 8) (h : s.mem.wf = true) : OutWf (execVscx g d a z s) := by
  refine outWf_check _ h (outWf_closing (fun u hu => ?_) h)
  extract_lets ends
  split
  · exact wf_closed _ _ _ hu
  · refine outWf_withFlags _ (fun fl => ?_) hu
    split
    · exact wf_closed _ _ _ hu
    · exact hu

theorem outWf_csrOp (i : Instr) (n : BitVec 10) (d : Fin 32) (srcs : List Reg) (f : Option (Word → Word)) (z : Fin 8)
    (h : s.mem.wf = true) : OutWf (csrOp i n d srcs f z s) := by
  unfold csrOp
  extract_lets illegal
  split
  · exact outWf_trap _ _ _ h
  · refine outWf_check _ h ?_
    split
    · exact outWf_trap _ _ _ h
    · split
      · exact h
      · split
        · exact h
        · extract_lets go
          have hg : ∀ c, KeepsWf (fun u => go u c) := by
            intro c u hu
            have hw := csrWrite_mem u n
            dsimp only [go]
            rw [outWf_next]
            split
            · exact wf_closed _ _ _ (by rw [hw]; exact hu)
            · rw [done_mem, hw]; exact hu
          split
          · exact outWf_closing (hg true) h
          · exact hg false s h

theorem outWf_execEret (z : Fin 8) (h : s.mem.wf = true) : OutWf (execEret z s) := by
  refine outWf_privileged (outWf_closing (fun u hu => ?_) h) h
  refine wf_closed _ _ _ ?_
  split
  · exact hu
  · split
    · exact hu
    · rw [setThread_mem]; exact hu

theorem outWf_execPark (z : Fin 8) (h : s.mem.wf = true) : OutWf (execPark z s) := by
  refine outWf_privileged (outWf_closing (fun u hu => ?_) h) h
  refine wf_closed _ _ _ ?_
  split
  · exact hu
  · split
    · exact hu
    · rw [parkOut_mem]; exact hu

end

end Sys2Proof.Machine

end

section

/-!
# Device steps

Each device step and mailbox command keeps the canonical form.
-/

namespace Sys2Proof.Machine

theorem outWf_submit {s : State} (u : Fin 21) (code : Nat) (ok : Bool) {go : State → State}
    (hg : ∀ v : State, v.mem.wf = true → (go v).mem.wf = true) (h : s.mem.wf = true) : OutWf (submit s u code ok go) := by
  unfold submit
  extract_lets b v
  split
  · exact h
  · split
    · exact h
    · split
      · exact h
      · split
        · exact h
        · split
          · exact h
          · exact hg _ h

theorem keeps_execChunkCommitRequest (tid : Nat) : KeepsWf (execChunkCommitRequest tid) := by
  intro s h
  unfold execChunkCommitRequest
  split <;> simpa using h

theorem keeps_execWriteSignatureReceive (tid tile : Nat) : KeepsWf (execWriteSignatureReceive tid tile) := by
  intro s h
  simpa [execWriteSignatureReceive] using h

theorem keeps_execPinAcquire (tid : Nat) : KeepsWf (execPinAcquire tid) := by
  intro s h
  unfold execPinAcquire
  dsimp only
  (repeat' split) <;> simpa using h

theorem keeps_execSerialTokenGrant : KeepsWf execSerialTokenGrant := by
  intro s h
  unfold execSerialTokenGrant
  dsimp only
  (repeat' split) <;> simpa using h

theorem keeps_execAppendElementAck (line : Nat) : KeepsWf (execAppendElementAck line) := fun _ h => h

theorem keeps_execResultWriteback (tid : Nat) : KeepsWf (execResultWriteback tid) := by
  intro s h
  unfold execResultWriteback
  split <;> simpa using h

theorem keeps_execMemoryReply (tid : Nat) : KeepsWf (execMemoryReply tid) := by
  intro s h
  simpa [execMemoryReply] using h

theorem keeps_execPenstockAdmit (k : Nat) : KeepsWf (execPenstockAdmit k) := by
  intro s h
  unfold execPenstockAdmit
  dsimp only
  (repeat' split) <;> simpa using h

theorem keeps_execShipRetry (k : Nat) : KeepsWf (execShipRetry k) := by
  intro s h
  unfold execShipRetry
  (repeat' split) <;> simpa using h

theorem keeps_execCancelNotice (k : Nat) : KeepsWf (execCancelNotice k) := by
  intro s h
  unfold execCancelNotice
  (repeat' split) <;> simpa using h

theorem keeps_execVscxTimeout (tid : Nat) : KeepsWf (execVscxTimeout tid) := by
  intro s h
  unfold execVscxTimeout
  (repeat' split) <;> simpa using h

theorem keeps_execLcbaseWrite (f : Fin 17) (v : BitVec 64) : KeepsWf (execLcbaseWrite f v) := fun _ h => h

theorem keeps_execLcctlEnable (f : Fin 17) (v : BitVec 64) : KeepsWf (execLcctlEnable f v) := by
  intro s h
  unfold execLcctlEnable
  split <;> simpa using h

theorem keeps_execLcctlDisable (f : Fin 17) (v : BitVec 64) : KeepsWf (execLcctlDisable f v) := by
  intro s h
  unfold execLcctlDisable
  split <;> simpa using h

theorem keeps_execLcstatStoppedClear (f : Fin 17) : KeepsWf (execLcstatStoppedClear f) := fun _ h => h

theorem keeps_execLcstatFlagClear (f : Fin 17) (badtail fetch : Bool) :
    KeepsWf (execLcstatFlagClear f badtail fetch) := fun _ h => h

theorem keeps_execRegisterWrite (f : Fin 17) (off : Nat) (v : BitVec 64) : KeepsWf (execRegisterWrite f off v) := by
  intro s h
  unfold execRegisterWrite
  (repeat' split) <;> simpa using h

theorem keeps_execCpItemDeliver (l : Nat) : KeepsWf (execCpItemDeliver l) := by
  intro s h
  unfold execCpItemDeliver
  dsimp only
  (repeat' split) <;> simpa using h

theorem keeps_execLaunchAcknowledge (f : Fin 17) : KeepsWf (execLaunchAcknowledge f) := by
  intro s h
  unfold execLaunchAcknowledge
  (repeat' split) <;> simpa using h

theorem keeps_execFirmwareRestartComplete : KeepsWf execFirmwareRestartComplete := by
  intro s h
  unfold execFirmwareRestartComplete
  split <;> simpa using h

theorem keeps_execCoreTake (l : Nat) : KeepsWf (execCoreTake l) := by
  intro s h
  unfold execCoreTake
  (repeat' split) <;> simpa using h

theorem keeps_execNocluCoreRelease (core : Nat) : KeepsWf (execNocluCoreRelease core) := by
  intro s h
  unfold execNocluCoreRelease
  split <;> simpa using h

theorem keeps_execSluiceGrant (tid : Nat) : KeepsWf (execSluiceGrant tid) := by
  intro s h
  unfold execSluiceGrant
  dsimp only
  (repeat' split) <;> simpa using h

theorem keeps_execSluiceRefill (d : Nat) : KeepsWf (execSluiceRefill d) := by
  intro s h
  unfold execSluiceRefill
  split <;> simpa [foldl_mem] using h

theorem keeps_execSluiceMinimaExchange (l : Nat) : KeepsWf (execSluiceMinimaExchange l) := fun _ h => h

theorem keeps_execLeaveToCommit (l : Nat) : KeepsWf (execLeaveToCommit l) := by
  intro s h
  unfold execLeaveToCommit
  split <;> simpa using h

theorem keeps_execOrderedTaskRetire (l : Nat) : KeepsWf (execOrderedTaskRetire l) := by
  intro s h
  unfold execOrderedTaskRetire
  split <;> simpa using h

theorem keeps_execGvtSample : KeepsWf execGvtSample := by
  intro s h
  unfold execGvtSample
  split <;> simpa [foldl_mem] using h

theorem keeps_execShoeRefill (c : Nat) : KeepsWf (execShoeRefill c) := by
  intro s h
  unfold execShoeRefill
  split <;> simpa using h

theorem keeps_execItemAging (c : Nat) : KeepsWf (execItemAging c) := fun _ h => h

theorem keeps_execShoeDispatch (c : Nat) : KeepsWf (execShoeDispatch c) := by
  intro s h
  unfold execShoeDispatch
  (repeat' split) <;> simpa using h

theorem keeps_execSlotLoadComplete (tid : Nat) : KeepsWf (execSlotLoadComplete tid) := by
  intro s h
  unfold execSlotLoadComplete
  (repeat' split) <;> simpa [foldl_mem] using h

theorem keeps_execItemWalkHop : KeepsWf execItemWalkHop := by
  intro s h
  unfold execItemWalkHop
  dsimp only
  (repeat' split) <;> simpa using h

theorem keeps_execBalancingStep (c : Nat) : KeepsWf (execBalancingStep c) := by
  intro s h
  unfold execBalancingStep
  split <;> simpa [foldl_mem] using h

theorem keeps_execPondAbsorb (tile : Nat) : KeepsWf (execPondAbsorb tile) := by
  intro s h
  unfold execPondAbsorb
  (repeat' split) <;> simpa using h

theorem keeps_execForwardEntryFree (tile : Nat) : KeepsWf (execForwardEntryFree tile) := by
  intro s h
  unfold execForwardEntryFree
  split <;> simpa using h

theorem keeps_execHoistCopyStart (c : Nat) : KeepsWf (execHoistCopyStart c) := by
  intro s h
  unfold execHoistCopyStart
  dsimp only
  (repeat' split) <;> simpa using h

theorem keeps_execBarrierRelease (k : Nat) : KeepsWf (execBarrierRelease k) := by
  intro s h
  simpa [execBarrierRelease] using h

theorem keeps_execWaitvWake (tid : Nat) : KeepsWf (execWaitvWake tid) := by
  intro s h
  unfold execWaitvWake
  (repeat' split) <;> simpa using h

theorem keeps_execWaitvTimeout (tid : Nat) : KeepsWf (execWaitvTimeout tid) := by
  intro s h
  unfold execWaitvTimeout
  (repeat' split) <;> simpa using h

theorem keeps_execPeerResponse (tid : Nat) (status : Fin 8) (data : List (BitVec 8)) :
    KeepsWf (execPeerResponse tid status data) := by
  intro s h
  unfold execPeerResponse
  split <;> simpa using h

theorem keeps_execPeerTimeout (tid : Nat) : KeepsWf (execPeerTimeout tid) := by
  intro s h
  unfold execPeerTimeout
  (repeat' split) <;> simpa using h

theorem keeps_execWatchdogExpiry (tid : Nat) (commit : Bool) : KeepsWf (execWatchdogExpiry tid commit) := by
  intro s h
  unfold execWatchdogExpiry
  (repeat' split) <;> simpa using h

theorem keeps_execEccUncorrectable (tid : Nat) (va : BitVec 64) (origin : Fin 8) :
    KeepsWf (execEccUncorrectable tid va origin) := by
  intro s h
  unfold execEccUncorrectable
  dsimp only
  (repeat' split) <;> simpa using h

theorem keeps_execScrub (key : Nat) (bad : Bool) : KeepsWf (execScrub key bad) := by
  intro s h
  unfold execScrub
  (repeat' split) <;> simpa [foldl_mem] using h

theorem keeps_execHostOwnershipGrant (tid : Nat) : KeepsWf (execHostOwnershipGrant tid) := by
  intro s h
  unfold execHostOwnershipGrant
  (repeat' split) <;> simpa using h

theorem keeps_execCxlBiResponse (tid : Nat) : KeepsWf (execCxlBiResponse tid) := by
  intro s h
  unfold execCxlBiResponse
  split <;> simpa using h

theorem keeps_execPeerPortDown (port : Fin 16) : KeepsWf (execPeerPortDown port) := by
  intro s h
  simpa [execPeerPortDown, foldl_mem] using h

theorem keeps_execThermalTrip (die : Fin 4) (sensor temp : Nat) : KeepsWf (execThermalTrip die sensor temp) := by
  intro s h
  unfold execThermalTrip
  split <;> simpa using h

theorem keeps_execThermalCritical : KeepsWf execThermalCritical := fun _ h => h

theorem keeps_execPowerVoltageSettled : KeepsWf execPowerVoltageSettled := by
  intro s h
  unfold execPowerVoltageSettled
  (repeat' split) <;> simpa using h

theorem keeps_execLinkTrainingComplete (width : Fin 5) (gen : Fin 3) :
    KeepsWf (execLinkTrainingComplete width gen) := fun _ h => h

theorem keeps_execMailboxCompletion (u : Fin 21) : KeepsWf (execMailboxCompletion u) := by
  intro s h
  unfold execMailboxCompletion
  dsimp only
  (repeat' split) <;> simpa using h

theorem keeps_execDoorbellWhileBusy (u : Fin 21) : KeepsWf (execDoorbellWhileBusy u) := by
  intro s h
  simpa [execDoorbellWhileBusy] using h

theorem keeps_execMailboxUnknownCommand (u : Fin 21) (code : BitVec 16) :
    KeepsWf (execMailboxUnknownCommand u code) := by
  intro s h
  unfold execMailboxUnknownCommand
  dsimp only
  (repeat' split) <;> simpa using h

theorem keeps_execInfo (u : Fin 21) : KeepsWf (execInfo u) :=
  fun _ h => outWf_submit _ _ _ (fun _ hv => by simpa using hv) h

theorem keeps_execFwload (u : Fin 21) (addr : BitVec 64) (len : Nat) (crcOk : Bool) :
    KeepsWf (execFwload u addr len crcOk) :=
  fun _ h => outWf_submit _ _ _ (fun _ hv => by simpa using hv) h

theorem keeps_execPart (u : Fin 21) (f : Fin 17) (clusters tiles : List Nat) :
    KeepsWf (execPart u f clusters tiles) :=
  fun _ h => outWf_submit _ _ _ (fun _ hv => by simpa using hv) h

theorem keeps_execAscreate (u : Fin 21) (asid : Fin 1024) (root : BitVec 64) (place : Bool) (owner : Fin 17) :
    KeepsWf (execAscreate u asid root place owner) :=
  fun _ h => outWf_submit _ _ _ (fun _ hv => by simpa using hv) h

theorem keeps_execAsretire (u : Fin 21) (asid : Fin 1024) : KeepsWf (execAsretire u asid) :=
  fun _ h => outWf_submit _ _ _ (fun _ hv => by simpa using hv) h

theorem keeps_execQuota (u : Fin 21) (f : Fin 17) (n : Nat) : KeepsWf (execQuota u f n) :=
  fun _ h => outWf_submit _ _ _ (fun _ hv => by simpa using hv) h

theorem keeps_execSave (u : Fin 21) (tile : Nat) (image pond : BitVec 64) : KeepsWf (execSave u tile image pond) :=
  fun _ h => outWf_submit _ _ _ (fun _ hv => by simpa using hv) h

theorem keeps_execRestore (u : Fin 21) (image : BitVec 64) (target : Nat) (arch : Bool) :
    KeepsWf (execRestore u image target arch) := by
  refine fun s h => outWf_submit _ _ _ (fun v hv => ?_) h
  (repeat' split) <;> simpa using hv

theorem keeps_execDiscard (u : Fin 21) (image : BitVec 64) : KeepsWf (execDiscard u image) := by
  refine fun s h => outWf_submit _ _ _ (fun v hv => ?_) h
  (repeat' split) <;> simpa using hv

theorem keeps_execPlace (u : Fin 21) (interval threshold aging : Nat) :
    KeepsWf (execPlace u interval threshold aging) :=
  fun _ h => outWf_submit _ _ _ (fun _ hv => by simpa using hv) h

theorem keeps_execGridmap (u : Fin 21) (f : Fin 17) (seq : Nat) : KeepsWf (execGridmap u f seq) := by
  refine fun s h => outWf_submit _ _ _ (fun v hv => ?_) h
  (repeat' split) <;> simpa using hv

theorem keeps_execAbort (u : Fin 21) (f : Fin 17) (seq : Nat) : KeepsWf (execAbort u f seq) := by
  refine fun s h => outWf_submit _ _ _ (fun v hv => ?_) h
  (repeat' split) <;> simpa using hv

theorem keeps_execShare (u : Fin 21) (cluster : Fin 64) (value : Option (BitVec 4)) :
    KeepsWf (execShare u cluster value) := by
  refine fun s h => outWf_submit _ _ _ (fun v hv => ?_) h
  (repeat' split) <;> simpa using hv

theorem keeps_execPeercfg (u : Fin 21) (dev : BitVec 8) (routes : List (Nat × List Nat))
    (windows : List (Nat × Nat × Nat × Nat)) :
    KeepsWf (execPeercfg u dev routes windows) :=
  fun _ h => outWf_submit _ _ _ (fun _ hv => by simpa using hv) h

theorem keeps_execPower (u : Fin 21) (clock mv : Nat) : KeepsWf (execPower u clock mv) := by
  refine fun s h => outWf_submit _ _ _ (fun v hv => ?_) h
  (repeat' split) <;> simpa using hv

theorem keeps_execTherm (u : Fin 21) (die : Fin 4) : KeepsWf (execTherm u die) :=
  fun _ h => outWf_submit _ _ _ (fun _ hv => by simpa using hv) h

theorem keeps_execTelem (u : Fin 21) (die : Fin 4) : KeepsWf (execTelem u die) :=
  fun _ h => outWf_submit _ _ _ (fun _ hv => by simpa using hv) h

theorem keeps_execErrlog (u : Fin 21) (f : Fin 17) : KeepsWf (execErrlog u f) :=
  fun _ h => outWf_submit _ _ _ (fun _ hv => by simpa using hv) h

theorem keeps_execSupervisorRestart (die : Fin 4) (pc : BitVec 64) : KeepsWf (execSupervisorRestart die pc) := by
  intro s h
  unfold execSupervisorRestart
  (repeat' split) <;> simpa using h

theorem keeps_execLockstepMismatch : KeepsWf execLockstepMismatch := by
  intro s h
  unfold execLockstepMismatch
  split
  · exact h
  · extract_lets
    rw [outWf_next, handAlone_mem, foldl_mem (by simp), foldl_mem (by simp)]
    show ((List.range s.work.launches.length).foldl withdraw s).mem.wf = true
    rw [foldl_mem (by simp)]
    exact h

theorem keeps_execGangSlotReserve (agent : Nat) : KeepsWf (execGangSlotReserve agent) := by
  intro s h
  unfold execGangSlotReserve
  split
  · exact h
  · split
    · exact h
    next inst slots _ =>
      generalize minBy Thread.tid slots = tid
      cases tid <;> dsimp only <;> split <;> simpa [foldl_mem, keepReserved] using h

theorem keeps_execHostWrite (f : Fin 17) (off : Nat) (data : List (BitVec 8)) : KeepsWf (execHostWrite f off data) :=
  fun _ h => wf_takeTurn _ (fun _ hu => wf_hostWriteLines _ _ _ _ hu) h

theorem keeps_execHostRead (f : Fin 17) (off len : Nat) : KeepsWf (execHostRead f off len) :=
  fun _ h => wf_takeTurn _ (fun _ hu => by rw [hostReadLines_mem]; exact hu) h

theorem keeps_execLctailWrite (f : Fin 17) (v : BitVec 64) : KeepsWf (execLctailWrite f v) :=
  fun _ h => wf_takeTurn _ (fun _ hu => by rw [writeTail_mem]; exact hu) h

theorem keeps_execAperture (u : Fin 21) (f : Fin 17) (size : Nat) (apva : BitVec 64) :
    KeepsWf (execAperture u f size apva) := by
  refine fun s h => outWf_submit _ _ _ (fun v hv => ?_) h
  split
  · exact hv
  · rw [reply_mem, mapFunc_mem, foldl_mem (by simp)]; exact hv

theorem keeps_guestRun (x : Ship) {body : State → Remote} (hb : ∀ u : State, u.mem.wf = true → RemoteWf (body u)) :
    KeepsWf (guestRun x body) := by
  intro s h
  unfold guestRun
  extract_lets set fails
  have hset : ∀ u f, u.mem.wf = true → OutWf (set u f) := fun u f hu => by
    dsimp only [set]
    rw [outWf_next, mapShip_mem, afterGuest_mem]
    exact hu
  have hg : RemoteWf (body (guestState s x)) := hb _ h
  split
  next u hu => exact hset _ _ (by rw [hu] at hg; exact hg)
  · exact h
  · exact wf_onThread _ (fun u hu => by simpa using hu) h
  · exact h
  · trivial
  next u r fl e hu => exact hset _ _ (by rw [hu] at hg; rw [share_mem]; exact hg)

theorem remoteWf_remoteBody {x : Ship} {body : State → Remote} (hb : remoteBody x = some body) (u : State)
    (hu : u.mem.wf = true) : RemoteWf (body u) := by
  unfold remoteBody at hb
  split at hb
  · cases hb; exact remoteWf_wideBody _ _ _ _ _ hu
  · cases hb; exact remoteWf_wideBody _ _ _ _ _ hu
  · obtain ⟨j, -, rfl⟩ := Option.map_eq_some_iff.1 hb
    exact remoteWf_jobBody _ _ _ hu

theorem keeps_execGuestExecute (c : Nat) : KeepsWf (execGuestExecute c) := by
  intro s h
  unfold execGuestExecute
  split
  · exact h
  · split
    · exact h
    · unfold guestExecute
      split
      · exact h
      next body hb => exact keeps_guestRun _ (remoteWf_remoteBody hb) _ h

theorem keeps_execMatrixJobComplete (tid : Nat) : KeepsWf (execMatrixJobComplete tid) := by
  intro s h
  unfold execMatrixJobComplete
  split
  · simpa using h
  · split
    · exact h
    · split
      · exact h
      · split
        next body hb => exact keeps_guestRun _ (remoteWf_remoteBody hb) _ h
        · exact h

theorem keeps_execWeirNodeGrant (tid : Nat) : KeepsWf (execWeirNodeGrant tid) := fun _ h => wf_grantNext _ h

theorem keeps_execCommitRelease (tid : Nat) : KeepsWf (execCommitRelease tid) := fun _ h => wf_releaseCommit _ h

theorem keeps_execChunkBoundary (tid : Nat) (kind : Fin 5) : KeepsWf (execChunkBoundary tid kind) := by
  intro s h
  unfold execChunkBoundary
  split
  · exact h
  · split
    · exact h
    · split
      · simpa using h
      · split
        · split
          · exact h
          · simpa using h
          · exact wf_cutThread _ _ h
          · exact wf_cutThread _ _ h
        · exact wf_cutThread _ _ h

theorem keeps_takeReply (k : Nat) : KeepsWf (takeReply k) := by
  intro s h
  unfold takeReply
  split
  · exact h
  · split
    · simpa using h
    · split
      · exact h
      · extract_lets stands t' v
        split
        · exact h
        · have hv : v.mem.wf = true := by simpa [v] using h
          split
          · exact hv
          · split
            · split
              · rw [outWf_next]
                split
                · exact wf_onThread _ (fun _ hu => wf_finishShip _ hu) hv
                · exact hv
              · rw [outWf_next, setThread_mem]; exact hv
            · exact outWf_ite (wf_onThread _ (fun _ hu => wf_shipTrap _ hu) hv) (by simpa using hv)
            · exact outWf_ite (wf_onThread _ (fun _ hu => wf_shipTrap _ hu) hv) (by simpa using hv)
            · simpa using hv

theorem keeps_execShipReply (k : Nat) : KeepsWf (execShipReply k) := by
  intro s h
  unfold execShipReply
  split
  · exact h
  · exact keeps_takeReply _ _ (by simpa using h)

theorem wf_getD {o : Option State} {s : State} (ho : ∀ u, o = some u → u.mem.wf = true) (h : s.mem.wf = true) :
    (o.getD s).mem.wf = true := by
  cases o with
  | none => exact h
  | some u => exact ho u rfl

theorem keeps_execRecordTake (f : Fin 17) (ok : Bool) : KeepsWf (execRecordTake f ok) := by
  intro s h
  unfold execRecordTake
  split
  · exact h
  · extract_lets x seq took
    split
    · simpa using h
    · split
      · exact h
      next bs _ _ =>
        exact wf_getD (fun u hu => wf_checkRecord hu h) (by simpa using h)

theorem keeps_execLaunchComplete (l : Nat) : KeepsWf (execLaunchComplete l) := by
  intro s h
  unfold execLaunchComplete
  split
  · exact h
  · split
    · split
      · simpa using h
      next u hu =>
        rw [outWf_next, retireLeft_mem, mapLaunch_mem, foldl_mem (by simp)]
        exact wf_writeCompletion hu h
    · exact h

theorem keeps_execZeroingComplete (tile : Nat) : KeepsWf (execZeroingComplete tile) := by
  intro s h
  unfold execZeroingComplete
  split
  · exact h
  · extract_lets u w
    have hu : u.mem.wf = true := wf_zeroArrays _ h
    split <;> exact hu

theorem keeps_execSluiceAccept (d : Nat) : KeepsWf (execSluiceAccept d) := by
  intro s h
  unfold execSluiceAccept
  split
  · exact h
  · extract_lets
    split
    · exact h
    · exact wf_sluiceSpill _ _ h

theorem keeps_execShoeItemArrive (c : Nat) : KeepsWf (execShoeItemArrive c) := by
  intro s h
  unfold execShoeItemArrive
  split
  · exact h
  · exact wf_acceptItem _ _ h

theorem keeps_execFantailBatchArrive (c : Nat) : KeepsWf (execFantailBatchArrive c) := by
  intro s h
  unfold execFantailBatchArrive
  split
  · exact h
  · exact foldl_wf (fun _ _ hu => wf_acceptItem _ _ hu) _ h

theorem wf_deliverPacket {s : State} (p : Packet) (h : s.mem.wf = true) : (deliverPacket s p).mem.wf = true := by
  unfold deliverPacket
  split
  next k =>
    have hk := keeps_execShipReply k s h
    split
    next u hu => rw [hu] at hk; exact hk
    · exact h
  · simpa using h
  · simpa using h

theorem wf_startTile {s : State} (tile gap : Nat) (pond : List PondEntry) (h : s.mem.wf = true) :
    (startTile s tile gap pond).mem.wf = true := by
  unfold startTile
  extract_lets
  rw [foldl_mem (fun u tid => by (repeat' split) <;> simp)]
  refine foldl_wf (fun _ _ hu => wf_deliverPacket _ hu) _ ?_
  rw [foldl_mem (by simp)]
  exact h

theorem keeps_execSaveComplete (tile : Nat) : KeepsWf (execSaveComplete tile) := by
  intro s h
  unfold execSaveComplete
  split
  · exact h
  · split
    · exact h
    · split
      · exact h
      · rw [outWf_next, reply_mem]; exact wf_saveImage _ _ _ _ h

theorem keeps_execRestoreLoaded (tile : Nat) : KeepsWf (execRestoreLoaded tile) := by
  intro s h
  unfold execRestoreLoaded
  split
  · exact h
  · split
    · simpa using h
    · extract_lets old frozenAt all s1 pond marks s2 s3 s4 shell
      have h1 : s1.mem.wf = true := by
        unfold s1
        split
        · exact wf_sameLoad _ _ _ h
        · exact wf_archLoad _ _ _ _ h
        · exact wf_archLoad _ _ _ _ (by simpa using h)
      have h3 : s3.mem.wf = true := by unfold s3; rw [moveHub_mem]; exact h1
      have h4 : s4.mem.wf = true := by
        unfold s4
        split
        · exact h3
        · rw [mapTile_mem]; exact h3
      rw [outWf_next, reply_mem]
      exact wf_startTile _ _ _ h4

theorem keeps_execPacketForward (tile : Nat) : KeepsWf (execPacketForward tile) := by
  intro s h
  unfold execPacketForward
  extract_lets x go
  have hg : ∀ p y, (go p y).mem.wf = true := by
    intro p y
    dsimp only [go]
    split
    · exact wf_deliverPacket _ h
    · exact h
  split
  · exact hg _ _
  · exact hg _ _
  · exact h

theorem keeps_execHoistPiece (c : Nat) (ch : Fin 4) : KeepsWf (execHoistPiece c ch) := by
  intro s h
  unfold execHoistPiece
  split
  · exact h
  · extract_lets p
    split
    · trivial
    · simpa using h
    · trivial
    · simpa using h
    · split
      · split <;> exact h
      · split
        · simpa using h
        · exact wf_doPiece _ _ _ _ _ _ _ _ h
      · exact wf_doPiece _ _ _ _ _ _ _ _ h

theorem keeps_execTailracePost (d : Nat) : KeepsWf (execTailracePost d) := by
  intro s h
  unfold execTailracePost
  extract_lets x
  split
  · exact wf_getD (fun u hu => wf_postRecord hu h) (wf_keepWaiting _ h)
  · exact wf_getD (fun u hu => wf_postRecord hu h) (wf_keepWaiting _ h)
  · exact h

theorem keeps_execHostAtomicCompletion (tid : Nat) (val : Option (BitVec 128)) :
    KeepsWf (execHostAtomicCompletion tid val) := by
  intro s h
  unfold execHostAtomicCompletion
  split
  · exact h
  · split
    · simpa using h
    · split
      · exact h
      · exact h
      · extract_lets l u v
        have hv : v.mem.wf = true := by
          unfold v
          split
          · exact h
          · rw [lateRecord_mem]; exact wf_setNum _ _ _ h
        rw [outWf_next, endFence_mem]
        exact hv

theorem keeps_execHostAtomicop (f : Fin 17) (off : Nat) (op size : Fin 3) (x y : BitVec 128) :
    KeepsWf (execHostAtomicop f off op size x y) :=
  fun _ h => wf_takeTurn _ (fun _ hu => wf_hostAtomic _ _ _ _ _ _ hu) h

theorem keeps_execHostWriteAck (ok : Bool) : KeepsWf (execHostWriteAck ok) := by
  intro s h
  unfold execHostWriteAck
  split
  · exact h
  next e rest _ =>
    split
    next m rest' hm =>
      have hw : m.wf = true := by
        split at hm
        · cases hm; exact h
        · have := wf_refuseWrite rest e.old h
          rw [hm] at this; exact this
      rw [outWf_next, endFence_mem]
      split <;> exact hw

theorem keeps_execCxlSnoop (line : Nat) : KeepsWf (execCxlSnoop line) :=
  fun _ h => wf_takeTurn _ (fun _ hu => wf_snoopLine _ hu) h

theorem keeps_execPeerAccessArrive (src : BitVec 8) (off : Nat) (kind : Fin 3) (op : Nat) (data : List (BitVec 8)) :
    KeepsWf (execPeerAccessArrive src off kind op data) :=
  fun _ h => wf_takeTurn _ (fun _ hu => wf_peerAccess _ _ _ _ _ _ _ hu) h

theorem keeps_execModuleReset : KeepsWf execModuleReset := fun _ h => wf_resetModule h

theorem keeps_execFunctionLevelReset (f : Fin 17) : KeepsWf (execFunctionLevelReset f) := by
  intro s h
  unfold execFunctionLevelReset
  split
  · exact wf_resetModule h
  · split
    · exact h
    · exact wf_takeTurn _ (fun _ hu => by rw [resetFunction_mem]; exact hu) h

theorem keeps_execStart (u : Fin 21) (failed : Option Nat) : KeepsWf (execStart u failed) := by
  refine fun s h => outWf_submit _ _ _ (fun v hv => ?_) h
  split
  · exact hv
  · split
    · exact hv
    · rw [reply_mem]; exact wf_bringUp hv

theorem keeps_execMap (u : Fin 21) (asid : Fin 1024) (va leaf : BitVec 64) (big : Bool) :
    KeepsWf (execMap u asid va leaf big) := by
  refine fun s h => outWf_submit _ _ _ (fun v hv => ?_) h
  extract_lets
  split
  · exact hv
  · split
    · rw [reply_mem]; exact wf_mapPoint _ _ _ _ _ hv
    · exact hv

theorem keeps_execMapFillComplete : KeepsWf execMapFillComplete := by
  intro s h
  unfold execMapFillComplete
  split
  · exact h
  · split
    · rw [outWf_next, agentWait_mem]; exact h
    · rw [outWf_next, reply_mem]
      exact wf_mapPoint _ _ _ _ _ (foldl_wf (fun _ _ hu => wf_fillFrame _ _ hu) _ h)

theorem keeps_execUnmap (u : Fin 21) (asid : Fin 1024) (va : BitVec 64) : KeepsWf (execUnmap u asid va) :=
  fun _ h => outWf_submit _ _ _ (fun _ hv => wf_takeTurn _ (fun _ hu => wf_remap _ _ _ _ hu) hv) h

theorem keeps_execProtect (u : Fin 21) (asid : Fin 1024) (va leaf : BitVec 64) :
    KeepsWf (execProtect u asid va leaf) :=
  fun _ h => outWf_submit _ _ _ (fun _ hv => wf_takeTurn _ (fun _ hu => wf_remap _ _ _ _ hu) hv) h

theorem keeps_execAreg (u : Fin 21) (asid : Fin 1024) (va : BitVec 64) (casid : Fin 1024) (cva : BitVec 64)
    (big : Bool) :
    KeepsWf (execAreg u asid va casid cva big) :=
  fun _ h => outWf_submit _ _ _ (fun _ hv => wf_takeTurn _ (fun _ hu => wf_register _ _ _ _ _ _ hu) hv) h

theorem keeps_execAdel (u : Fin 21) (asid : Fin 1024) (va : BitVec 64) : KeepsWf (execAdel u asid va) :=
  fun _ h => outWf_submit _ _ _ (fun _ hv => wf_takeTurn _ (fun _ hu => wf_unregister _ _ _ hu) hv) h

theorem keeps_execTrcb (u : Fin 21) (die : Fin 4) (va rbase hbase : BitVec 64) :
    KeepsWf (execTrcb u die va rbase hbase) := by
  refine fun s h => outWf_submit _ _ _ (fun v hv => ?_) h
  split
  · exact hv
  · exact wf_takeTurn _ (fun _ hu => wf_giveBlock _ _ _ _ _ hu) hv

theorem keeps_execFreeze (u : Fin 21) (tiles : List Nat) : KeepsWf (execFreeze u tiles) := by
  refine fun s h => outWf_submit _ _ _ (fun v hv => ?_) h
  split
  · exact hv
  · split
    · exact hv
    · exact foldl_wf (fun _ _ hu => wf_freezeTile _ hu) _ hv

theorem keeps_execThaw (u : Fin 21) (tile : Nat) : KeepsWf (execThaw u tile) := by
  refine fun s h => outWf_submit _ _ _ (fun v hv => ?_) h
  extract_lets
  split
  · exact hv
  · exact wf_startTile _ _ _ hv

theorem keeps_execVacate (u : Fin 21) (tile : Nat) : KeepsWf (execVacate u tile) := by
  refine fun s h => outWf_submit _ _ _ (fun v hv => ?_) h
  extract_lets
  split
  · exact hv
  · exact wf_vacateTile _ hv

end Sys2Proof.Machine

end

section

/-!
# Every instruction

`exec` keeps the canonical form, instruction by instruction.
-/

namespace Sys2Proof.Machine

theorem keeps_exec (i : Instr) : KeepsWf (exec i) := by
  intro s h
  unfold exec
  cases i
  case add | sub | mul | mulh | mulhz | and | or | xor | andn | shl | shr | sha | min | max | minz | maxz | extb | lea |
      addC | subC | andC | orC => exact outWf_binG _ _ _ _ _ _ _ h
  case clz | ctz | popc | abs | addi | andi | ori | xori | shli | shri | shai | lih | addiC | shliC | shriC | shaiC =>
    exact outWf_unG _ _ _ _ _ h
  case div | divz | rem | remz => exact outWf_slowG _ _ _ _ _ h
  case pand | por | pxor => exact outWf_binP _ _ _ _ _ h
  case insb | sel | cmp | cmpi | pnot | pget | pput | pcnt | ext | extget | exti | pref | dscrd => exact outWf_check _ h h
  case beq | bne | blt | bge | blo | bhs => exact outWf_branchOn _ _ _ _ _ h
  case bp | bnp | loop | beqC | bneC => exact outWf_check _ h (outWf_branch _ _ _ _ _ h)
  case jr | callr | jrC => exact outWf_check _ h (outWf_jumpTo _ _ _ h)
  case li | liC | jmp | jmpC | call | copyq | chid | nop => exact h
  case fadd | fsub | fmul | frfn => exact outWf_fop2 _ _ _ _ _ _ h
  case fmin | fmax | fcmp | fsgn => exact outWf_fop2n _ _ _ _ _ _ h
  case fcvt | frcp | frsq | fclass | ffma => exact outWf_check _ h (outWf_fpEnd _ _ _ _ _ h)
  case dadd | dsub | dmul | ddiv | dmin | dmax | dcmp | fdiv | dsqrt | fexp2 | flog2 | fsin | fcos | fsqrt | dcvt | dfma =>
    exact outWf_hop _ _ _ _ h
  case vadd | vsub | vmul | vfma | vmin | vmax | vsgn | vand | vor | vxor | vshl | vshr | vsha | vdot | vperm =>
    exact outWf_vec2 _ _ _ _ _ _ _ _ _ _ h
  case vcvt | vreds | vscan | vcmpr | vexpd | vrcp | vrsq | vtrn => exact outWf_vec1 _ _ _ _ _ _ _ _ h
  case vcmp | vsel | viota | vqnt | vbcst | vgetl | vsetl => exact outWf_vecInstr _ _ _ _ _ _ _ _ _ _ _ _ _ h
  case ld | ldz | ldDC | extld => exact outWf_loadScalar _ _ _ _ _ _ h
  case st | stDC => exact outWf_storeScalar _ _ _ _ _ _ h
  case vld => exact outWf_execVld _ _ _ _ _ _ h
  case vst => exact outWf_execVst _ _ _ _ _ _ h
  case vlds | vgath => exact outWf_loadLanes _ _ _ _ _ h
  case vsts | vscat => exact outWf_storeLanes _ _ _ _ _ h
  case vldf => exact outWf_execVldf _ _ _ _ _ h
  case vstf => exact outWf_execVstf _ _ _ _ _ h
  case copy | zfill => exact outWf_copying _ _ _ _ h
  case copyw => exact outWf_execCopyw _ _ h
  case mma | mmaz | mdrn | mtrn | mrsum => exact outWf_matrixJob _ _ _ _ h
  case amo => exact outWf_execAmo _ _ _ _ _ _ h
  case amocas => exact outWf_execAmocas _ _ _ _ _ _ h
  case amow | amowcas => exact outWf_wideAtom _ _ _ _ _ _ _ h
  case red | redf | redd => exact outWf_reduce _ _ _ _ _ _ _ h
  case vred => exact outWf_execVred _ _ _ _ _ _ h
  case vbina => exact outWf_execVbina _ _ _ _ _ h
  case chend => exact outWf_closing (fun _ hu => wf_closed _ _ _ hu) h
  case bar | bara => exact outWf_barCheck _ (fun _ hu => wf_arriving _ _ hu) h
  case barw => exact outWf_execBarw _ _ h
  case waitv => exact outWf_execWaitv _ _ _ h
  case fence => exact outWf_execFence _ _ h
  case waitw => exact outWf_execWaitw _ h
  case spawn | ospawn => exact outWf_spawning _ _ _ _ h
  case wend => exact outWf_execWend _ h
  case yield => exact outWf_execYield _ h
  case vscx => exact outWf_execVscx _ _ _ _ h
  case csrr | csrw | csrs | csrc => exact outWf_csrOp _ _ _ _ _ _ h
  case trap => exact outWf_check _ h (wf_takeTrapRec _ _ h)
  case brk => exact wf_takeTrapRec _ _ h
  case eret => exact outWf_execEret _ h
  case park => exact outWf_execPark _ h
  case ill => exact outWf_trap _ _ _ h
  case lcbaseWrite => exact keeps_execLcbaseWrite _ _ s h
  case lcctlEnable => exact keeps_execLcctlEnable _ _ s h
  case lcctlDisable => exact keeps_execLcctlDisable _ _ s h
  case lctailWrite => exact keeps_execLctailWrite _ _ s h
  case lcstatStoppedClear => exact keeps_execLcstatStoppedClear _ s h
  case lcstatFlagClear => exact keeps_execLcstatFlagClear _ _ _ s h
  case registerWrite => exact keeps_execRegisterWrite _ _ _ s h
  case recordTake => exact keeps_execRecordTake _ _ s h
  case cpItemDeliver => exact keeps_execCpItemDeliver _ s h
  case launchAcknowledge => exact keeps_execLaunchAcknowledge _ s h
  case launchComplete => exact keeps_execLaunchComplete _ s h
  case lockstepMismatch => exact keeps_execLockstepMismatch s h
  case firmwareRestartComplete => exact keeps_execFirmwareRestartComplete s h
  case coreTake => exact keeps_execCoreTake _ s h
  case nocluCoreRelease => exact keeps_execNocluCoreRelease _ s h
  case zeroingComplete => exact keeps_execZeroingComplete _ s h
  case shoeDispatch => exact keeps_execShoeDispatch _ s h
  case slotLoadComplete => exact keeps_execSlotLoadComplete _ s h
  case shoeItemArrive => exact keeps_execShoeItemArrive _ s h
  case shoeRefill => exact keeps_execShoeRefill _ s h
  case itemAging => exact keeps_execItemAging _ s h
  case gangSlotReserve => exact keeps_execGangSlotReserve _ s h
  case itemWalkHop => exact keeps_execItemWalkHop s h
  case balancingStep => exact keeps_execBalancingStep _ s h
  case fantailBatchArrive => exact keeps_execFantailBatchArrive _ s h
  case sluiceAccept => exact keeps_execSluiceAccept _ s h
  case sluiceRefill => exact keeps_execSluiceRefill _ s h
  case sluiceGrant => exact keeps_execSluiceGrant _ s h
  case sluiceMinimaExchange => exact keeps_execSluiceMinimaExchange _ s h
  case leaveToCommit => exact keeps_execLeaveToCommit _ s h
  case orderedTaskRetire => exact keeps_execOrderedTaskRetire _ s h
  case gvtSample => exact keeps_execGvtSample s h
  case chunkBoundary => exact keeps_execChunkBoundary _ _ s h
  case resultWriteback => exact keeps_execResultWriteback _ s h
  case memoryReply => exact keeps_execMemoryReply _ s h
  case penstockAdmit => exact keeps_execPenstockAdmit _ s h
  case shipRetry => exact keeps_execShipRetry _ s h
  case guestExecute => exact keeps_execGuestExecute _ s h
  case matrixJobComplete => exact keeps_execMatrixJobComplete _ s h
  case shipReply => exact keeps_execShipReply _ s h
  case cancelNotice => exact keeps_execCancelNotice _ s h
  case vscxTimeout => exact keeps_execVscxTimeout _ s h
  case chunkCommitRequest => exact keeps_execChunkCommitRequest _ s h
  case weirNodeGrant => exact keeps_execWeirNodeGrant _ s h
  case writeSignatureReceive => exact keeps_execWriteSignatureReceive _ _ s h
  case commitRelease => exact keeps_execCommitRelease _ s h
  case pinAcquire => exact keeps_execPinAcquire _ s h
  case serialTokenGrant => exact keeps_execSerialTokenGrant s h
  case appendElementAck => exact keeps_execAppendElementAck _ s h
  case hoistCopyStart => exact keeps_execHoistCopyStart _ s h
  case hoistPiece => exact keeps_execHoistPiece _ _ s h
  case barrierRelease => exact keeps_execBarrierRelease _ s h
  case waitvWake => exact keeps_execWaitvWake _ s h
  case waitvTimeout => exact keeps_execWaitvTimeout _ s h
  case tailracePost => exact keeps_execTailracePost _ s h
  case hostAtomicCompletion => exact keeps_execHostAtomicCompletion _ _ s h
  case peerResponse => exact keeps_execPeerResponse _ _ _ s h
  case peerTimeout => exact keeps_execPeerTimeout _ s h
  case watchdogExpiry => exact keeps_execWatchdogExpiry _ _ s h
  case eccUncorrectable => exact keeps_execEccUncorrectable _ _ _ s h
  case scrub => exact keeps_execScrub _ _ s h
  case pondAbsorb => exact keeps_execPondAbsorb _ s h
  case packetForward => exact keeps_execPacketForward _ s h
  case forwardEntryFree => exact keeps_execForwardEntryFree _ s h
  case saveComplete => exact keeps_execSaveComplete _ s h
  case restoreLoaded => exact keeps_execRestoreLoaded _ s h
  case hostWrite => exact keeps_execHostWrite _ _ _ s h
  case hostRead => exact keeps_execHostRead _ _ _ s h
  case hostAtomicop => exact keeps_execHostAtomicop _ _ _ _ _ _ s h
  case hostWriteAck => exact keeps_execHostWriteAck _ s h
  case cxlSnoop => exact keeps_execCxlSnoop _ s h
  case cxlBiResponse => exact keeps_execCxlBiResponse _ s h
  case peerAccessArrive => exact keeps_execPeerAccessArrive _ _ _ _ _ s h
  case peerPortDown => exact keeps_execPeerPortDown _ s h
  case functionLevelReset => exact keeps_execFunctionLevelReset _ s h
  case moduleReset => exact keeps_execModuleReset s h
  case thermalTrip => exact keeps_execThermalTrip _ _ _ s h
  case thermalCritical => exact keeps_execThermalCritical s h
  case powerVoltageSettled => exact keeps_execPowerVoltageSettled s h
  case mailboxCompletion => exact keeps_execMailboxCompletion _ s h
  case mapFillComplete => exact keeps_execMapFillComplete s h
  case mailboxUnknownCommand => exact keeps_execMailboxUnknownCommand _ _ s h
  case info => exact keeps_execInfo _ s h
  case fwload => exact keeps_execFwload _ _ _ _ s h
  case start => exact keeps_execStart _ _ s h
  case part => exact keeps_execPart _ _ _ _ s h
  case ascreate => exact keeps_execAscreate _ _ _ _ _ s h
  case asretire => exact keeps_execAsretire _ _ s h
  case quota => exact keeps_execQuota _ _ _ s h
  case map => exact keeps_execMap _ _ _ _ _ s h
  case unmap => exact keeps_execUnmap _ _ _ s h
  case protect => exact keeps_execProtect _ _ _ _ s h
  case areg => exact keeps_execAreg _ _ _ _ _ _ s h
  case adel => exact keeps_execAdel _ _ _ s h
  case freeze => exact keeps_execFreeze _ _ s h
  case save => exact keeps_execSave _ _ _ _ s h
  case thaw => exact keeps_execThaw _ _ s h
  case vacate => exact keeps_execVacate _ _ s h
  case restore => exact keeps_execRestore _ _ _ _ s h
  case discard => exact keeps_execDiscard _ _ s h
  case place => exact keeps_execPlace _ _ _ _ s h
  case gridmap => exact keeps_execGridmap _ _ _ s h
  case abort => exact keeps_execAbort _ _ _ s h
  case share => exact keeps_execShare _ _ _ s h
  case aperture => exact keeps_execAperture _ _ _ _ s h
  case trcb => exact keeps_execTrcb _ _ _ _ _ s h
  case peercfg => exact keeps_execPeercfg _ _ _ _ s h
  case power => exact keeps_execPower _ _ _ s h
  case therm => exact keeps_execTherm _ _ s h
  case telem => exact keeps_execTelem _ _ s h
  case errlog => exact keeps_execErrlog _ _ s h
  case doorbellWhileBusy => exact keeps_execDoorbellWhileBusy _ s h
  case hostOwnershipGrant => exact keeps_execHostOwnershipGrant _ s h
  case supervisorRestart => exact keeps_execSupervisorRestart _ _ s h
  case linkTrainingComplete => exact keeps_execLinkTrainingComplete _ _ s h

end Sys2Proof.Machine

end

section

/-!
# Every step

What is due, what presses, the plan of a step and the step itself (O59).
-/

namespace Sys2Proof.Machine

/-- Every device step of a list keeps the canonical form. -/
def AllKeep (l : List (State → Out)) : Prop := ∀ f ∈ l, KeepsWf f

theorem allKeep_nil : AllKeep [] := by simp [AllKeep]

theorem allKeep_one {f : State → Out} (h : KeepsWf f) : AllKeep [f] := by simpa [AllKeep] using h

theorem allKeep_cons {f : State → Out} {l : List (State → Out)} (h : KeepsWf f) (hl : AllKeep l) :
    AllKeep (f :: l) := by
  simp only [AllKeep, List.mem_cons, forall_eq_or_imp]
  exact ⟨h, hl⟩

theorem allKeep_append_iff {k l : List (State → Out)} : AllKeep (k ++ l) ↔ AllKeep k ∧ AllKeep l := by
  simp [AllKeep, or_imp, forall_and]

theorem allKeep_append {k l : List (State → Out)} (hk : AllKeep k) (hl : AllKeep l) : AllKeep (k ++ l) :=
  allKeep_append_iff.2 ⟨hk, hl⟩

theorem allKeep_dueIf {b : Bool} {f : State → Out} (h : KeepsWf f) : AllKeep (dueIf b f) := by
  cases b
  · exact allKeep_nil
  · exact allKeep_one h

theorem allKeep_flatMap {α : Type} {l : List α} {g : α → List (State → Out)} (h : ∀ a, AllKeep (g a)) :
    AllKeep (l.flatMap g) := fun f hf => by
  obtain ⟨a, -, ha⟩ := List.mem_flatMap.1 hf
  exact h a f ha

theorem allKeep_map {α : Type} {l : List α} {g : α → State → Out} (h : ∀ a, KeepsWf (g a)) :
    AllKeep (l.map g) := fun f hf => by
  obtain ⟨a, -, rfl⟩ := List.mem_map.1 hf
  exact h a

section
variable (s : State)

theorem allKeep_dueLaunch : AllKeep (dueLaunch s) := by
  unfold dueLaunch
  simp only [allKeep_append_iff, and_assoc]
  refine ⟨?_, ?_, ?_, ?_, ?_⟩
  · exact allKeep_flatMap fun e => allKeep_append (allKeep_dueIf (keeps_execRecordTake _ _))
      (allKeep_dueIf (keeps_execLaunchAcknowledge _))
  · refine allKeep_flatMap fun k => ?_
    split
    · exact allKeep_nil
    · exact allKeep_append (allKeep_append (allKeep_dueIf (keeps_execCpItemDeliver _))
        (allKeep_dueIf (keeps_execLaunchComplete _))) (allKeep_dueIf (keeps_execCoreTake _))
  · exact allKeep_dueIf keeps_execFirmwareRestartComplete
  · exact allKeep_flatMap fun _ => allKeep_dueIf (keeps_execNocluCoreRelease _)
  · exact allKeep_flatMap fun e => allKeep_dueIf (keeps_execZeroingComplete _)

theorem allKeep_duePlace : AllKeep (duePlace s) := by
  unfold duePlace
  simp only [allKeep_append_iff, and_assoc]
  refine ⟨?_, ?_, ?_, ?_, ?_⟩
  · exact allKeep_map fun e => keeps_execShoeItemArrive _
  · exact allKeep_map fun e => keeps_execFantailBatchArrive _
  · exact allKeep_dueIf keeps_execItemWalkHop
  · exact allKeep_flatMap fun g => allKeep_dueIf (keeps_execGangSlotReserve _)
  · exact allKeep_flatMap fun e => allKeep_append (allKeep_append (allKeep_append
      (allKeep_dueIf (keeps_execShoeDispatch _)) (allKeep_dueIf (keeps_execShoeRefill _)))
      (allKeep_dueIf (keeps_execItemAging _))) (allKeep_dueIf (keeps_execBalancingStep _))

theorem allKeep_dueGrants : AllKeep (dueGrants s) := by
  unfold dueGrants
  split
  · exact allKeep_nil
  · refine allKeep_flatMap fun c => ?_
    split
    · exact allKeep_nil
    · exact allKeep_dueIf (keeps_execSluiceGrant _)

theorem allKeep_dueGvt : AllKeep (dueGvt s) := allKeep_dueIf keeps_execGvtSample

theorem allKeep_dueSluice : AllKeep (dueSluice s) := by
  unfold dueSluice
  simp only [allKeep_append_iff, and_assoc]
  refine ⟨?_, ?_, ?_, allKeep_dueGrants s, allKeep_dueGvt s⟩
  · exact allKeep_map fun e => keeps_execSluiceAccept _
  · exact allKeep_map fun k => keeps_execSluiceRefill _
  · exact allKeep_flatMap fun k => allKeep_cons (keeps_execSluiceMinimaExchange _)
      (allKeep_cons (keeps_execLeaveToCommit _) (allKeep_one (keeps_execOrderedTaskRetire _)))

theorem allKeep_dueThread (t : Thread) : AllKeep (dueThread s t) := by
  unfold dueThread
  simp only [allKeep_append_iff, and_assoc]
  refine ⟨?_, ?_, ?_, ?_, ?_, ?_, ?_, ?_, ?_⟩
  · exact allKeep_dueIf (keeps_execSlotLoadComplete _)
  · exact allKeep_dueIf (keeps_execResultWriteback _)
  · exact allKeep_dueIf (keeps_execMemoryReply _)
  · exact allKeep_dueIf (keeps_execMatrixJobComplete _)
  · exact allKeep_dueIf fun u hu => by simpa using hu
  · split
    · exact allKeep_dueIf (keeps_execChunkCommitRequest _)
    · split
      · exact allKeep_one (keeps_execChunkCommitRequest _)
      · exact allKeep_one (keeps_execWeirNodeGrant _)
      · split
        · exact allKeep_one (keeps_execCommitRelease _)
        · exact allKeep_map fun k => keeps_execWriteSignatureReceive _ _
      · exact allKeep_nil
  · exact allKeep_dueIf (keeps_execPinAcquire _)
  · split
    · exact allKeep_cons (keeps_execWaitvWake _) (allKeep_dueIf (keeps_execWaitvTimeout _))
    · exact allKeep_dueIf (keeps_execVscxTimeout _)
    · exact allKeep_nil
  · exact allKeep_dueIf (keeps_execWatchdogExpiry _ _)

theorem allKeep_dueShips : AllKeep (dueShips s) := by
  refine allKeep_flatMap fun x => ?_
  split
  · exact allKeep_one (keeps_execShipReply _)
  · simp only [allKeep_append_iff, and_assoc]
    refine ⟨?_, ?_, ?_⟩
    · exact allKeep_dueIf (keeps_execCancelNotice _)
    · exact allKeep_dueIf (keeps_execWatchdogExpiry _ _)
    · split
      · exact allKeep_dueIf (keeps_execGuestExecute _)
      · split
        · exact allKeep_one (keeps_execPenstockAdmit _)
        · exact allKeep_dueIf (keeps_execShipRetry _)

theorem allKeep_dueUnits : AllKeep (dueUnits s) := by
  unfold dueUnits
  simp only [allKeep_append_iff, and_assoc]
  refine ⟨?_, ?_, ?_, ?_, ?_, ?_⟩
  · exact allKeep_dueIf keeps_execSerialTokenGrant
  · exact allKeep_map fun k => keeps_execAppendElementAck _
  · exact allKeep_flatMap fun e => allKeep_append (allKeep_dueIf (keeps_execHoistCopyStart _))
      (allKeep_map fun x => keeps_execHoistPiece _ _)
  · exact allKeep_flatMap fun k => allKeep_dueIf (keeps_execBarrierRelease _)
  · refine allKeep_flatMap fun e => ?_
    split
    · exact allKeep_nil
    · exact allKeep_dueIf (keeps_execResultWriteback _)
  · exact allKeep_flatMap fun e => allKeep_dueIf (keeps_execTailracePost _)

theorem allKeep_dueTiles : AllKeep (dueTiles s) :=
  allKeep_flatMap fun _ => allKeep_append (allKeep_append (allKeep_append (allKeep_append
    (allKeep_dueIf (keeps_execSaveComplete _)) (allKeep_dueIf (keeps_execRestoreLoaded _)))
    (allKeep_dueIf (keeps_execPondAbsorb _))) (allKeep_dueIf (keeps_execPacketForward _)))
    (allKeep_dueIf (keeps_execForwardEntryFree _))

theorem allKeep_dueEdge : AllKeep (dueEdge s) := by
  unfold dueEdge
  simp only [allKeep_append_iff, and_assoc]
  refine ⟨?_, ?_, ?_, ?_, ?_⟩
  · refine allKeep_flatMap fun m => ?_
    split
    · refine allKeep_append ?_ (allKeep_dueIf (keeps_execPeerTimeout _))
      split
      · exact allKeep_one (keeps_execPeerResponse _ _ _)
      · exact allKeep_dueIf (keeps_execPeerResponse _ _ _)
    · exact allKeep_nil
  · refine allKeep_flatMap fun k => ?_
    split
    · exact allKeep_nil
    · exact allKeep_dueIf fun u hu => wf_performArrival _ hu
  · exact allKeep_flatMap fun e => allKeep_dueIf (keeps_execMailboxCompletion _)
  · exact allKeep_dueIf keeps_execMapFillComplete
  · exact allKeep_dueIf keeps_execPowerVoltageSettled

theorem allKeep_dueInput : AllKeep (dueInput s) := by
  unfold dueInput
  split
  · exact allKeep_nil
  · exact allKeep_one fun u hu => keeps_exec _ _ hu

theorem allKeep_due : AllKeep (due s) := by
  unfold due
  split
  · exact allKeep_append (allKeep_dueInput s) (allKeep_flatMap fun _ => allKeep_dueIf (keeps_execMailboxCompletion _))
  · simp only [allKeep_append_iff, and_assoc]
    refine ⟨?_, ?_, ?_, ?_, ?_, ?_, ?_, ?_, ?_⟩
    · exact allKeep_dueInput s
    · exact allKeep_dueEdge s
    · exact allKeep_dueTiles s
    · exact allKeep_dueUnits s
    · exact allKeep_dueShips s
    · exact allKeep_flatMap (allKeep_dueThread s)
    · exact allKeep_dueSluice s
    · exact allKeep_duePlace s
    · exact allKeep_dueLaunch s

theorem allKeep_pressThread (t : Thread) : AllKeep (pressThread s t) :=
  allKeep_append (allKeep_append (allKeep_append (allKeep_dueIf (keeps_execSlotLoadComplete _))
    (allKeep_dueIf (keeps_execResultWriteback _))) (allKeep_dueIf (keeps_execWaitvTimeout _)))
    (allKeep_dueIf (keeps_execVscxTimeout _))

theorem allKeep_pressing : AllKeep (pressing s) := by
  unfold pressing
  split
  · exact allKeep_nil
  · simp only [allKeep_append_iff, and_assoc]
    refine ⟨?_, ?_, allKeep_dueGrants s, ?_, ?_, ?_, ?_, allKeep_dueGvt s, ?_, ?_, ?_, ?_⟩
    · exact allKeep_flatMap (allKeep_pressThread s)
    · exact allKeep_flatMap fun e => allKeep_dueIf (keeps_execShoeDispatch _)
    · exact allKeep_flatMap fun g => allKeep_dueIf (keeps_execGangSlotReserve _)
    · exact allKeep_dueIf keeps_execItemWalkHop
    · exact allKeep_flatMap fun e => allKeep_dueIf (keeps_execFantailBatchArrive _)
    · exact allKeep_flatMap fun e => allKeep_dueIf (keeps_execBalancingStep _)
    · exact allKeep_flatMap fun k => allKeep_dueIf (keeps_execSluiceMinimaExchange _)
    · exact allKeep_flatMap fun e => allKeep_dueIf (keeps_execZeroingComplete _)
    · exact allKeep_flatMap fun x => allKeep_append (allKeep_dueIf (keeps_execGuestExecute _))
        (allKeep_dueIf (keeps_execShipRetry _))
    · exact allKeep_flatMap fun m => allKeep_dueIf (keeps_execPeerTimeout _)

end

@[simp] theorem drawn_mem (s : State) : (drawn s).mem = s.mem := by unfold drawn; split <;> rfl

@[simp] theorem rotate_mem (s : State) : (rotate s).mem = s.mem := by
  have hp : ∀ u : State, ((passTurn u).getD u).mem = u.mem := fun u => by
    cases h : passTurn u with
    | none => rfl
    | some v => exact passTurn_mem h
  unfold rotate
  split
  next h => exact passTurn_mem h
  · split
    · rw [hp, tick_mem]
    · rfl

theorem outWf_settle (i : Instr) (t : Thread) {o : Out} (h : OutWf o) : OutWf (settle i t o) := by
  cases o with
  | next u => simpa [settle] using h
  | fault => trivial
  | refused => trivial

/-- Whichever kind of plan a step follows, what it leads to has memory in its canonical form. -/
def PlanWf : Plan → Prop
  | .rest s => s.mem.wf = true
  | .event o => OutWf o
  | .run _ s => s.mem.wf = true

theorem planWf_issuePlan {s : State} (h : s.mem.wf = true) : PlanWf (issuePlan s) := by
  unfold issuePlan
  split
  · exact wf_takeStep h
  · split
    · exact wf_takeOwed _ h
    · split
      · exact keeps_execChunkBoundary _ _ s h
      · split
        · exact wf_takeTrap _ _ _ h
        · trivial
        · split
          · exact wf_takeTrap _ _ _ h
          · split
            · simpa [PlanWf] using h
            · simpa [PlanWf] using h

theorem planWf_idle {s : State} (h : s.mem.wf = true) : PlanWf (idle s) := by
  unfold idle
  split
  · exact h
  · split
    next hp => exact allKeep_pressing s _ (by simp [hp]) s h
    · simpa [PlanWf] using h

theorem outWf_chooseEvent {s : State} {o : Out} (h : s.mem.wf = true) (ho : chooseEvent s = some o) : OutWf o := by
  unfold chooseEvent at ho
  split at ho
  · cases ho
  · obtain ⟨f, hf, rfl⟩ := Option.map_eq_some_iff.1 ho
    exact allKeep_due s f (List.mem_of_getElem? hf) _ (by simpa using h)

theorem planWf_plan {s : State} (h : s.mem.wf = true) : PlanWf (plan s) := by
  have hd : (drawn s).mem.wf = true := by simpa using h
  unfold plan
  split
  next ho => exact outWf_chooseEvent h ho
  · split
    · exact planWf_issuePlan hd
    · exact planWf_idle hd

theorem outWf_step {s : State} (h : s.mem.wf = true) : OutWf (step s) := by
  have hp := planWf_plan h
  unfold step
  cases hq : plan s <;> rw [hq] at hp
  case rest u => exact hp
  case event o => exact hp
  case run i u => exact outWf_settle _ _ (keeps_exec i u hp)

/-- Settles O59: every instruction, device step and passing of a cycle keeps the canonical form. -/
theorem memoryInvariant : Obligations.MemoryInvariant := by
  intro s t h hs
  have ho := outWf_step h
  rw [hs] at ho
  exact ho

end Sys2Proof.Machine

end

section

/-!
# Mailbox frames

The operations on a state that leave every mailbox as it is, one rule each: what a command's effect needs so that its
outcome stands where the caller looks for it (R440).
-/

namespace Sys2Proof.Machine

@[simp] theorem setThread_boxes (s : State) (w : Thread) : (s.setThread w).boxes = s.boxes := by
  unfold State.setThread; split <;> rfl

@[simp] theorem dropPins_boxes (s : State) (tid : Nat) : (dropPins s tid).boxes = s.boxes := by
  unfold dropPins; dsimp only; split <;> rfl

@[simp] theorem cancelShips_boxes (s : State) (tid : Nat) (l : List Nat) : (cancelShips s tid l).boxes = s.boxes := rfl

@[simp] theorem releaseNodes_boxes (s : State) (tid : Nat) (p : Bool) : (releaseNodes s tid p).boxes = s.boxes := rfl

@[simp] theorem bump_boxes (s : State) (d k n : Nat) : (s.bump d k n).boxes = s.boxes := rfl

@[simp] theorem mapTask_boxes (s : State) (k : Nat × Nat) (f : Task → Task) : (s.mapTask k f).boxes = s.boxes := rfl

@[simp] theorem leaveBarriers_boxes (s : State) (tid : Nat) : (leaveBarriers s tid).boxes = s.boxes := rfl

@[simp] theorem mapLaunch_boxes (s : State) (k : Nat) (f : Launch → Launch) : (s.mapLaunch k f).boxes = s.boxes := by
  unfold State.mapLaunch; split <;> rfl

@[simp] theorem mapOwnLaunch_boxes (s : State) (t : Thread) (f : Launch → Launch) :
    (s.mapOwnLaunch t f).boxes = s.boxes := by
  unfold State.mapOwnLaunch; split <;> simp

@[simp] theorem setNode_boxes (s : State) (k : Nat) (n : Node) : (s.setNode k n).boxes = s.boxes := rfl

@[simp] theorem countPoint_boxes (s : State) (l : List Nat) : (countPoint s l).boxes = s.boxes :=
  foldl_keeps State.boxes (by simp) _ _

@[simp] theorem toSerial_boxes (s : State) (tid : Nat) : (toSerial s tid).boxes = s.boxes := by
  unfold toSerial; split <;> simp

@[simp] theorem undo_boxes (s : State) (tid : Nat) (o : Bool) (c : Option Nat) : (undo s tid o c).boxes = s.boxes := by
  unfold undo
  dsimp only
  (repeat' split) <;> simp

@[simp] theorem squash_boxes (s : State) (tid : Nat) (o : Bool) (c : Nat) : (squash s tid o c).boxes = s.boxes :=
  undo_boxes s tid o (some c)

@[simp] theorem squashFin_boxes (c : Nat) (s : State) (tid : Nat) (k : Chunk) : (squashFin c s tid k).boxes = s.boxes := by
  unfold squashFin; split <;> simp

@[simp] theorem receiveAt_boxes (g : Bool) (a : Nat) (l : List Line) (f : Bool) (s : State) (tid : Nat) :
    (receiveAt g a l f s tid).boxes = s.boxes := by
  unfold receiveAt
  dsimp only
  (repeat' split) <;> simp [foldl_keeps State.boxes (squashFin_boxes _ · tid ·)]

@[simp] theorem receiveJob_boxes (g : Bool) (a : Nat) (l : List Line) (s : State) (x : Ship) :
    (receiveJob g a l s x).boxes = s.boxes := by
  have hset : ∀ (u : State) (o : Option Thread) (f : Thread → Thread),
      ((o.map (fun t => u.setThread (f t))).getD u).boxes = u.boxes := by
    intro u o f
    cases o <;> simp
  unfold receiveJob
  dsimp only
  (repeat' split) <;> simp [hset]

@[simp] theorem broadcast_boxes (s : State) (a : Nat) (l : List Line) : (broadcast s a l).boxes = s.boxes := by
  have hj : ∀ (k : List Ship) (u : State), (k.foldl (receiveJob true a l) u).boxes = u.boxes :=
    foldl_keeps State.boxes (by simp)
  exact (hj _ _).trans (foldl_keeps State.boxes (by simp) _ _)

theorem agentPoint_boxes (s : State) (g b : Nat) (ns : List Nat) (a : Nat) (cs : List Host.Cell) (ls : List Line) :
    (agentPoint s g b ns a cs ls).1.boxes = s.boxes := by
  have hn : ∀ (v : Nat) (u : State), (ns.foldl (fun s k => s.setNode k { s.node k with v := v }) u).boxes = u.boxes :=
    fun v u => foldl_keeps State.boxes (by simp) ns u
  unfold agentPoint
  dsimp only
  split
  · rw [countPoint_boxes, releaseNodes_boxes, hn]
  · rw [broadcast_boxes]
    show (countPoint _ _).boxes = _
    rw [countPoint_boxes, releaseNodes_boxes, hn]

theorem writePlaced_boxes (s : State) (g b a : Nat) (cs : List (Host.Cell × Loc)) :
    (writePlaced s g b a cs).boxes = s.boxes := agentPoint_boxes ..

theorem writePlaced_mem (s : State) (g b a : Nat) (cs : List (Host.Cell × Loc)) :
    (writePlaced s g b a cs).mem = Memory.setAll s.mem (cs.map Prod.fst) := agentPoint_mem ..

@[simp] theorem mapFunc_boxes (s : State) (f : Nat) (g : Func → Func) : (s.mapFunc f g).boxes = s.boxes := rfl

@[simp] theorem endThread_boxes (s : State) (tid : Nat) : (endThread s tid).boxes = s.boxes := by
  unfold endThread
  dsimp only
  (repeat' split) <;> simp

theorem endLaunch_boxes (s : State) (j st : Nat) : (endLaunch s j st).boxes = s.boxes := by
  unfold endLaunch
  split
  · rfl
  · split
    · rfl
    · exact (foldl_keeps State.boxes (by simp) _ _).trans (mapLaunch_boxes ..)

@[simp] theorem wakeSuper_boxes (s : State) (die : Nat) : (wakeSuper s die).boxes = s.boxes := by
  unfold wakeSuper; split <;> simp

end Sys2Proof.Machine

end

section

/-!
# How a launch ends early

What `endLaunch` leaves of the launch that it ends (R436, R437).
-/

namespace Sys2Proof.Machine

/-- A launch of an index has ended with a status, all its items accounted for, and no item of it is on its way. -/
def EndedAs (j : Nat) (st : Option Nat) (s : State) : Prop :=
  (∃ M, s.launchAt j = some M ∧ M.status = st ∧ M.delivered = M.nitems) ∧ ∀ e ∈ s.work.arriving, e.2.launch ≠ j

theorem mapLaunch_arriving (s : State) (k : Nat) (f : Launch → Launch) :
    (s.mapLaunch k f).work.arriving = s.work.arriving := by
  unfold State.mapLaunch; split <;> rfl

theorem launchAt_mapLaunch_other (s : State) {j k : Nat} (f : Launch → Launch) (h : j ≠ k) :
    (s.mapLaunch k f).launchAt j = s.launchAt j := by
  unfold State.mapLaunch
  split
  · rfl
  · exact List.getElem?_set_ne h.symm

/-- A launch's counters may move without changing how it has ended. -/
theorem endedAs_mapLaunch {j : Nat} {st : Option Nat} {s : State} (k : Nat) {f : Launch → Launch}
    (hf : ∀ l, (f l).status = l.status ∧ (f l).delivered = l.delivered ∧ (f l).nitems = l.nitems)
    (h : EndedAs j st s) : EndedAs j st (s.mapLaunch k f) := by
  obtain ⟨⟨M, hM, hst, hd⟩, ha⟩ := h
  refine ⟨?_, by rw [mapLaunch_arriving]; exact ha⟩
  by_cases hk : j = k
  · subst hk
    obtain ⟨h1, h2, h3⟩ := hf M
    exact ⟨f M, launchAt_mapLaunch hM f, h1.trans hst, by rw [h2, h3, hd]⟩
  · exact ⟨M, by rw [launchAt_mapLaunch_other s f hk, hM], hst, hd⟩

theorem endedAs_mapOwnLaunch {j : Nat} {st : Option Nat} {s : State} (t : Thread) {f : Launch → Launch}
    (hf : ∀ l, (f l).status = l.status ∧ (f l).delivered = l.delivered ∧ (f l).nitems = l.nitems)
    (h : EndedAs j st s) : EndedAs j st (s.mapOwnLaunch t f) := by
  unfold State.mapOwnLaunch
  split
  · exact h
  · exact endedAs_mapLaunch _ hf h

theorem endedAs_of_work {j : Nat} {st : Option Nat} {s u : State} (hw : u.work = s.work) (h : EndedAs j st s) :
    EndedAs j st u := by
  unfold EndedAs State.launchAt at *
  rwa [hw]

theorem dropPins_work (s : State) (tid : Nat) : (dropPins s tid).work = s.work := by
  unfold dropPins; dsimp only; split <;> rfl

theorem endedAs_endThread {j : Nat} {st : Option Nat} {s : State} (tid : Nat) (h : EndedAs j st s) :
    EndedAs j st (endThread s tid) := by
  unfold endThread
  split
  · exact h
  next t _ =>
    extract_lets com lost s1 s2 s3 w s4 s5
    have h1 : EndedAs j st s1 := by
      unfold s1
      split
      · exact h
      · exact endedAs_of_work (dropPins_work s tid) h
    have h3 : EndedAs j st s3 := endedAs_mapOwnLaunch t (fun _ => ⟨rfl, rfl, rfl⟩) (endedAs_of_work (u := s2) rfl h1)
    have h4 : EndedAs j st s4 := h3
    split
    · have h5 : EndedAs j st s5 := endedAs_mapOwnLaunch t (fun _ => ⟨rfl, rfl, rfl⟩) h4
      exact endedAs_of_work (setThread_work _ _) h5
    · exact h4
    · exact endedAs_of_work (setThread_work _ _) h4

theorem endedAs_endLaunch {s : State} {j : Nat} {L : Launch} (st : Nat) (hL : s.launchAt j = some L)
    (hc : L.complete = false) : EndedAs j (mergeEnd L.status (some st)) (endLaunch s j st) := by
  unfold endLaunch
  simp only [hL, hc, Bool.false_eq_true, if_false]
  refine foldl_inv (fun _ _ => endedAs_endThread _) _ ⟨⟨_, launchAt_mapLaunch hL _, rfl, rfl⟩, fun e he => ?_⟩
  simpa using (List.mem_filter.1 he).2

/-- ABORTED gives way to SPILL alone (R437). -/
theorem mergeEnd_aborted (x : Option Nat) : mergeEnd x (some 2) = if x = some 4 then some 4 else some 2 := by
  unfold mergeEnd endRank
  split <;> split <;> simp_all

end Sys2Proof.Machine

end

section

/-!
# Accepted doorbells

What a doorbell that is accepted does, and the commands that only read or that bring the module up (R440 to R442).
-/

namespace Sys2Proof.Machine

/-- The state in which a mailbox has taken a command (R440). -/
def State.takes (s : State) (u code : Nat) : State :=
  s.mapBox u (fun b => { b with
    busy := true, lost := false, code := code, result := none, stat := putBits b.stat 0 2 1 })

theorem box_takes (s : State) (u code : Nat) :
    ((s.takes u code).box u).busy = true ∧ ((s.takes u code).box u).code = code := by
  simp [State.takes]

/-- The doorbell of an accepted command is for it (R440). -/
theorem accepts_op {s : State} {u : Fin 21} {code : Nat} (h : Accepts s u code) :
    ¬ (u.val < 17 ∧ (s.box u.val).op.toNat % 65536 ≠ code) :=
  fun ⟨hu, hn⟩ => h.mine.elim (by omega) hn

/-- A doorbell that is accepted, from a caller that may issue the command, leads to the command's effect (R440, R441). -/
theorem submit_of_accepts {s : State} {u : Fin 21} {code : Nat} (h : Accepts s u code) (go : State → State) :
    submit s u code true go = .next (go (s.takes u.val code)) := by
  have hrun : (s.power.critical || s.boot.halted) = false := by rw [h.runs.1, h.runs.2]; rfl
  have hst : ¬ (3 < code ∧ (!s.boot.started) = true) := fun ⟨h3, hn⟩ => by simp [h.started h3] at hn
  unfold submit
  rw [if_neg (accepts_op h), h.free, if_neg Bool.false_ne_true]
  show (if (s.power.critical || s.boot.halted) = true then _ else if (!true) = true then _ else
    if 3 < code ∧ (!s.boot.started) = true then _ else Host.Outcome.next (go (s.takes u.val code))) = _
  rw [hrun, if_neg Bool.false_ne_true, if_neg (by decide), if_neg hst]

/-- A command that leaves the mailboxes alone and ends in a reply has replied. -/
theorem replies_of {s v : State} {i : Instr} {u : Fin 21} {code st : Nat} {bs : List Byte} {P : State → Prop}
    (hx : exec i s = .next (v.reply u.val st bs)) (hb : v.boxes = (s.takes u.val code).boxes)
    (hp : P (v.reply u.val st bs)) : Replies s i u code st bs P := by
  have hv : v.box u.val = (s.takes u.val code).box u.val := by unfold State.box; rw [hb]
  obtain ⟨hbusy, hcode⟩ := box_takes s u.val code
  refine ⟨_, hx, ?_, ?_, ?_, hp⟩
  · simp [State.reply, hv, hbusy]
  · simp [State.reply, hv, hcode]
  · simp [State.reply]

/-- The same through the doorbell: what a caller that may issue the command has the mailbox do. -/
theorem replies_submit {s : State} {i : Instr} {u : Fin 21} {code st : Nat} {bs : List Byte} {P : State → Prop} {ok : Bool}
    {go : State → State} (v : State) (o : Out) (h : Accepts s u code) (hx : exec i s = o)
    (ho : o = submit s u code ok go) (hok : ok = true)
    (hg : go (s.takes u.val code) = v.reply u.val st bs) (hb : v.boxes = (s.takes u.val code).boxes)
    (hp : P (v.reply u.val st bs)) : Replies s i u code st bs P := by
  subst hok
  exact replies_of (by rw [hx, ho, submit_of_accepts h, hg]) hb hp

section
variable {s : State} {u : Fin 21} {f : Fin 17}

/-! The commands that only read. -/

theorem replies_info (h : Accepts s u 0x01) : Replies s (.info u) u 0x01 0
    ([Config.stepping.toNat, (Config.infoWord 0).toNat, presentMap s, protocols s].flatMap (bytesOf 8))
    (fun t => { t with boxes := s.boxes } = s) :=
  replies_submit (s.takes u.val 0x01) (execInfo u s) h rfl rfl rfl rfl rfl rfl

theorem replies_telem (h : Accepts s u 0x62) (die : Fin 4) : Replies s (.telem u die) u 0x62 0
    ((Tbl.at s.telem die.val [0, 0, 0, 0, 0, 0, 0]).flatMap (bytesOf 8)) (fun t => { t with boxes := s.boxes } = s) :=
  replies_submit (s.takes u.val 0x62) (execTelem u die s) h rfl rfl rfl rfl rfl rfl

theorem replies_therm (h : Accepts s u 0x61) (die : Fin 4) :
    ∃ bs, Replies s (.therm u die) u 0x61 0 bs (fun t => t.power = s.power ∧ t.mem = s.mem) :=
  ⟨_, replies_submit { s.takes u.val 0x61 with free := s.free + 1 } (execTherm u die s)
    h rfl rfl rfl rfl rfl ⟨rfl, rfl⟩⟩

theorem replies_errlog (h : Accepts s u 0x63) (hu : u.val = f.val) : Replies s (.errlog u f) u 0x63 0
    ((s.func f.val).errlog.flatMap (fun e => bytesOf 8 e.1 ++ bytesOf 8 e.2)) (fun t => { t with boxes := s.boxes } = s) :=
  replies_submit (s.takes u.val 0x63) (execErrlog u f s) h rfl rfl (by simp [hu]) rfl rfl rfl

theorem replies_gridmap (h : Accepts s u 0x41) (hu : u.val = f.val) (n : Nat) {L : Launch}
    (hL : (launchBy s f.val n).bind s.launchAt = some L) :
    Replies s (.gridmap u f n) u 0x41 0 (L.map.map (BitVec.ofNat 8)) (fun t => { t with boxes := s.boxes } = s) := by
  have hL' : (launchBy (s.takes u.val 0x41) f.val n).bind (s.takes u.val 0x41).launchAt = some L := hL
  exact replies_submit (s.takes u.val 0x41) (execGridmap u f n s) h rfl rfl (by simp [hu]) (by simp only [hL']) rfl rfl

/-! Firmware and bring-up (R442). -/

theorem replies_fwload (h : Accepts s 0 0x02) (hs : s.boot.started = false) (hf : s.boot.failed = none) (x : Word) (n : Nat)
    (hn : x.toNat + n ≤ 2 ^ 64) :
    Replies s (.fwload 0 x n true) 0 0x02 0 [] (fun t => t.boot = { s.boot with firmware := true }) := by
  refine replies_submit { s.takes 0 0x02 with boot := { s.boot with firmware := true } } (execFwload 0 x n true s)
    h rfl rfl rfl ?_ rfl rfl
  show (if (s.boot.started || s.boot.failed.isSome) = true then _ else if (!true || _) = true then _ else _) = _
  rw [hs, hf, if_neg (by simp), if_neg (by simpa using hn)]
  rfl

theorem replies_fwload_refused (h : Accepts s 0 0x02) (hs : s.boot.started = false) (hf : s.boot.failed = none) (x : Word)
    (n : Nat) : Replies s (.fwload 0 x n false) 0 0x02 1 [] (fun t => t.boot = s.boot) := by
  refine replies_submit (s.takes 0 0x02) (execFwload 0 x n false s) h rfl rfl rfl ?_ rfl rfl
  show (if (s.boot.started || s.boot.failed.isSome) = true then _ else if (!false || _) = true then _ else _) = _
  rw [hs, hf, if_neg (by simp), if_pos (by simp)]
  rfl

theorem super_startSuper {t : Thread} (h : (startSuper t).super = true) :
    (startSuper t).place = .run ∧ (startSuper t).asid = 0 := by
  unfold startSuper at *
  split
  · exact ⟨rfl, rfl⟩
  next hn =>
    rw [if_neg hn] at h
    exact absurd h hn

theorem super_bringUp {s : State} {w : Thread} (hw : w ∈ (bringUp s).threads) (h : w.super = true) :
    w.place = .run ∧ w.asid = 0 := by
  have hm : w ∈ (startSuper s.cur :: s.others.map startSuper) := hw
  obtain rfl | hm := List.mem_cons.1 hm
  · exact super_startSuper h
  · obtain ⟨t, -, rfl⟩ := List.mem_map.1 hm
    exact super_startSuper h

theorem replies_start (h : Accepts s 0 0x03) (hs : s.boot.started = false) (hf : s.boot.failed = none)
    (hw : s.boot.firmware = true) :
    ∃ bs, Replies s (.start 0 none) 0 0x03 0 bs (fun t => t.boot.started = true ∧ t.cycle = 0 ∧
      t.power.clock = 1250 ∧ t.power.mv = 600 ∧ t.work.tileOwner = [] ∧ t.maps.frameOwner = [] ∧
      ∀ w ∈ t.threads, w.super = true → w.place = .run ∧ w.asid = 0) := by
  refine ⟨bytesOf 8 (presentMap s), replies_submit (bringUp (s.takes 0 0x03)) (execStart 0 none s) h rfl rfl rfl ?_ rfl
    ⟨rfl, rfl, rfl, rfl, rfl, rfl, fun w => super_bringUp (s := s.takes 0 0x03)⟩⟩
  show (if (s.boot.started || s.boot.failed.isSome || !s.boot.firmware) = true then _ else _) = _
  rw [hs, hf, hw, if_neg (by simp)]
  rfl

theorem replies_start_failed (h : Accepts s 0 0x03) (hs : s.boot.started = false) (hf : s.boot.failed = none)
    (hw : s.boot.firmware = true) (k : Nat) : Replies s (.start 0 (some k)) 0 0x03 5 (bytesOf 8 k)
      (fun t => t.boot.failed = some k ∧ t.boot.started = false) := by
  refine replies_submit { s.takes 0 0x03 with boot := { s.boot with failed := some k } } (execStart 0 (some k) s)
    h rfl rfl rfl ?_ rfl ⟨rfl, hs⟩
  show (if (s.boot.started || s.boot.failed.isSome || !s.boot.firmware) = true then _ else _) = _
  rw [hs, hf, hw, if_neg (by simp)]
  rfl

end

end Sys2Proof.Machine

end

section

/-!
# Partitions, placement, aborts and shares

The commands of R63, R86, R97 and R436.
-/

namespace Sys2Proof.Machine

section
variable {s : State} {u : Fin 21} {f : Fin 17}

theorem replies_part (h : Accepts s 0 0x10) {cs ts : List Nat} (hcs : ∀ c ∈ cs, c ∈ presentClusters s)
    (hts : ∀ t ∈ ts, t < 1024 ∧ tileCluster t ∈ presentClusters s ∧ ¬ tileCluster t ∈ cs)
    (hov : (s.parts.filter (fun q => q.fn != f.val)).any (overlaps { fn := f.val, clusters := cs, tiles := ts }) = false)
    (hlen : (s.parts.filter (fun q => q.fn != f.val)).length < 16) :
    Replies s (.part 0 f cs ts) 0 0x10 0 [] (fun t => t.parts = s.parts.filter (fun q => q.fn != f.val) ++
      if cs.isEmpty && ts.isEmpty then [] else [{ fn := f.val, clusters := cs, tiles := ts }]) := by
  have hc : cs.any (fun c => !(presentClusters s).contains c) = false := by simpa using hcs
  have ht : ts.any (fun t => decide (1024 ≤ t) || !(presentClusters s).contains (tileCluster t) ||
      cs.contains (tileCluster t)) = false := by
    simpa [and_assoc] using hts
  refine replies_submit
    { s.takes 0 0x10 with
      parts := (if cs.isEmpty && ts.isEmpty then s.parts.filter (fun q => q.fn != f.val)
        else s.parts.filter (fun q => q.fn != f.val) ++ [{ fn := f.val, clusters := cs, tiles := ts }]) }
    (execPart 0 f cs ts s) h rfl rfl rfl (if_neg ?_) rfl ?_
  · show ¬ (cs.any (fun c => !(presentClusters s).contains c) || ts.any (fun t => decide (1024 ≤ t) ||
      !(presentClusters s).contains (tileCluster t) || cs.contains (tileCluster t)) ||
      (s.parts.filter (fun q => q.fn != f.val)).any (overlaps { fn := f.val, clusters := cs, tiles := ts }) ||
      decide (16 ≤ (s.parts.filter (fun q => q.fn != f.val)).length)) = true
    rw [hc, ht, hov]
    simpa using hlen
  · show (if _ then _ else _) = _
    split <;> simp

/-- The balancing intervals that PLACE takes: the powers of two from 1,024 to 65,536 (R86). -/
theorem intervals_contains {n : Nat} (h : ∃ j, 10 ≤ j ∧ j ≤ 16 ∧ n = 2 ^ j) :
    [1024, 2048, 4096, 8192, 16384, 32768, 65536].contains n = true := by
  obtain ⟨j, h1, h2, rfl⟩ := h
  have hl : [1024, 2048, 4096, 8192, 16384, 32768, 65536] = (List.range 7).map (fun k => 2 ^ (10 + k)) := rfl
  rw [hl, List.contains_iff_mem]
  exact List.mem_map.2 ⟨j - 10, List.mem_range.2 (by omega), by congr 1; omega⟩

theorem replies_place (h : Accepts s 0 0x40) {n m k : Nat} (hn : ∃ j, 10 ≤ j ∧ j ≤ 16 ∧ n = 2 ^ j) (hm : 8 ≤ m)
    (hm' : m ≤ 1024) (hk : 1 ≤ k) (hk' : k ≤ 255) :
    Replies s (.place 0 n m k) 0 0x40 0 [] (fun t => t.work = { s.work with nextParams := some (n, m, k) }) := by
  have hp := intervals_contains hn
  exact replies_submit { s.takes 0 0x40 with work := { s.work with nextParams := some (n, m, k) } }
    (execPlace 0 n m k s) h rfl rfl rfl (if_pos ⟨hp, hm, hm', hk, hk'⟩) rfl rfl

theorem replies_abort (h : Accepts s u 0x42) (hu : u.val = f.val ∨ 17 ≤ u.val ∨ u = 0 ∧ hostStands s = true)
    {n j : Nat} {L : Launch} (hj : launchBy s f.val n = some j) (hL : s.launchAt j = some L) (hc : L.complete = false)
    (hi : (L.acked && launchIdle s j L) = false) :
    Replies s (.abort u f n) u 0x42 0 [] (fun t => t.mem = s.mem ∧ ∃ M, t.launchAt j = some M ∧
      M.status = (if L.status = some 4 then some 4 else some 2) ∧ M.delivered = M.nitems ∧
      ∀ e ∈ t.work.arriving, e.2.launch ≠ j) := by
  obtain ⟨⟨M, hM, hst, hd⟩, ha⟩ : EndedAs j (mergeEnd L.status (some 2)) (endLaunch (s.takes u.val 0x42) j 2) :=
    endedAs_endLaunch 2 hL hc
  have hj' : launchBy (s.takes u.val 0x42) f.val n = some j := hj
  have hL' : (s.takes u.val 0x42).launchAt j = some L := hL
  have hi' : (L.acked && launchIdle (s.takes u.val 0x42) j L) = false := hi
  have ho : (u.val == f.val || isSuper u || (u == 0 && hostStands s)) = true := by
    simpa [isSuper, or_assoc] using hu
  refine replies_submit (endLaunch (s.takes u.val 0x42) j 2) (execAbort u f n s) h rfl rfl ho ?_ (endLaunch_boxes ..)
    ⟨endLaunch_mem .., M, hM, hst.trans (mergeEnd_aborted _), hd, ha⟩
  simp only [hj', hL', hc, hi', Option.map_some, Option.getD_some, Bool.or_self, Bool.false_eq_true, if_false]

theorem mayFreeze_iff : mayFreeze u = true ↔ u = 0 ∨ 17 ≤ u.val := by
  simp [mayFreeze, isSuper]

theorem replies_share_read (h : Accepts s u 0x43) (hu : u = 0 ∨ 17 ≤ u.val) (c : Fin 64)
    (hc : ¬ c.val ∈ s.boot.absent) :
    Replies s (.share u c none) u 0x43 0 (bytesOf 8 (Tbl.at s.shares c.val 8).toNat) (fun t => t.shares = s.shares) :=
  replies_submit (s.takes u.val 0x43) (execShare u c none s) h rfl rfl (mayFreeze_iff.2 hu)
    (if_neg (by rwa [List.contains_iff_mem])) rfl rfl

theorem replies_share_write (h : Accepts s u 0x43) (hu : u = 0 ∨ 17 ≤ u.val) (c : Fin 64)
    (hc : ¬ c.val ∈ s.boot.absent) (v : BitVec 4) : Replies s (.share u c (some v)) u 0x43 0 (bytesOf 8 v.toNat) (fun t =>
      Tbl.at t.shares c.val 8 = v ∧ ∀ d, d ≠ c.val → Tbl.at t.shares d 8 = Tbl.at s.shares d 8) := by
  refine replies_submit { s.takes u.val 0x43 with shares := Tbl.put s.shares c.val v } (execShare u c (some v) s) h rfl rfl
    (mayFreeze_iff.2 hu) ?_ rfl ⟨at_put_same .., fun d hd => at_put_other _ _ _ hd⟩
  refine (if_neg (by rwa [List.contains_iff_mem])).trans ?_
  show State.reply _ _ _ (bytesOf 8 (Tbl.at (Tbl.put s.shares c.val v) c.val 8).toNat) = _
  rw [at_put_same]
  rfl

end

end Sys2Proof.Machine

end

section

/-!
# The other commands and completions

Apertures, trap rings, peers, clocks and supplies, and how a mailbox completes (R380, R423, R432, R440, R443; O53).
-/

namespace Sys2Proof.Machine

/-- The size of one function's BAR2 is set. -/
def sizeBar (n : Nat) (s : State) (k : Nat) : State := s.mapFunc k (fun x => { x with barSize := n })

theorem sizeBar_barSize (n : Nat) (s : State) (k : Nat) : ((sizeBar n s k).func k).barSize = n := by
  simp [sizeBar]

theorem foldl_sizeBar_barSize {n k : Nat} (l : List Nat) (s : State) (h : k ∈ l ∨ (s.func k).barSize = n) :
    ((l.foldl (sizeBar n) s).func k).barSize = n := by
  induction l generalizing s with
  | nil => simpa using h
  | cons j l ih =>
    refine ih _ ?_
    by_cases hk : k = j
    · exact Or.inr (hk ▸ sizeBar_barSize n s k)
    · have hs : (sizeBar n s j).func k = s.func k := func_mapFunc_other s _ hk
      simpa [hk, hs] using h

theorem mem_barSizes {n : Nat} (h : ∃ j, 26 ≤ j ∧ j ≤ 38 ∧ n = 2 ^ j) : n ∈ barSizes := by
  obtain ⟨j, h1, h2, rfl⟩ := h
  exact List.mem_map.2 ⟨j - 26, List.mem_range.2 (by omega), by congr 1; omega⟩

/-- The state after APERTURE has set the size of BAR2: the physical function's own, or one of all virtual functions
(R423). -/
def resized (s : State) (f : Fin 17) (n : Nat) : State :=
  (if f = 0 then [0] else (List.range 16).map (fun k => k + 1)).foldl (sizeBar n) s

theorem resized_boxes (s : State) (f : Fin 17) (n : Nat) : (resized s f n).boxes = s.boxes :=
  foldl_keeps State.boxes (f := sizeBar n) (fun _ _ => rfl) _ _

theorem resized_barSize (s : State) (f : Fin 17) (n : Nat) : ((resized s f n).func f.val).barSize = n := by
  refine foldl_sizeBar_barSize _ _ (Or.inl ?_)
  split
  next h => simp [h]
  next h =>
    have h0 : f.val ≠ 0 := fun e => h (Fin.ext e)
    exact List.mem_map.2 ⟨f.val - 1, List.mem_range.2 (by omega), by omega⟩

theorem func_reply (s : State) (u st : Nat) (bs : List Byte) (k : Nat) : (s.reply u st bs).func k = s.func k := rfl

section
variable {s : State} {u : Fin 21} {f : Fin 17}

/-! Apertures, trap rings and peers (R380, R423, R432). -/

theorem replies_aperture (h : Accepts s 0 0x50) {n : Nat} {x : Word} (hn : ∃ j, 26 ≤ j ∧ j ≤ 38 ∧ n = 2 ^ j)
    (hx : x.toNat % 65536 = 0) : Replies s (.aperture 0 f n x) 0 0x50 0 []
      (fun t => (t.func f.val).apva = x ∧ (t.func f.val).barSize = n) :=
  replies_submit ((resized (s.takes 0 0x50) f n).mapFunc f.val (fun y => { y with apva := x })) (execAperture 0 f n x s)
    h rfl rfl rfl (if_neg (by simp [mem_barSizes hn, hx])) (resized_boxes ..)
    (by simp [func_reply, resized_barSize])

theorem replies_trcb (h : Accepts s u 0x51) (hu : u = 0 ∨ 17 ≤ u.val) {x y z : Word} (die : Fin 4)
    (hx : x.toNat % 64 = 0) (hy : y.toNat % 65536 = 0) (hz : z.toNat % 16384 = 0) (hw : s.links.waiting = [])
    {cs : List (Host.Cell × Loc)}
    (hcs : placeCells s 0 .write (x.toNat + 32) (bytesOf 8 y.toNat ++ bytesOf 8 z.toNat) = some cs)
    (hf : agentFree s (agentId 3 u.val) (nodesOf cs) = true) :
    Replies s (.trcb u die x y z) u 0x51 0 [] (fun t => t.mem = Memory.setAll s.mem (cs.map Prod.fst) ∧
      (t.tail die.val).block = some x ∧ (t.tail die.val).rbase = y ∧ (t.tail die.val).hbase = z) := by
  have hcs' : placeCells (s.takes u.val 0x51) 0 .write (x.toNat + 32) (bytesOf 8 y.toNat ++ bytesOf 8 z.toNat) =
    some cs := hcs
  have hf' : agentFree (s.takes u.val 0x51) (agentId 3 u.val) (nodesOf cs) = true := hf
  have hw' : (s.takes u.val 0x51).links.waiting = [] := hw
  generalize hv : writePlaced (s.takes u.val 0x51) (agentId 3 u.val) 0 0 cs = v
  have hmem : v.mem = Memory.setAll s.mem (cs.map Prod.fst) := hv ▸ writePlaced_mem ..
  have hbox : v.boxes = (s.takes u.val 0x51).boxes := hv ▸ writePlaced_boxes ..
  refine replies_submit
    { v with tails := Tbl.put v.tails die.val { v.tail die.val with block := some x, rbase := y, hbase := z } }
    (execTrcb u die x y z s) h rfl rfl (mayFreeze_iff.2 hu) ?_ hbox ⟨hmem, ?_⟩
  · simp [hx, hy, hz, takeTurn, giveBlock, hw', hcs', hf', hv]
  · simp [State.tail, State.reply, State.mapBox]

theorem replies_peercfg (h : Accepts s 0 0x52) (dev : BitVec 8) {routes : List (Nat × List Nat)}
    {windows : List (Nat × Nat × Nat × Nat)} (hl : windows.length ≤ 64)
    (hw : ∀ w ∈ windows, w.1 % 65536 = 0 ∧ w.2.1 % 65536 = 0 ∧ w.2.2.2 < 8)
    (hr : ∀ r ∈ routes, r.1 < 256 ∧ ∀ p ∈ r.2, p < 16) :
    Replies s (.peercfg 0 dev routes windows) 0 0x52 0 [] (fun t => t.links.device = dev.toNat ∧
      t.links.windows = windows ∧ t.mem = s.mem) := by
  have hw' : windows.any (fun w => w.1 % 65536 != 0 || w.2.1 % 65536 != 0 || decide (8 ≤ w.2.2.2)) = false := by
    simpa [and_assoc] using fun a b c d hm => hw (a, b, c, d) hm
  have hr' : routes.any (fun r => decide (256 ≤ r.1) || r.2.any (fun p => decide (16 ≤ p))) = false := by
    simpa using fun a b hm => hr (a, b) hm
  exact replies_submit { s.takes 0 0x52 with links := { s.links with
      device := dev.toNat, routes := routes.foldl (fun t r => Tbl.put t r.1 r.2) [], windows := windows } }
    (execPeercfg 0 dev routes windows s) h rfl rfl rfl (if_neg (by simp [hw', hr', hl])) rfl ⟨rfl, rfl, rfl⟩

/-! Clocks and supplies (R443). -/

/-- The clock states with their least supplies (R443). -/
theorem leastSupply_of {n m : Nat} (h : n = 1250 ∧ 600 ≤ m ∨ n = 1000 ∧ 560 ≤ m ∨ n = 800 ∧ 550 ≤ m) :
    ∃ least, leastSupply n = some least ∧ 550 ≤ m ∧ least ≤ m := by
  obtain ⟨rfl, h⟩ | ⟨rfl, h⟩ | ⟨rfl, h⟩ := h
  · exact ⟨600, rfl, by omega, h⟩
  · exact ⟨560, rfl, by omega, h⟩
  · exact ⟨550, rfl, h, h⟩

/-- POWER within its limits: a faster clock waits for the supply, another is in force at once (R443). -/
theorem execPower_of_accepts (h : Accepts s 0 0x60) (hh : s.power.hold = false) {n m : Nat}
    (hn : n = 1250 ∧ 600 ≤ m ∨ n = 1000 ∧ 560 ≤ m ∨ n = 800 ∧ 550 ≤ m) (hm : m ≤ 750) (h5 : m % 5 = 0) :
    execPower 0 n m s = .next (if s.power.clock < n then
      { s.takes 0 0x60 with power := { s.power with
        hold := false, mv := m, was := s.power.mv, target := some (n, m, some 0) } }
      else { s.takes 0 0x60 with power := { s.power with hold := false, clock := n, mv := m } }.reply 0 0 []) := by
  obtain ⟨least, hl, h550, hle⟩ := leastSupply_of hn
  have hok : ¬ (m < 550 ∨ 750 < m ∨ m % 5 ≠ 0 ∨ m < least) := by omega
  have hh' : (s.takes (0 : Fin 21).val 0x60).power.hold = false := hh
  refine (submit_of_accepts h _).trans ?_
  simp only [hl, if_neg hok, hh', Bool.not_false, Bool.true_or, Bool.not_true, Bool.false_eq_true, if_false]
  rfl

theorem replies_power (h : Accepts s 0 0x60) (hh : s.power.hold = false) {n m : Nat}
    (hn : n = 1250 ∧ 600 ≤ m ∨ n = 1000 ∧ 560 ≤ m ∨ n = 800 ∧ 550 ≤ m) (hm : m ≤ 750) (h5 : m % 5 = 0)
    (hc : n ≤ s.power.clock) :
    Replies s (.power 0 n m) 0 0x60 0 [] (fun t => t.power.clock = n ∧ t.power.mv = m) := by
  have hx := execPower_of_accepts h hh hn hm h5
  rw [if_neg (Nat.not_lt.2 hc)] at hx
  exact replies_of hx rfl ⟨rfl, rfl⟩

theorem leads_power (h : Accepts s 0 0x60) (hh : s.power.hold = false) {n m : Nat}
    (hn : n = 1250 ∧ 600 ≤ m ∨ n = 1000 ∧ 560 ≤ m ∨ n = 800 ∧ 550 ≤ m) (hm : m ≤ 750) (h5 : m % 5 = 0)
    (hc : s.power.clock < n) :
    Leads s (.power 0 n m) (fun t => t.power.target = some (n, m, some 0) ∧ t.power.mv = m ∧
      t.power.was = s.power.mv ∧ t.power.clock = s.power.clock) := by
  have hx := execPower_of_accepts h hh hn hm h5
  rw [if_pos hc] at hx
  exact ⟨_, hx, rfl, rfl, rfl, rfl⟩

/-! Doorbells and completions (R440). -/

theorem leads_doorbellWhileBusy (h : (s.box u.val).busy = true) :
    Leads s (.doorbellWhileBusy u) (fun t => { t with boxes := s.boxes } = s ∧
      t.box u.val = { s.box u.val with lost := true }) :=
  ⟨_, congrArg Host.Outcome.next (if_pos h), rfl, box_mapBox ..⟩

theorem replies_unknown {code : BitVec 16} (h : Accepts s u code.toNat) (hc : commandCodes.contains code.toNat = false) :
    Replies s (.mailboxUnknownCommand u code) u code.toNat 6 [] (fun t => { t with boxes := s.boxes } = s) := by
  have hrun : (s.power.critical || s.boot.halted) = false := by rw [h.runs.1, h.runs.2]; rfl
  refine replies_of (v := s.takes u.val code.toNat) ?_ rfl rfl
  show execMailboxUnknownCommand u code s = _
  unfold execMailboxUnknownCommand
  dsimp only
  rw [hc, if_neg Bool.false_ne_true, if_neg (accepts_op h), h.free, if_neg Bool.false_ne_true]
  show Host.Outcome.next (State.reply _ _ (if (s.power.critical || s.boot.halted) = true then 5 else 6) []) = _
  rw [hrun]
  rfl

/-- MB_STAT of a completed command: the status stands in bits 15:8 and busy is 0 (R439, R440). -/
theorem completed_stat (op st : Nat) (lost : Bool) :
    let w := (BitVec.ofNat 64 (op / 2 ^ 32 * 2 ^ 32 + st % 256 * 256 + bitOf lost * 2)).toNat
    w / 2 ^ 8 % 2 ^ 8 = st % 2 ^ 8 ∧ w % 2 = 0 := by
  have hb : bitOf lost ≤ 1 := by cases lost <;> decide
  rw [BitVec.toNat_ofNat]
  dsimp only
  omega

/-- The caller is told of a completion: by a wake of the supervisor, or by vector 0 (R424, R440). -/
def told (u : Fin 21) (s : State) : State := if isSuper u then wakeSuper s (u.val - 17) else raiseVector s u.val 0

theorem told_boxes (u : Fin 21) (s : State) : (told u s).boxes = s.boxes := by
  unfold told; split
  · exact wakeSuper_boxes ..
  · rfl

theorem told_mem (u : Fin 21) (s : State) : (told u s).mem = s.mem := by
  unfold told; split <;> simp

theorem told_func {u : Fin 21} (s : State) (hu : u.val < 17) : (told u s).func u.val = (s.func u.val).raise 0 := by
  have hn : isSuper u = false := by simpa [isSuper] using hu
  unfold told
  rw [hn, if_neg Bool.false_ne_true]
  exact func_mapFunc ..

/-- The mailbox of a completed command: the reply in place, busy 0 (R439, R440). -/
def Mailbox.given (b : Mailbox) (st : Nat) (bs : List Byte) : Mailbox :=
  { b with
    busy := false, result := none, len := BitVec.ofNat 64 bs.length, rep := bs
    stat := BitVec.ofNat 64 (b.op.toNat / 2 ^ 32 * 2 ^ 32 + st % 256 * 256 + bitOf b.lost * 2) }

theorem execMailboxCompletion_of {st : Nat} {bs : List Byte} (hb : (s.box u.val).busy = true)
    (hr : (s.box u.val).result = some (st, bs)) :
    execMailboxCompletion u s = .next (told u (s.mapBox u.val (fun b => b.given st bs))) := by
  unfold execMailboxCompletion
  simp only [hb, hr, State.mapBox, Mailbox.given, told]

theorem leads_completion {st : Nat} {bs : List Byte} (hb : (s.box u.val).busy = true)
    (hr : (s.box u.val).result = some (st, bs)) :
    Leads s (.mailboxCompletion u) (fun t => (t.box u.val).busy = false ∧ (t.box u.val).rep = bs ∧
      (t.box u.val).len = BitVec.ofNat 64 bs.length ∧ (t.box u.val).stat.toNat / 2 ^ 8 % 2 ^ 8 = st % 2 ^ 8 ∧
      (t.box u.val).stat.toNat % 2 = 0 ∧ t.mem = s.mem ∧ (u.val < 17 → t.func u.val = (s.func u.val).raise 0)) := by
  obtain ⟨hst, h0⟩ := completed_stat (s.box u.val).op.toNat st (s.box u.val).lost
  have hbox : (told u (s.mapBox u.val (fun b => b.given st bs))).box u.val = (s.box u.val).given st bs :=
    (congrArg (Tbl.at · u.val Mailbox.fresh) (told_boxes u _)).trans (box_mapBox ..)
  refine ⟨_, execMailboxCompletion_of hb hr, ?_⟩
  dsimp only
  rw [hbox, told_mem]
  exact ⟨rfl, rfl, rfl, hst, h0, rfl, told_func _⟩

end

/-- Settles O53: command by command, each accepted doorbell leads to its command's effect. -/
theorem mailboxCommands : Obligations.MailboxCommands := by
  intro s u f die n m k x y z
  refine ⟨replies_info, ?fwload, ?start, ?part, ?place, ?gridmap, ?abort, ?share, ?aperture, ?trcb, ?peercfg, ?power,
    fun h => replies_therm h die, fun h => replies_telem h die, replies_errlog, leads_doorbellWhileBusy,
    fun _ => replies_unknown, fun _ _ => leads_completion⟩
  case fwload => exact fun h hs hf => ⟨replies_fwload h hs hf x n, replies_fwload_refused h hs hf x n⟩
  case start => exact fun h hs hf hw => ⟨replies_start h hs hf hw, replies_start_failed h hs hf hw k⟩
  case part => exact fun h _ _ => replies_part h
  case place => exact fun h hn => replies_place h hn
  case gridmap => exact fun h hu _ => replies_gridmap h hu n
  case abort => exact fun h hu _ _ => replies_abort h hu
  case share => exact fun h hu c hc => ⟨replies_share_read h hu c hc, replies_share_write h hu c hc⟩
  case aperture => exact fun h hn => replies_aperture h hn
  case trcb => exact fun h hu hx hy hz hw _ => replies_trcb h hu die hx hy hz hw
  case peercfg => exact fun h dev _ _ => replies_peercfg h dev
  case power =>
    exact fun h hh hn hm h5 => ⟨replies_power h hh hn hm h5, leads_power h hh hn hm h5⟩

end Sys2Proof.Machine

end

section

/-!
# Early endings

What the early ending of launches does apart from their work: which endings it moves, and that it leaves the functions'
registers (R431, R436, R437).
-/

namespace Sys2Proof.Machine

/-- From one state to another the functions' registers stand, and open launches stay open, their endings moved as a function
of their indices says. -/
structure MovesEndings (f : Nat → Option Nat → Option Nat) (s u : State) : Prop where
  funcs : u.funcs = s.funcs
  launches : ∀ k L, s.launchAt k = some L → L.complete = false →
    ∃ M, u.launchAt k = some M ∧ M.complete = false ∧ M.status = f k L.status

/-- No ending moves. -/
abbrev KeepsEndings (s u : State) : Prop := MovesEndings (fun _ x => x) s u

theorem keepsEndings_of_eq {s u : State} (hf : u.funcs = s.funcs) (hl : u.work.launches = s.work.launches) :
    KeepsEndings s u :=
  ⟨hf, fun k L hL hc => ⟨L, by unfold State.launchAt at *; rwa [hl], hc, rfl⟩⟩

theorem MovesEndings.trans {f g : Nat → Option Nat → Option Nat} {s u v : State} (h : MovesEndings f s u)
    (h' : MovesEndings g u v) : MovesEndings (fun k x => g k (f k x)) s v := by
  refine ⟨h'.funcs.trans h.funcs, fun k L hL hc => ?_⟩
  obtain ⟨M, hM, hMc, hst⟩ := h.launches k L hL hc
  obtain ⟨N, hN, hNc, hst'⟩ := h'.launches k M hM hMc
  exact ⟨N, hN, hNc, by rw [hst', hst]⟩

theorem MovesEndings.keeps {f : Nat → Option Nat → Option Nat} {s u v : State} (h : MovesEndings f s u)
    (h' : KeepsEndings u v) : MovesEndings f s v := h.trans h'

/-- One launch changed moves the ending of that launch alone. -/
theorem movesEndings_mapLaunch {f : Nat → Option Nat → Option Nat} (s : State) {j : Nat} {g : Launch → Launch}
    (hg : ∀ l, (g l).complete = l.complete ∧ (g l).status = f j l.status) (hf : ∀ k x, k ≠ j → f k x = x) :
    MovesEndings f s (s.mapLaunch j g) := by
  refine ⟨?_, fun k L hL hc => ?_⟩
  · unfold State.mapLaunch; split <;> rfl
  · by_cases hk : k = j
    · subst hk
      exact ⟨g L, launchAt_mapLaunch hL g, (hg L).1.trans hc, (hg L).2⟩
    · exact ⟨L, by rw [launchAt_mapLaunch_other s g hk, hL], hc, (hf k _ hk).symm⟩

theorem keepsEndings_mapOwnLaunch (s : State) (t : Thread) {g : Launch → Launch}
    (hg : ∀ l, (g l).complete = l.complete ∧ (g l).status = l.status) : KeepsEndings s (s.mapOwnLaunch t g) := by
  unfold State.mapOwnLaunch
  split
  · exact keepsEndings_of_eq rfl rfl
  · exact movesEndings_mapLaunch s hg fun _ _ _ => rfl

theorem keepsEndings_setThread (s : State) (w : Thread) : KeepsEndings s (s.setThread w) := by
  rw [setThread_rest]
  exact keepsEndings_of_eq rfl rfl

theorem keepsEndings_dropPins (s : State) (tid : Nat) : KeepsEndings s (dropPins s tid) := by
  unfold dropPins
  dsimp only
  split <;> exact keepsEndings_of_eq rfl rfl

theorem keepsEndings_endThread (s : State) (tid : Nat) : KeepsEndings s (endThread s tid) := by
  unfold endThread
  split
  · exact keepsEndings_of_eq rfl rfl
  next t _ =>
    extract_lets com lost s1 s2 s3 w s4 s5
    have h1 : KeepsEndings s s1 := by
      unfold s1
      split
      · exact keepsEndings_of_eq rfl rfl
      · exact keepsEndings_dropPins s tid
    have h2 : KeepsEndings s s2 := h1.keeps (keepsEndings_of_eq rfl rfl)
    have h23 := keepsEndings_mapOwnLaunch s2 t (g := fun l => { l with squashes := l.squashes + lost }) fun _ => ⟨rfl, rfl⟩
    have h4 : KeepsEndings s s4 := (h2.keeps h23).keeps (keepsEndings_of_eq rfl rfl)
    have hleave (v : State) (x : Thread) : KeepsEndings v ((leaveBarriers v tid).setThread x) :=
      (keepsEndings_of_eq (s := v) (u := leaveBarriers v tid) rfl rfl).keeps (keepsEndings_setThread _ _)
    have h45 : KeepsEndings s4 s5 := keepsEndings_mapOwnLaunch s4 t fun _ => ⟨rfl, rfl⟩
    split
    · exact (h4.keeps h45).keeps (hleave s5 _)
    · exact h4
    · exact h4.keeps (hleave s4 _)

/-- The ending of a launch after those of a list have been ended with a status (R437). -/
def endingAfter (l : List Nat) (st k : Nat) (x : Option Nat) : Option Nat := if k ∈ l then mergeEnd x (some st) else x

theorem endingAfter_other {l : List Nat} {k : Nat} (st : Nat) (x : Option Nat) (h : k ∉ l) : endingAfter l st k x = x :=
  if_neg h

theorem mergeEnd_again (x y : Option Nat) : mergeEnd (mergeEnd x y) y = mergeEnd x y := by
  unfold mergeEnd
  by_cases h : endRank x < endRank y <;> simp [h]

/-- A launch that stands in the list more than once is ended once. -/
theorem endingAfter_cons (j : Nat) (l : List Nat) (st k : Nat) (x : Option Nat) :
    endingAfter l st k (endingAfter [j] st k x) = endingAfter (j :: l) st k x := by
  by_cases hj : k = j
  · simp [endingAfter, hj, mergeEnd_again]
  · simp [endingAfter, hj]

theorem movesEndings_endLaunch (s : State) (j st : Nat) : MovesEndings (endingAfter [j] st) s (endLaunch s j st) := by
  -- where launch j is not open, no ending moves
  have hnone (h : ∀ L, s.launchAt j = some L → L.complete = true) : MovesEndings (endingAfter [j] st) s s := by
    refine ⟨rfl, fun k L hL hc => ⟨L, hL, hc, (endingAfter_other st _ fun hk => ?_).symm⟩⟩
    obtain rfl := List.mem_singleton.1 hk
    simp [h L hL] at hc
  unfold endLaunch
  split
  next hj => exact hnone fun L hL => by rw [hj] at hL; cases hL
  next l hj =>
    split
    next hc => exact hnone fun L hL => by rw [hj] at hL; cases hL; exact hc
    next =>
      extract_lets s1 s2 hit
      have h1 : MovesEndings (endingAfter [j] st) s s1 :=
        movesEndings_mapLaunch s (fun _ => ⟨rfl, (if_pos (List.mem_singleton.2 rfl)).symm⟩)
          fun _ x hk => endingAfter_other st x (by simpa using hk)
      have h2 : MovesEndings (endingAfter [j] st) s s2 := h1.keeps (keepsEndings_of_eq rfl rfl)
      exact foldl_inv (fun v t hv => hv.keeps (keepsEndings_endThread v t.tid)) hit h2

theorem movesEndings_foldl_endLaunch (st : Nat) (l : List Nat) (s : State) :
    MovesEndings (endingAfter l st) s (l.foldl (fun s k => endLaunch s k st) s) := by
  induction l generalizing s with
  | nil => exact keepsEndings_of_eq rfl rfl
  | cons j l ih =>
    have h := (movesEndings_endLaunch s j st).trans (ih (endLaunch s j st))
    simp only [endingAfter_cons] at h
    exact h

end Sys2Proof.Machine

end

section

/-!
# ASIDs that retire

What the retirement of ASIDs takes away, and which ASIDs of a function that has been reset are left: those of open launches
(R65, R431).
-/

namespace Sys2Proof.Machine

@[simp] theorem refuseMaps_funcs (s : State) (asid : Nat) : (refuseMaps s asid).funcs = s.funcs :=
  foldl_keeps State.funcs (f := fun s u => (releaseNodes s (agentId 3 u) false).reply u 1 []) (fun _ _ => rfl) _ _

@[simp] theorem refuseMaps_work (s : State) (asid : Nat) : (refuseMaps s asid).work = s.work :=
  foldl_keeps State.work (f := fun s u => (releaseNodes s (agentId 3 u) false).reply u 1 []) (fun _ _ => rfl) _ _

@[simp] theorem retireAsid_funcs (s : State) (asid : Nat) : (retireAsid s asid).funcs = s.funcs := refuseMaps_funcs s asid

@[simp] theorem retireAsid_launches (s : State) (asid : Nat) : (retireAsid s asid).work.launches = s.work.launches := by
  simp [retireAsid]

@[simp] theorem mem_retireAsid_asids {s : State} {asid : Nat} {e : Nat × Asid} :
    e ∈ (retireAsid s asid).work.asids ↔ e ∈ s.work.asids ∧ e.1 ≠ asid := by
  simp [retireAsid, Tbl.del]

@[simp] theorem mem_retireAsid_retiring {s : State} {asid a : Nat} :
    a ∈ (retireAsid s asid).work.retiring ↔ a ∈ s.work.retiring ∧ a ≠ asid := by
  simp [retireAsid]

theorem mem_foldl_retireAsid_asids {l : List Nat} {s : State} {e : Nat × Asid} :
    e ∈ (l.foldl retireAsid s).work.asids ↔ e ∈ s.work.asids ∧ e.1 ∉ l := by
  induction l generalizing s with
  | nil => simp
  | cons a l ih => simp [ih, and_assoc]

theorem mem_foldl_retireAsid_retiring {l : List Nat} {s : State} {a : Nat} :
    a ∈ (l.foldl retireAsid s).work.retiring ↔ a ∈ s.work.retiring ∧ a ∉ l := by
  induction l generalizing s with
  | nil => simp
  | cons b l ih => simp [ih, and_assoc]

@[simp] theorem retireLeft_funcs (s : State) : (retireLeft s).funcs = s.funcs :=
  foldl_keeps State.funcs retireAsid_funcs _ _

@[simp] theorem retireLeft_launches (s : State) : (retireLeft s).work.launches = s.work.launches :=
  foldl_keeps (fun s : State => s.work.launches) retireAsid_launches _ _

@[simp] theorem asidInUse_retireLeft (s : State) (a : Nat) : asidInUse (retireLeft s) a = asidInUse s a := by
  simp [asidInUse]

/-- An ASID that was to retire and still stands waits for a launch of its own (R65). -/
theorem retireLeft_waits {s : State} {e : Nat × Asid} (h : e ∈ (retireLeft s).work.asids) (hr : e.1 ∈ s.work.retiring) :
    e.1 ∈ (retireLeft s).work.retiring ∧ asidInUse (retireLeft s) e.1 = true := by
  obtain ⟨-, hn⟩ := mem_foldl_retireAsid_asids.1 h
  have hu : asidInUse s e.1 = true := by simpa [hr] using hn
  exact ⟨mem_foldl_retireAsid_retiring.2 ⟨hr, hn⟩, by rw [asidInUse_retireLeft, hu]⟩

theorem mem_foldl_addOnce {l m : List Nat} {a : Nat} : a ∈ l.foldl (fun m a => addOnce a m) m ↔ a ∈ m ∨ a ∈ l := by
  induction l generalizing m with
  | nil => simp
  | cons b l ih =>
    have hb : a ∈ addOnce b m ↔ a ∈ m ∨ a = b := by unfold addOnce; split <;> simp_all
    simp [ih, hb, or_assoc]

end Sys2Proof.Machine

end

section

/-!
# Function Level Reset

The steps of the reset of a virtual function, and what they leave of its chain, its launches and its ASIDs (R65, R431).
-/

namespace Sys2Proof.Machine

/-- The chain of a function is disabled. -/
def chainOff (f : Nat) (s : State) : State :=
  s.mapFunc f (fun x => { x with lcctl := BitVec.ofNat 64 (bitsOf x.lcctl 0 5) })

/-- The open launches of a function are aborted. -/
def abortOpen (f : Nat) (s : State) : State := (openLaunches s f).foldl (fun s k => endLaunch s k 2) s

/-- The ASIDs of a function are to retire. -/
def leaveAsids (f : Nat) (s : State) : State :=
  let mine := (s.work.asids.filter (fun e => e.2.owner == f)).map Prod.fst
  { s with work := { s.work with retiring := mine.foldl (fun l a => addOnce a l) s.work.retiring } }

theorem resetFunction_eq (f : Nat) (s : State) :
    resetFunction f s = { retireLeft (leaveAsids f (abortOpen f (chainOff f s))) with
      parts := returnPartition (retireLeft (leaveAsids f (abortOpen f (chainOff f s)))).parts f } := rfl

theorem mem_openLaunches {s : State} {f k : Nat} {L : Launch} (hL : s.launchAt k = some L) (hf : L.fn = f)
    (hc : L.complete = false) : k ∈ openLaunches s f := by
  refine List.mem_filter.2 ⟨List.mem_range.2 (List.getElem?_eq_some_iff.1 hL).1, ?_⟩
  simp [hL, hf, hc]

theorem movesEndings_abortOpen (f : Nat) (s : State) :
    MovesEndings (endingAfter (openLaunches s f) 2) s (abortOpen f s) :=
  movesEndings_foldl_endLaunch 2 _ s

/-- Bit 8 of LCCTL, which enables a chain, is off (R55). -/
theorem resetFunction_lcctl (f : Nat) (s : State) : ((resetFunction f s).func f).lcctl.getLsbD 8 = false := by
  have hfuncs : (resetFunction f s).funcs = (chainOff f s).funcs := by
    rw [resetFunction_eq]
    exact (retireLeft_funcs _).trans (movesEndings_abortOpen f (chainOff f s)).funcs
  have hfunc : (resetFunction f s).func f = (chainOff f s).func f := congrArg (Tbl.at · f Func.fresh) hfuncs
  have hlow (x : Word) : (BitVec.ofNat 64 (bitsOf x 0 5)).getLsbD 8 = false := by
    have h : bitsOf x 0 5 < 2 ^ 8 := Nat.lt_trans (Nat.mod_lt _ (Nat.two_pow_pos 5)) (by decide)
    rw [BitVec.getLsbD_ofNat, Nat.testBit_lt_two_pow h, Bool.and_false]
  rw [hfunc, chainOff, func_mapFunc]
  exact hlow _

/-- An ASID of the function that still stands waits for a launch of its own (R65, R431). -/
theorem resetFunction_asid {f : Nat} {s : State} {e : Nat × Asid} (he : e ∈ (resetFunction f s).work.asids)
    (ho : e.2.owner = f) : e.1 ∈ (resetFunction f s).work.retiring ∧ asidInUse (resetFunction f s) e.1 = true := by
  have hstood : e ∈ (abortOpen f (chainOff f s)).work.asids := (mem_foldl_retireAsid_asids.1 he).1
  refine retireLeft_waits he (mem_foldl_addOnce.2 (Or.inr (List.mem_map.2 ⟨e, List.mem_filter.2 ⟨hstood, ?_⟩, rfl⟩)))
  simpa using ho

/-- An open launch of the function is aborted, unless it has ended with SPILL (R431, R437). -/
theorem resetFunction_launch {f k : Nat} {s : State} {L : Launch} (hL : s.launchAt k = some L) (hf : L.fn = f)
    (hc : L.complete = false) : ∃ M, (resetFunction f s).launchAt k = some M ∧
      M.status = if L.status = some 4 then some 4 else some 2 := by
  have hopen : k ∈ openLaunches (chainOff f s) f := mem_openLaunches (s := chainOff f s) hL hf hc
  obtain ⟨M, hM, -, hst⟩ := (movesEndings_abortOpen f (chainOff f s)).launches k L hL hc
  refine ⟨M, ?_, by rw [hst, endingAfter, if_pos hopen, mergeEnd_aborted]⟩
  rw [resetFunction_eq]
  show (retireLeft (leaveAsids f (abortOpen f (chainOff f s)))).work.launches[k]? = some M
  rw [retireLeft_launches]
  exact hM

/-- The reset of a virtual function runs once the host's accesses before it are done (R431). -/
theorem exec_functionLevelReset {s : State} {f : Fin 17} (hf : f ≠ 0) (hs : s.boot.started = true)
    (hw : s.links.waiting = []) : exec (.functionLevelReset f) s = .next (resetFunction f.val s) := by
  show execFunctionLevelReset f s = _
  simp [execFunctionLevelReset, takeTurn, hf, hs, hw]

end Sys2Proof.Machine

end

section

/-!
# Thermal, power and link events

Trips, the critical temperature, and the supply that settles (R443 to R446); and what settles O50.
-/

namespace Sys2Proof.Machine

/-- An operating point that is outstanding is dropped, and nothing but it and a mailbox changes (R446). -/
theorem dropTarget_rest (s : State) :
    dropTarget s = { s with power := { s.power with target := none }, boxes := (dropTarget s).boxes } := by
  unfold dropTarget
  split
  · rfl
  · rfl
  next hn =>
    have hp : s.power = { s.power with target := none } := by rw [← hn]
    rw [← hp]

theorem dropTarget_result {s : State} {clock mv u : Nat} (h : s.power.target = some (clock, mv, some u)) :
    ((dropTarget s).box u).result = some (2, []) := by
  simp [dropTarget, h, State.reply]

/-- The operating point after a trip, which stands in the log (R445, R446). -/
def Power.tripped (p : Power) (die sensor temp now : Nat) : Power :=
  { p with clock := 800, mv := 550, target := none, hold := true, log := p.log ++ [(die, sensor, temp, now)] }

theorem exec_thermalTrip (s : State) (die : Fin 4) (sensor : Nat) {temp : Nat} (h : 105 ≤ temp) :
    exec (.thermalTrip die sensor temp) s = .next (raiseVector (State.bump
      { s with power := s.power.tripped die.val sensor temp s.cycle, boxes := (dropTarget s).boxes } die.val 6 1) 0 2) := by
  show execThermalTrip die sensor temp s = _
  rw [execThermalTrip, if_neg (by omega), dropTarget_rest]
  rfl

/-- Every outstanding command of a mailbox is answered FATAL (R445). -/
def fatalBox (e : Nat × Mailbox) : Nat × Mailbox :=
  (e.1, if e.2.busy then { e.2 with result := some (5, []) } else e.2)

theorem find_fatalBox {l : Tbl Mailbox} {u : Nat} {b : Mailbox} (h : Tbl.find l u = some b) :
    Tbl.find (l.map fatalBox) u = some (fatalBox (u, b)).2 := by
  induction l with
  | nil => cases h
  | cons e l ih =>
    by_cases hu : e.1 = u
    · obtain rfl : e.2 = b := by simpa [Tbl.find, hu] using h
      simp [Tbl.find, fatalBox, hu]
    · simp only [Tbl.find, hu, if_false] at h
      simpa [Tbl.find, fatalBox, hu] using ih h

/-- A supply that has settled switches the clock and answers the mailbox that asked for it, if one did (R444). -/
theorem exec_powerVoltageSettled {s : State} {clock mv : Nat} {who : Option Nat}
    (h : s.power.target = some (clock, mv, who)) :
    let t : State := { s with power := { s.power with clock := clock, mv := mv, target := none } }
    exec .powerVoltageSettled s = .next (who.elim t (fun u => t.reply u 0 [])) := by
  show execPowerVoltageSettled s = _
  unfold execPowerVoltageSettled
  cases who <;> simp only [h, Option.elim]

theorem leads_powerVoltageSettled {s : State} {clock mv : Nat} {who : Option Nat}
    (h : s.power.target = some (clock, mv, who)) : Leads s .powerVoltageSettled (fun t =>
      t.power = { s.power with clock := clock, mv := mv, target := none } ∧ t.mem = s.mem ∧
      ∀ u, who = some u → (t.box u).result = some (0, [])) := by
  refine ⟨_, exec_powerVoltageSettled h, ?_⟩
  cases who with
  | none => exact ⟨rfl, rfl, nofun⟩
  | some w => exact ⟨rfl, rfl, fun u hu => by cases hu; simp [State.reply]⟩

/-- At a critical temperature no thread issues, and every outstanding command is answered FATAL (R445). -/
theorem leads_thermalCritical (s : State) : Leads s .thermalCritical (fun t =>
    t.power.critical = true ∧ canIssue t = false ∧ t.mem = s.mem ∧
    ∀ u b, Tbl.find s.boxes u = some b → b.busy = true → (t.box u).result = some (5, [])) := by
  refine ⟨{ s with power := { s.power with critical := true }, boxes := s.boxes.map fatalBox }, rfl, rfl,
    by simp [canIssue], rfl, fun u b hb hbusy => ?_⟩
  simp [State.box, Tbl.at, find_fatalBox hb, fatalBox, hbusy]

/-- A reset of the module leaves nothing of its work (R442). -/
theorem leads_resetModule {s : State} {i : Instr} (h : exec i s = .next (resetModule s)) :
    Leads s i (fun t => t.boot.started = false ∧ t.work = State.reset.work ∧
      t.cycle = 0 ∧ t.cur = State.reset.cur ∧ t.others = State.reset.others ∧ t.boot.absent = s.boot.absent) :=
  ⟨_, h, rfl, rfl, rfl, rfl, rfl, rfl⟩

/-- Settles O50: each reset and event leads to the state that its equation names. -/
theorem powerAndResets : Obligations.PowerAndResets := by
  intro s f
  refine ⟨leads_resetModule rfl, leads_resetModule rfl, ?functionLevelReset, ?thermalTrip, leads_thermalCritical s,
    fun _ _ _ => leads_powerVoltageSettled, fun width gen => ⟨_, rfl, rfl, rfl, rfl, rfl, rfl⟩⟩
  case functionLevelReset =>
    exact fun hf hs hw => ⟨_, exec_functionLevelReset hf hs hw, resetFunction_lcctl .., resetFunction_mem ..,
      fun _ => resetFunction_asid, fun _ _ => resetFunction_launch⟩
  case thermalTrip =>
    exact fun die sensor temp h => ⟨_, exec_thermalTrip s die sensor h, rfl, rfl, rfl, rfl, rfl,
      fun _ _ _ => dropTarget_result, func_mapFunc .., rfl, rfl, rfl⟩

end Sys2Proof.Machine

end

section

/-!
# Operand traps

Instructions that refuse their operands trap before anything is read or closed (R326, R365, R370, R371).
-/

namespace Sys2Proof.Machine

/-- A descriptor that the checks of its registers refuse traps MATRIX (R326). -/
theorem matrixJob_refused {s : State} {j : Job} {r why : Nat} (i : Instr) (d : Fin 32) (z : Fin 8)
    (hread : s.readable [.e 0, .e 1, .e 2, .e 3, .e 4, .e 5, .e 6, .e 7])
    (hfault : regFault s j (descOf s) = some (r, why)) :
    matrixJob i j d z s = s.trap cMATRIX (BitVec.ofNat 64 r) (BitVec.ofNat 64 why) := by
  simp only [matrixJob, check_of_readable hread, hfault]

/-- A barrier number that is not the item's level, or a level without a barrier, traps SCOPE (R44, R365). -/
theorem barCheck_refused {s : State} {n : Fin 8} (k : State → Out)
    (h : n.val ≠ s.cur.r.level.toNat ∨ (levelOf s s.cur).bscope = 0) :
    barCheck n s k = s.trap cSCOPE (BitVec.ofNat 64 n.val) (s.cur.r.level.setWidth 64) :=
  if_neg fun ⟨hlevel, hscope⟩ => h.elim (· hlevel) hscope

theorem execYield_of_gang {s : State} (z : Fin 8) (hread : s.readable [.g 1, .g 2, .g 3, .g 4, .g 5, .g 6, .g 7])
    (hgang : s.cur.gang ≠ none) : execYield z s = s.trap cSCOPE 0 0 := by
  rw [execYield, check_of_readable hread, if_pos (Option.isSome_iff_ne_none.2 hgang)]

theorem execYield_of_ordered {s : State} (z : Fin 8) (hread : s.readable [.g 1, .g 2, .g 3, .g 4, .g 5, .g 6, .g 7])
    (hgang : s.cur.gang = none) (hord : s.cur.ordered = true) : execYield z s = s.trap cORDER 0 0 := by
  rw [execYield, check_of_readable hread, if_neg (by simp [hgang]), if_pos hord]

/-- The level of a template that is read as a number (R47, R371). -/
theorem templateWords_level (x : Nat) : bitsOf ((templateWords x).headD 0) 32 3 = x / 2 ^ 32 % 8 := by
  show (BitVec.ofNat 64 (x / 1)).toNat / 2 ^ 32 % 2 ^ 3 = _
  rw [BitVec.toNat_ofNat]
  omega

/-- A count of 0 or of more than 65,536, or a level above the launch's or below the item's, is refused first (R371). -/
theorem spawnCheck_refused {s : State} {L : Launch} {k : Nat} (ordered : Bool) {n : Word} {ws : List Word}
    (hk : s.cur.launch = some k) (hL : s.launchAt k = some L)
    (h : n.toNat = 0 ∨ 65536 < n.toNat ∨ L.nlev < bitsOf (ws.headD 0) 32 3 ∨
      bitsOf (ws.headD 0) 32 3 < s.cur.r.level.toNat) :
    spawnCheck s ordered n ws = some (cSCOPE, n, BitVec.ofNat 64 (bitsOf (ws.headD 0) 32 3)) := by
  have hn : n.toNat = 0 ↔ n = 0 := ⟨fun h => BitVec.eq_of_toNat_eq h, fun h => by rw [h]; rfl⟩
  rw [hn] at h
  simp only [spawnCheck, hk, Option.bind_some, hL]
  exact if_pos h

/-- A template that is read in place and refused traps with what refused it (R371). -/
theorem spawning_refused {s : State} {l : Loc} {a b : Fin 32} {cause : Nat} {v w : Word} (ordered : Bool) (z : Fin 8)
    (hread : s.readable [.g a, .g b]) (hplace : resolve s s.cur (s.rg a) 64 .read = .ok l)
    (hgoes : GoesAhead s [(s.rg a, l)] 64 .read)
    (hcheck : spawnCheck s ordered (s.rg b) (templateWords (chunkNum s l 64)) = some (cause, v, w)) :
    spawning ordered a b z s = s.trap cause v w := by
  unfold chunkNum at hcheck
  simp only [spawning, check_of_readable hread, access1_goes hplace hgoes, reading_goes hgoes, hcheck]

/-- Settles O24: each instruction traps at its own check. -/
theorem operandTraps : Obligations.OperandTraps := by
  refine ⟨fun s d z r why hb hread => ?matrix, fun s n z hb hbad i hi => ?barrier, fun s z hb hread => ?yield,
    fun s a b z l k L hb hread hplace hgoes hk hL hbad => ?spawn⟩
  case matrix =>
    have job {i : Instr} {j : Job} (hi : exec i s = matrixJob i j d z s) (hf : regFault s j (descOf s) = some (r, why)) :
        Parks s i cMATRIX (BitVec.ofNat 64 r) (BitVec.ofNat 64 why) s.cur.r.pc :=
      parks_of_trap hb (hi.trans (matrixJob_refused i d z hread hf))
    exact ⟨job rfl, job rfl, job rfl, job rfl, job rfl⟩
  case barrier =>
    simp only [List.mem_cons, List.not_mem_nil, or_false] at hi
    rcases hi with rfl | rfl | rfl <;> exact parks_of_trap hb (barCheck_refused _ hbad)
  case yield =>
    exact ⟨fun hg => parks_of_trap hb (execYield_of_gang z hread hg),
      fun hg ho => parks_of_trap hb (execYield_of_ordered z hread hg ho)⟩
  case spawn =>
    have hlev := templateWords_level (chunkNum s l 64)
    have hcheck (ordered : Bool) : spawnCheck s ordered (s.rg b) (templateWords (chunkNum s l 64)) =
        some (cSCOPE, s.rg b, BitVec.ofNat 64 (chunkNum s l 64 / 2 ^ 32 % 8)) := by
      rw [spawnCheck_refused ordered hk hL (by rwa [hlev]), hlev]
    exact ⟨parks_of_trap hb (spawning_refused false z hread hplace hgoes (hcheck false)),
      parks_of_trap hb (spawning_refused true z hread hplace hgoes (hcheck true))⟩

end Sys2Proof.Machine

end

section

/-!
# Items that end

What the retirement of a plain item and its continuation change, and what they leave (R51, R53, R72, R369, R370).
-/

namespace Sys2Proof.Machine

/-- A change of one launch changes the list of launches alone. -/
theorem mapLaunch_rest (s : State) (k : Nat) (f : Launch → Launch) :
    s.mapLaunch k f = { s with work := { s.work with launches := (s.mapLaunch k f).work.launches } } := by
  unfold State.mapLaunch; split <;> rfl

/-- The state after the issuing thread's item has retired: its launch counts it, and its slot waits (R53, R369). -/
def State.retired (v : State) (k : Nat) (keeps : Bool) : State :=
  (leaveBarriers v v.cur.tid).mapLaunch k (fun l => { l with retired := l.retired + 1 })
    |>.withCur { v.cur.toWaiting with keeps := keeps }

theorem retireItem_cur {v : State} {k : Nat} (keeps : Bool) (hk : v.cur.launch = some k) :
    retireItem v v.cur keeps = v.retired k keeps := by
  unfold retireItem State.retired State.mapOwnLaunch
  simp only [hk]
  rw [mapLaunch_rest]
  exact if_pos rfl

/-- What the retirement of an item leaves (R53, R72, R369). -/
theorem retired_spec {v : State} {k : Nat} {L : Launch} (keeps : Bool) (hL : v.launchAt k = some L) :
    let t := v.retired k keeps
    t.cur.place = .waiting ∧ t.cur.keeps = keeps ∧ t.cur.r = v.cur.r ∧
      t.launchAt k = some { L with retired := L.retired + 1 } ∧ t.mem = v.mem ∧ t.others = v.others ∧
      t.weir = v.weir ∧ ∀ j, j ≠ k → t.launchAt j = v.launchAt j := by
  have hown : (v.retired k keeps).launchAt k = some { L with retired := L.retired + 1 } :=
    launchAt_mapLaunch (s := leaveBarriers v v.cur.tid) hL _
  have hother (j : Nat) (hj : j ≠ k) : (v.retired k keeps).launchAt j = v.launchAt j :=
    launchAt_mapLaunch_other (leaveBarriers v v.cur.tid) _ hj
  refine ⟨rfl, rfl, rfl, hown, ?_, ?_, ?_, hother⟩ <;> rw [State.retired, mapLaunch_rest] <;> rfl

/-- The state after the chunk of one that ends an item has tried to commit (R170). -/
def State.lastCommit (s : State) (z : Fin 8) : State :=
  let u := s.done 4 z s.cur
  commitOlder (u.withCur { u.cur with com := some { u.cur.ex with phase := .ended } }) s.cur.tid

/-- WEND and WAITW retire a plain item whose chunk of one has committed (R369). -/
theorem retire_plain {s : State} (keeps : Bool) (z : Fin 8) (hirrev : s.cur.irrev = false) (hord : s.cur.ordered = false)
    (htask : s.cur.ex.task = none) (hcom : (s.lastCommit z).cur.com = none) :
    retire keeps z s = .next (retireItem (s.lastCommit z) (s.lastCommit z).cur keeps) := by
  have hserial : ((s.done 4 z s.cur).cur.ex.serial || s.cur.irrev) = (s.done 4 z s.cur).cur.ex.serial := by
    rw [hirrev, Bool.or_false]
  unfold retire
  simp only [htask, hserial, hord]
  change (if (s.lastCommit z).cur.com.isSome = true then _ else _) = _
  rw [hcom]
  rfl

theorem execWend_plain {s : State} (z : Fin 8) (hb : AtBoundary s) (hsuper : s.cur.super = false) :
    execWend z s = retire false z s := by
  simp [execWend, hsuper, hb.body, closing_at hb]

theorem execWaitw_plain {s : State} (z : Fin 8) (hb : AtBoundary s) (hsuper : s.cur.super = false) :
    execWaitw z s = retire true z s := by
  simp [execWaitw, hsuper, closing_at hb]

/-- The state after a plain item has yielded: its continuation is on the way to the Shoe of its cluster (R51, R370). -/
def State.yielded (v : State) (item : Item) : State :=
  { leaveBarriers v v.cur.tid with
    cur := v.cur.toWaiting
    work := { (leaveBarriers v v.cur.tid).work with
      arriving := v.work.arriving ++ [(clusterOf v.cur.tid, { item with v := v.cur.lastV, since := v.cycle })] } }

theorem yielded_arriving {v : State} {tid : Nat} {item : Item} (h : v.cur.tid = tid) :
    (v.yielded item).work.arriving =
      v.work.arriving ++ [(clusterOf tid, { item with v := v.cur.lastV, since := v.cycle })] := by
  subst h; rfl

/-- YIELD of a plain item whose chunk of one has committed hands its continuation on (R370). -/
theorem execYield_plain {s : State} {k : Nat} (z : Fin 8) (hb : AtBoundary s) (hgang : s.cur.gang = none)
    (hord : s.cur.ordered = false) (hk : s.cur.launch = some k)
    (hread : s.readable [.g 1, .g 2, .g 3, .g 4, .g 5, .g 6, .g 7]) (hcom : (s.lastCommit z).cur.com = none) :
    execYield z s = .next ((s.lastCommit z).yielded (continuation s)) := by
  rw [execYield, check_of_readable hread, if_neg (by simp [hgang]), if_neg (by simp [hord]), closing_at hb,
    if_neg (by simp [hk])]
  show (if (s.lastCommit z).cur.com.isSome = true then _ else _) = _
  rw [hcom]
  rfl

theorem bitsOf_zero {w : Nat} (x : BitVec w) (n : Nat) : bitsOf x 0 n = x.toNat % 2 ^ n := by
  rw [bitsOf, Nat.pow_zero, Nat.div_one]

/-- The top bits of a word. -/
theorem bitsOf_top (x : Word) {lo n : Nat} (h : lo + n = 64) : bitsOf x lo n = x.toNat / 2 ^ lo := by
  refine Nat.mod_eq_of_lt (Nat.div_lt_of_lt_mul ?_)
  rw [← Nat.pow_add, h]
  exact x.isLt

/-- The words of a continuation: the next instruction as its entry, and g1 to g7 (R51). -/
theorem continuation_words {s : State} {k : Nat} {L : Launch} (hk : s.cur.launch = some k) (hL : s.launchAt k = some L) :
    (continuation s).words = [BitVec.ofNat 64 ((s.cur.item0.w0.toNat / 2 ^ 32) * 2 ^ 32 +
      (s.cur.r.pc + 4 - L.codebase).toNat % 2 ^ 32), s.rg 1, s.rg 2, s.rg 3, s.rg 4, s.rg 5, s.rg 6, s.rg 7] := by
  simp only [continuation, hk, Option.bind_some, hL, Option.map_some, Option.getD_some, bitsOf_zero,
    bitsOf_top s.cur.item0.w0 (lo := 32) (n := 32) rfl]

/-- Settles O29: the chunk of one has committed, and what is left is the retirement or the continuation. -/
theorem endingItems : Obligations.EndingItems := by
  refine ⟨fun s z k L hb hsuper hirrev hord htask hcom _ hk hL => ?retires,
    fun s z k L hb hgang hord hk hL hread hcom htid => ?yields⟩
  case retires =>
    have retires {i : Instr} (keeps : Bool) (hi : exec i s = retire keeps z s) :
        exec i s = .next ((s.lastCommit z).retired k keeps) := by
      rw [hi, retire_plain keeps z hirrev hord htask hcom]
      exact congrArg _ (retireItem_cur keeps hk)
    exact ⟨⟨_, retires false (execWend_plain z hb hsuper), retired_spec false hL⟩,
      ⟨_, retires true (execWaitw_plain z hb hsuper), retired_spec true hL⟩⟩
  case yields =>
    refine ⟨_, { continuation s with v := (s.lastCommit z).cur.lastV, since := (s.lastCommit z).cycle },
      execYield_plain z hb hgang hord hk hread hcom, rfl, yielded_arriving htid, rfl, rfl, rfl,
      rfl, rfl, continuation_words hk hL, rfl, rfl⟩

end Sys2Proof.Machine

end

section

/-!
# Items in a Shoe

An item that arrives, comes back, ages and is dispatched (R72 to R78).
-/

namespace Sys2Proof.Machine

/-- An item of a live launch joins a Shoe that has room with a new time of arrival (R74, R78). -/
theorem acceptItem_room {s : State} {c : Nat} {i : Item} {l : Launch} (hl : s.launchAt i.launch = some l)
    (hended : l.ended = false) (hcomplete : l.complete = false) (hroom : (s.shoe c).items.length < 4096) :
    acceptItem c s i = State.mapShoe { s with work := { s.work with arrivals := s.work.arrivals + 1 } } c (fun x =>
      { x with items := x.items ++ [{ i with arrival := s.work.arrivals, since := s.cycle, aged := 0 }] }) := by
  have hl' : State.launchAt { s with work := { s.work with arrivals := s.work.arrivals + 1 } } i.launch = some l := hl
  have hroom' : (State.shoe { s with work := { s.work with arrivals := s.work.arrivals + 1 } } c).items.length < 4096 := hroom
  unfold acceptItem
  rw [hl, Option.map_some, Option.getD_some, hended, hcomplete, if_neg (by decide)]
  simp only [shoeSpill, hl', hroom', if_true]

theorem leads_shoeItemArrive {s : State} {c : Nat} {e : Nat × Item} {l : Launch}
    (he : s.work.arriving.find? (fun e => e.1 == c) = some e) (hl : s.launchAt e.2.launch = some l)
    (hended : l.ended = false) (hcomplete : l.complete = false) (hroom : (s.shoe c).items.length < 4096) :
    Leads s (.shoeItemArrive c) (fun t => t.work.arriving = s.work.arriving.erase e ∧
      (t.shoe c).items = (s.shoe c).items ++ [{ e.2 with arrival := s.work.arrivals, since := s.cycle, aged := 0 }] ∧
      (∀ k, k ≠ c → t.shoe k = s.shoe k) ∧ t.mem = s.mem ∧ t.cur = s.cur ∧ t.others = s.others) := by
  refine ⟨_, by simp only [exec, execShoeItemArrive, he]; rfl, ?_⟩
  rw [acceptItem_room (s := { s with work := { s.work with arriving := s.work.arriving.erase e } }) hl hended hcomplete hroom]
  refine ⟨rfl, ?_, fun k hk => shoe_mapShoe_other _ _ hk, rfl, rfl, rfl⟩
  rw [shoe_mapShoe]
  rfl

theorem mapLaunch_cycle (s : State) (k : Nat) (f : Launch → Launch) : (s.mapLaunch k f).cycle = s.cycle := by
  rw [mapLaunch_rest]

theorem mapLaunch_shoe (s : State) (k c : Nat) (f : Launch → Launch) : (s.mapLaunch k f).shoe c = s.shoe c := by
  rw [mapLaunch_rest]; rfl

/-- One launch changed is that launch changed, if there is one. -/
theorem launchAt_mapLaunch_map (s : State) (k : Nat) (f : Launch → Launch) :
    (s.mapLaunch k f).launchAt k = (s.launchAt k).map f := by
  cases h : s.launchAt k with
  | none => simp only [State.mapLaunch, h, Option.map_none]
  | some l => exact launchAt_mapLaunch h f

theorem leads_shoeRefill {s : State} {c k : Nat} {e : Nat × Item} (h : refillFor s c = some (k, e)) :
    Leads s (.shoeRefill c) (fun t =>
      (t.shoe c).items = (s.shoe c).items ++ [{ e.2 with since := s.cycle - e.2.since }] ∧
      (t.launchAt k).map Launch.spilled = (s.launchAt k).map (fun l => l.spilled.erase e) ∧ t.mem = s.mem) := by
  refine ⟨_, by simp only [exec, execShoeRefill, h, mapLaunch_cycle]; rfl, ?_, ?_, ?_⟩
  · rw [shoe_mapShoe, mapLaunch_shoe]
  · show ((s.mapLaunch k _).launchAt k).map Launch.spilled = _
    rw [launchAt_mapLaunch_map, Option.map_map]
    rfl
  · rw [mapShoe_mem, mapLaunch_mem]

theorem leads_itemAging (s : State) (c : Nat) : Leads s (.itemAging c) (fun t =>
    (t.shoe c).items = (s.shoe c).items.map (ageItem s) ∧ t.mem = s.mem) :=
  ⟨_, rfl, by rw [shoe_mapShoe], rfl⟩

theorem mem_of_minBy {α : Type} {f : α → Nat} {l : List α} {x : α} (h : minBy f l = some x) : x ∈ l := by
  induction l generalizing x with
  | nil => cases h
  | cons a l ih =>
    unfold minBy at h
    split at h
    next => exact Option.some.inj h ▸ List.mem_cons_self
    next y hy =>
      split at h
      · exact Option.some.inj h ▸ List.mem_cons_self
      · exact List.mem_cons_of_mem a (Option.some.inj h ▸ ih hy)

/-- A slot that is chosen is one of the list (R76). -/
theorem exists_of_chooseSlot {l : List Thread} {n : Nat} (h : chooseSlot l = some n) : ∃ u ∈ l, u.tid = n := by
  obtain ⟨u, hu, htid⟩ := Option.map_eq_some_iff.1 h
  refine ⟨u, ?_, htid⟩
  have hmem := mem_of_minBy hu
  split at hmem
  · exact hmem
  · exact (List.mem_filter.1 hmem).1

theorem mem_threads_of_eligible {s : State} {c : Nat} {i : Item} {u : Thread} (h : u ∈ eligible s c i) : u ∈ s.threads := by
  unfold eligible at h
  split at h
  · cases h
  · split at h
    · cases h
    · exact (List.mem_filter.1 h).1

theorem thread_isSome_of_mem {s : State} {u : Thread} (h : u ∈ s.threads) : (s.thread u.tid).isSome :=
  List.find?_isSome.2 ⟨u, h, by simp⟩

/-- The slot that is chosen for an item starts loading it (R72, R73). -/
theorem thread_loadItem {s : State} {tid : Nat} (i : Item) (gang : Option Nat) (h : (s.thread tid).isSome) :
    BecomesThread (loadItem s tid i gang) tid (fun u => u.place = .loading i (s.cycle + 6)) := by
  obtain ⟨t, ht⟩ := Option.isSome_iff_exists.1 h
  unfold loadItem BecomesThread
  simp only [ht]
  exact ⟨_, thread_setThread' ht rfl, rfl⟩

/-- A slot that starts loading changes the threads alone. -/
theorem loadItem_rest (s : State) (tid : Nat) (i : Item) (gang : Option Nat) :
    loadItem s tid i gang = { s with cur := (loadItem s tid i gang).cur, others := (loadItem s tid i gang).others } := by
  unfold loadItem
  split
  · rfl
  · exact setThread_rest ..

theorem loadItem_shoe (s : State) (tid c : Nat) (i : Item) (gang : Option Nat) :
    (loadItem s tid i gang).shoe c = s.shoe c := by
  rw [loadItem_rest]; rfl

theorem shoeFree_loadItem (s : State) (tid c : Nat) (i : Item) (gang : Option Nat) :
    shoeFree (loadItem s tid i gang) c = shoeFree s c := by
  rw [loadItem_rest]; rfl

theorem takeItem_items (s : State) (c : Nat) (i : Item) : ((takeItem s c i).shoe c).items = (s.shoe c).items.erase i := by
  show ((s.mapShoe c (fun x => { x with items := x.items.erase i })).shoe c).items = _
  rw [shoe_mapShoe]

theorem shoeSpent_items (s : State) (c : Nat) (i : Option Item) : ((shoeSpent s c i).shoe c).items = (s.shoe c).items := by
  rw [shoeSpent, shoe_mapShoe]

/-- A Shoe that is free dispatches its choice to the slot that R76 chooses. -/
theorem leads_shoeDispatch {s : State} {c n : Nat} {i : Item} (hfree : shoeFree s c = true)
    (hi : shoeChoice s c = some i) (hn : chooseSlot (eligible s c i) = some n) :
    Leads s (.shoeDispatch c) (fun t => (t.shoe c).items = (s.shoe c).items.erase i ∧ shoeFree t c = false ∧
      t.mem = s.mem ∧ BecomesThread t n (fun u => u.place = .loading i (s.cycle + 6))) := by
  obtain ⟨u, hu, rfl⟩ := exists_of_chooseSlot hn
  have hexec : exec (.shoeDispatch c) s = .next (loadItem (shoeSpent (takeItem s c i) c (some i)) u.tid i none) := by
    simp only [exec, execShoeDispatch, hfree, hi, hn, Bool.not_true, Bool.false_eq_true, if_false]
  refine ⟨_, hexec, ?_, ?_, loadItem_mem .., thread_loadItem (s := shoeSpent (takeItem s c i) c (some i)) i none
    (thread_isSome_of_mem (mem_threads_of_eligible hu))⟩
  · rw [loadItem_shoe, shoeSpent_items, takeItem_items]
  · rw [shoeFree_loadItem, shoeFree_spent]

end Sys2Proof.Machine

end

section

/-!
# Slots that load

What the write of R50 leaves in a slot, alone and with the other members of its gang (R50, R73, R79).
-/

namespace Sys2Proof.Machine

/-- What an item of a launch finds in its slot, loaded at a cycle (R50, R73). -/
structure Loaded (now : Nat) (l : Launch) (i : Item) (t w : Thread) : Prop where
  tid : w.tid = t.tid
  place : w.place = .run
  ready : w.ready = now + 4
  pc : w.r.pc = l.codebase + BitVec.ofNat 64 (bitsOf i.w0 0 32)
  words : ∀ n : Fin 32, 1 ≤ n.val → n.val ≤ 7 → w.r.g[n] = i.word n.val
  level : w.r.level = BitVec.ofNat 3 i.level
  fflags : w.r.fflags = 0
  item : t.ex.task = none → w.r.item = i.id
  chunk : w.ex.count = 0 ∧ w.ex.mask = none ∧ w.ex.ckpt = w.r
  idle : w.busy = [] ∧ w.stale = []

/-- The write of R50 replaces its slot's thread by a loaded one. -/
theorem loadSlot_loads {s : State} {t : Thread} {i : Item} {due k : Nat} {l : Launch} (hp : t.place = .loading i due)
    (hk : t.launch = some k) (hl : s.launchAt k = some l) :
    ∃ w, loadSlot s t = State.setThread { s with free := s.free + 1 } w ∧ Loaded s.cycle l i t w := by
  unfold loadSlot
  simp only [hp, hk, Option.bind_some, hl]
  refine ⟨_, rfl, rfl, rfl, rfl, rfl, fun n h1 h7 => ?_, rfl, rfl, fun ht => ?_, ⟨rfl, rfl, rfl⟩, ⟨rfl, rfl⟩⟩
  · simp only [itemRegs, Fin.getElem_fin, Vector.getElem_ofFn, h1, h7, and_self, if_true]
  · simp only [ht]
    rfl

/-- It changes the threads and draws a free value. -/
theorem loadSlot_rest (s : State) (t : Thread) : (loadSlot s t).work = s.work ∧ (loadSlot s t).cycle = s.cycle := by
  unfold loadSlot
  split <;> simp

theorem loadSlot_thread_other (s : State) (t : Thread) {tid : Nat} (h : tid ≠ t.tid) :
    (loadSlot s t).thread tid = s.thread tid := by
  unfold loadSlot
  split
  · exact thread_setThread_other (s := { s with free := s.free + 1 }) h
  · rfl

theorem foldl_loadSlot_thread_other (ts : List Thread) {s : State} {tid : Nat} (h : ∀ t ∈ ts, tid ≠ t.tid) :
    (ts.foldl loadSlot s).thread tid = s.thread tid := by
  induction ts generalizing s with
  | nil => rfl
  | cons t ts ih =>
    rw [List.foldl_cons, ih fun u hu => h u (List.mem_cons_of_mem t hu), loadSlot_thread_other s t (h t List.mem_cons_self)]

/-- Slots of different numbers that load together are each loaded (R79). -/
theorem foldl_loadSlot_loads {ts : List Thread} {s : State} {v : Thread} {i : Item} {due k : Nat} {l : Launch}
    (hts : (ts.map Thread.tid).Nodup) (hv : v ∈ ts) (hs : (s.thread v.tid).isSome) (hp : v.place = .loading i due)
    (hk : v.launch = some k) (hl : s.launchAt k = some l) :
    BecomesThread (ts.foldl loadSlot s) v.tid (Loaded s.cycle l i v) := by
  induction ts generalizing s with
  | nil => cases hv
  | cons t ts ih =>
    rw [List.map_cons, List.nodup_cons] at hts
    obtain ⟨hnew, hrest⟩ := hts
    rw [List.foldl_cons]
    obtain rfl | hmem := List.mem_cons.1 hv
    · obtain ⟨w, hw, hload⟩ := loadSlot_loads hp hk hl
      refine ⟨w, ?_, hload⟩
      rw [foldl_loadSlot_thread_other ts fun u hu he => hnew (List.mem_map.2 ⟨u, hu, he.symm⟩), hw, ← hload.tid]
      exact thread_setThread (s := { s with free := s.free + 1 }) (by rw [hload.tid]; exact hs)
    · have hne : v.tid ≠ t.tid := fun he => hnew (List.mem_map.2 ⟨v, hmem, he⟩)
      obtain ⟨hwork, hcycle⟩ := loadSlot_rest s t
      rw [← hcycle]
      refine ih hrest hmem ?_ ?_
      · rwa [loadSlot_thread_other s t hne]
      · unfold State.launchAt at *
        rwa [hwork]

theorem loadDue_of_loading {s : State} {t : Thread} {i : Item} {due : Nat} (hp : t.place = .loading i due)
    (hdue : due ≤ s.cycle) (hf : tileFrozen s (tileOf t.tid) = false) : loadDue s t = true := by
  simp [loadDue, hp, hdue, hf]

theorem loading_of_loadDue {s : State} {t : Thread} (h : loadDue s t = true) : ∃ i due, t.place = .loading i due := by
  unfold loadDue at h
  split at h
  next i due hp => exact ⟨i, due, hp⟩
  next => cases h

/-- A slot that has loaded is one of those that load with it. -/
theorem mem_loadMates {s : State} {t : Thread} (ht : t ∈ s.threads) (hdue : loadDue s t = true) : t ∈ loadMates s t := by
  unfold loadMates
  split
  · exact List.mem_singleton_self t
  · exact List.mem_filter.2 ⟨ht, by simp [hdue]⟩

theorem mem_loadMates_of_gang {s : State} {t v : Thread} (hv : v ∈ s.threads) (hg : t.gang.isSome)
    (hgang : v.gang = t.gang) (hlaunch : v.launch = t.launch) (hdue : loadDue s v = true) : v ∈ loadMates s t := by
  unfold loadMates
  rw [if_neg (by simp [Option.isNone_iff_eq_none, Option.isSome_iff_ne_none.1 hg])]
  exact List.mem_filter.2 ⟨hv, by simp [hgang, hlaunch, hdue]⟩

theorem nodup_loadMates {s : State} {t : Thread} (h : t.gang = none ∨ (s.threads.map Thread.tid).Nodup) :
    ((loadMates s t).map Thread.tid).Nodup := by
  unfold loadMates
  split
  next => exact List.pairwise_singleton _ _
  next hg =>
    refine (List.filter_sublist.map Thread.tid).nodup (h.resolve_left fun hn => hg ?_)
    rw [hn]; rfl

/-- Settles O40: each step leads to the state that its equation names. -/
theorem shoeDispatch : Obligations.ShoeDispatch := by
  intro s c tid
  refine ⟨fun e he ⟨l, hl, hended, hcomplete⟩ => leads_shoeItemArrive he hl hended hcomplete,
    fun k e => leads_shoeRefill, leads_itemAging s c, fun i n => leads_shoeDispatch, ?slotLoad⟩
  case slotLoad =>
    intro u i due k L hu hp hdue hf hk hL hg
    obtain rfl : u.tid = tid := tid_of_thread hu
    have hmem : u ∈ s.threads := List.mem_of_find?_eq_some hu
    have hload : loadDue s u = true := loadDue_of_loading hp hdue hf
    have hexec : exec (.slotLoadComplete u.tid) s = .next ((loadMates s u).foldl loadSlot s) := by
      simp only [exec, execSlotLoadComplete, hu, hload, if_true]
    refine ⟨_, hexec, foldl_mem loadSlot_mem _ _, fun v hv hgang hvg hvl hvdue => ?mates, ?own⟩
    case mates =>
      obtain ⟨j, d, hvp⟩ := loading_of_loadDue hvdue
      obtain ⟨w, hw, hloaded⟩ := foldl_loadSlot_loads (nodup_loadMates hg) (mem_loadMates_of_gang hv hgang hvg hvl hvdue)
        (thread_isSome_of_mem hv) hvp (hvl.trans hk) hL
      exact ⟨w, hw, hloaded.place⟩
    case own =>
      obtain ⟨w, hw, h⟩ := foldl_loadSlot_loads (nodup_loadMates hg) (mem_loadMates hmem hload) (by rw [hu]; rfl) hp hk hL
      refine ⟨w, hw, h.place, h.ready, ?_, h.words, h.level, h.fflags, fun ht => ?_, h.chunk.1, h.chunk.2.1, h.chunk.2.2,
        h.idle.1, h.idle.2⟩
      · rw [h.pc, bitsOf_zero]
      · rw [h.item ht, Item.id, Item.gidx, bitsOf_top _ (lo := 48) (n := 16) rfl]

end Sys2Proof.Machine

end

section

/-!
# Records that are taken

What RECORD_TAKE makes of a chain's next record: a launch, a refusal, or a stopped chain (R41, R57 to R61).
-/

namespace Sys2Proof.Machine

/-- The state in which a chain has taken its next record (R57, R59). -/
def State.recordTaken (s : State) (f : Nat) : State :=
  s.mapFunc f (fun y => { y with lchead := (y.lchead + 1) % y.ring, lcseq := (s.func f).lcseq + 1 })

/-- The launch of a chain's next record, whose bytes are given (R39, R59). -/
def State.recordLaunch (s : State) (f : Nat) (bs : List Byte) : Launch :=
  { launchOf f ((s.func f).lcseq + 1) bs with epoch := (s.func f).epoch, v := (s.func f).tailV }

/-- Whether a chain's next record has been taken before, and its object written (R61). -/
def State.recordDone (s : State) (f : Nat) : Bool :=
  s.work.launches.any (fun k =>
    k.fn == f && k.epoch == (s.func f).epoch && k.seq == (s.func f).lcseq + 1 && k.complete)

/-- A launch refused under a check of R41. -/
def Launch.refused (l : Launch) (k : Nat) : Launch := { l with status := some 1, detail := k, complete := true }

/-- The state with a launch added to those of the module. -/
def State.addLaunch (s : State) (l : Launch) : State :=
  { s with work := { s.work with launches := s.work.launches ++ [l] } }

/-- Bit 2 of LCSTAT, stopped, stands after bits 1 and 2 have been set (R55). -/
theorem stopped_or_six (n : Nat) : ((n ||| 6) / 4 % 2 == 1) = true := by
  have h : (n ||| 6).testBit 2 = true := by rw [Nat.testBit_or, Bool.or_eq_true]; exact .inr rfl
  rw [Nat.testBit_eq_decide_div_mod_eq] at h
  simpa using h

/-- A chain that has not been stopped stops with vector 3 (R58, R424). -/
theorem setStat_stops {s : State} {f : Nat} (h : (s.func f).stopped = false) :
    setStat s f 6 = raiseVector (s.mapFunc f (fun x => { x with lcstat := x.lcstat ||| 6 })) f 3 := by
  unfold setStat
  dsimp only
  rw [h, func_mapFunc]
  exact if_pos (stopped_or_six _)

theorem chainReady_running {s : State} {f : Nat} (h : chainReady s f = true) : (s.func f).stopped = false := by
  simp only [chainReady, Bool.and_eq_true, Bool.not_eq_true'] at h
  exact h.1.2

/-- A record that cannot be read sets fetch and stopped (R58). -/
theorem leads_recordTake_unread {s : State} {f : Fin 17} {ok : Bool} (hready : chainReady s f.val = true)
    (h : ok = false ∨ readRecord s (s.func f.val) = none) :
    Leads s (.recordTake f ok) (fun t =>
      t.func f.val = Func.raise { s.func f.val with lcstat := (s.func f.val).lcstat ||| 6 } 3 ∧ t.work = s.work ∧
        t.mem = s.mem) := by
  have hread : (if ok = true then readRecord s (s.func f.val) else none) = none := by
    rcases h with rfl | h
    · rfl
    · rw [h, ite_self]
  refine ⟨setStat s f.val 6, ?_, ?_⟩
  · simp only [exec, execRecordTake, hready, Bool.not_true, Bool.false_eq_true, if_false, hread]
  · rw [setStat_stops (chainReady_running hready)]
    exact ⟨by rw [raiseVector, func_mapFunc, func_mapFunc], rfl, rfl⟩

/-- What RECORD_TAKE does with a record that it has read (R59, R61). -/
theorem exec_recordTake_read {s : State} {f : Fin 17} {bs : List Byte} (hready : chainReady s f.val = true)
    (hread : readRecord s (s.func f.val) = some bs) :
    exec (.recordTake f true) s = .next (if s.recordDone f.val then s.recordTaken f.val else
      (checkRecord (s.recordTaken f.val) (s.recordLaunch f.val bs) bs).getD
        (completionWaits s (agentId 8 f.val) (s.recordLaunch f.val bs) 1)) := by
  simp only [exec, execRecordTake, hready, Bool.not_true, Bool.false_eq_true, if_false, if_true, hread]
  exact (apply_ite Host.Outcome.next _ _ _).symm

/-- A record read again whose object has been written is passed over (R61). -/
theorem leads_recordTake_again {s : State} {f : Fin 17} {bs : List Byte} (hready : chainReady s f.val = true)
    (hread : readRecord s (s.func f.val) = some bs) (hdone : s.recordDone f.val = true) :
    Leads s (.recordTake f true) (fun t => t = s.recordTaken f.val) :=
  ⟨_, exec_recordTake_read hready hread, if_pos hdone⟩

/-- Another record leads to the outcome of its check, or waits for the nodes of its object (R41, R337). -/
theorem leads_recordTake_checked {s : State} {f : Fin 17} {bs : List Byte} (hready : chainReady s f.val = true)
    (hread : readRecord s (s.func f.val) = some bs) (hdone : s.recordDone f.val = false) :
    Leads s (.recordTake f true) (fun t => t = (checkRecord (s.recordTaken f.val) (s.recordLaunch f.val bs) bs).getD
      (completionWaits s (agentId 8 f.val) (s.recordLaunch f.val bs) 1)) :=
  ⟨_, exec_recordTake_read hready hread, if_neg (by rw [hdone]; exact Bool.false_ne_true)⟩

theorem checkRecord_accepted {s : State} {l : Launch} {bs : List Byte} (h : acceptCheck s l bs = 0) :
    checkRecord s l bs = some (admitLaunch (releaseNodes s (agentId 8 l.fn) false) l) := by
  simp only [checkRecord, h]

/-- A refused record ends at once: under check 3 its object is never written (R41, R54, R59). -/
theorem checkRecord_refused {s : State} {l : Launch} {bs : List Byte} (h : acceptCheck s l bs ≠ 0) :
    checkRecord s l bs = if acceptCheck s l bs = 3 then
        some (logError (s.addLaunch (l.refused (acceptCheck s l bs))) l.fn l.compl.toNat 2)
      else writeCompletion (s.addLaunch (l.refused (acceptCheck s l bs))) (agentId 8 l.fn)
        (l.refused (acceptCheck s l bs)) 1 := by
  unfold checkRecord
  split
  next h0 => exact absurd h0 h
  next => rfl

/-- The registers of the functions and the launches. -/
def State.chains (s : State) : Tbl Func × List Launch := (s.funcs, s.work.launches)

@[simp] theorem setThread_chains (s : State) (t : Thread) : (s.setThread t).chains = s.chains := by
  rw [setThread_rest]; rfl

@[simp] theorem placeThread_chains (s : State) (t : Thread) : (s.placeThread t).chains = s.chains := by
  unfold State.placeThread
  split
  · exact setThread_chains ..
  · rfl

@[simp] theorem zeroFor_chains (asid : Nat) (s : State) (tile : Nat) : (zeroFor asid s tile).chains = s.chains := by
  unfold zeroFor; split <;> rfl

@[simp] theorem holdCore_chains (idx : Nat) (l : Launch) (s : State) (core : Nat) :
    (holdCore idx l s core).chains = s.chains :=
  (foldl_keeps State.chains (fun _ _ => placeThread_chains ..) _ _).trans (zeroFor_chains ..)

@[simp] theorem holdCluster_chains (idx : Nat) (l : Launch) (s : State) (c : Nat) :
    (holdCluster idx l s c).chains = s.chains :=
  (foldl_keeps State.chains (zeroFor_chains l.asid) _ _).trans (foldl_keeps State.chains (holdCore_chains idx l) _ _)

/-- An admission adds the launch with its grid map and leaves the chains (R59, R70). -/
theorem admitLaunch_chains (s : State) (l : Launch) :
    (admitLaunch s l).chains = (s.funcs, s.work.launches ++ [{ l with map := gridMap s l }]) := by
  unfold admitLaunch
  dsimp only
  split
  · rfl
  · exact foldl_keeps State.chains (holdCluster_chains _ _) _ _

theorem leads_recordTake_accepted {s : State} {f : Fin 17} {bs : List Byte} (hready : chainReady s f.val = true)
    (hread : readRecord s (s.func f.val) = some bs) (hdone : s.recordDone f.val = false)
    (hcheck : acceptCheck (s.recordTaken f.val) (s.recordLaunch f.val bs) bs = 0) :
    Leads s (.recordTake f true) (fun t => t.func f.val = (s.recordTaken f.val).func f.val ∧
      ∃ m, t.work.launches = s.work.launches ++ [{ s.recordLaunch f.val bs with map := m }]) := by
  obtain ⟨t, ht, rfl⟩ := leads_recordTake_checked hready hread hdone
  refine ⟨_, ht, ?_⟩
  rw [checkRecord_accepted hcheck, Option.getD_some]
  have hchains := admitLaunch_chains (releaseNodes (s.recordTaken f.val) (agentId 8 (s.recordLaunch f.val bs).fn) false)
    (s.recordLaunch f.val bs)
  exact ⟨congrArg (fun c : Tbl Func × List Launch => Tbl.at c.1 f.val Func.fresh) hchains,
    _, congrArg Prod.snd hchains⟩

section
variable {s : State} {f : Fin 17} {bs : List Byte} (hready : chainReady s f.val = true)
  (hread : readRecord s (s.func f.val) = some bs) (hdone : s.recordDone f.val = false) {k : Nat}
  (hk : acceptCheck (s.recordTaken f.val) (s.recordLaunch f.val bs) bs = k) (hk0 : k ≠ 0)
include hready hread hdone hk hk0

/-- A record refused under check 3 reports an object that cannot be written (R41, R54). -/
theorem leads_recordTake_unowned (h3 : k = 3) : Leads s (.recordTake f true) (fun t =>
    t = logError ((s.recordTaken f.val).addLaunch ((s.recordLaunch f.val bs).refused k)) f.val
      (s.recordLaunch f.val bs).compl.toNat 2) := by
  obtain ⟨t, ht, rfl⟩ := leads_recordTake_checked hready hread hdone
  refine ⟨_, ht, ?_⟩
  rw [checkRecord_refused (hk.symm ▸ hk0), hk, if_pos h3]
  rfl

/-- Another refused record has its object written once its nodes are free (R41, R53, R337). -/
theorem leads_recordTake_refused (h3 : k ≠ 3) : Leads s (.recordTake f true) (fun t =>
    t = (writeCompletion ((s.recordTaken f.val).addLaunch ((s.recordLaunch f.val bs).refused k)) (agentId 8 f.val)
      ((s.recordLaunch f.val bs).refused k) 1).getD (completionWaits s (agentId 8 f.val) (s.recordLaunch f.val bs) 1)) := by
  obtain ⟨t, ht, rfl⟩ := leads_recordTake_checked hready hread hdone
  refine ⟨_, ht, ?_⟩
  rw [checkRecord_refused (hk.symm ▸ hk0), hk, if_neg h3]
  rfl

end

end Sys2Proof.Machine

end

section

/-!
# Launches from delivery to completion

Initial items, acknowledgements and completion objects (R41, R46, R53, R60, R71).
-/

namespace Sys2Proof.Machine

/-- The state after an item has left for a cluster: an ordered one for the Sluice of its die, a plain one for the Shoe (R71). -/
def State.itemSent (s : State) (c : Nat) (i : Item) : State :=
  if i.ordered then { s with work := { s.work with offered := s.work.offered ++ [(dieOf c, i)] } }
  else { s with work := { s.work with arriving := s.work.arriving ++ [(c, i)] } }

theorem itemSent_rest (s : State) (c : Nat) (i : Item) :
    s.itemSent c i = { s with work := { s.work with
      offered := (s.itemSent c i).work.offered, arriving := (s.itemSent c i).work.arriving } } := by
  unfold State.itemSent; split <;> rfl

theorem itemSent_queues (s : State) (c : Nat) (i : Item) :
    if i.ordered then (s.itemSent c i).work.offered = s.work.offered ++ [(dieOf c, i)] ∧
      (s.itemSent c i).work.arriving = s.work.arriving
    else (s.itemSent c i).work.arriving = s.work.arriving ++ [(c, i)] ∧
      (s.itemSent c i).work.offered = s.work.offered := by
  cases h : i.ordered <;> simp [State.itemSent, h]

theorem exec_cpItemDeliver_item {s : State} {l : Nat} {r : Launch} {i : Item} (hl : s.launchAt l = some r)
    (hrun : cpRuns s = true) (hopen : r.complete = false) (hleft : r.delivered < r.nitems)
    (hscope : (r.levelAt 0).bscope = 0) (hi : initialItem s l r r.delivered = some i) :
    exec (.cpItemDeliver l) s = .next ((s.itemSent (entryCluster s l r i) i).mapLaunch l
      (fun x => { x with delivered := x.delivered + 1 })) := by
  have hgo : ¬ (!cpRuns s || r.complete || decide (r.nitems ≤ r.delivered)) = true := by
    simp [hrun, hopen, hleft]
  simp only [exec, execCpItemDeliver, hl]
  rw [if_neg hgo, if_neg (not_not_intro hscope), hi]
  rfl

/-- An initial item goes to the cluster of its hint, where that is valid (R71). -/
theorem entryCluster_of_hint {s : State} {l : Nat} {r : Launch} {i : Item} {h : Nat} (hh : hintCluster r i = some h) :
    entryCluster s l r i = h := by
  simp only [entryCluster, hh, Option.getD_some]

theorem leads_cpItemDeliver_item {s : State} {l : Nat} {r : Launch} {i : Item} (hl : s.launchAt l = some r)
    (hrun : cpRuns s = true) (hopen : r.complete = false) (hleft : r.delivered < r.nitems)
    (hscope : (r.levelAt 0).bscope = 0) (hi : initialItem s l r r.delivered = some i) :
    Leads s (.cpItemDeliver l) (fun t => t.launchAt l = some { r with delivered := r.delivered + 1 } ∧
      t.mem = s.mem ∧ t.others = s.others ∧ t.cur = s.cur ∧ ∃ c, (∀ h, hintCluster r i = some h → c = h) ∧
      (if i.ordered then t.work.offered = s.work.offered ++ [(dieOf c, i)] ∧ t.work.arriving = s.work.arriving
       else t.work.arriving = s.work.arriving ++ [(c, i)] ∧ t.work.offered = s.work.offered)) := by
  have hl' : (s.itemSent (entryCluster s l r i) i).launchAt l = some r := by rw [itemSent_rest]; exact hl
  refine ⟨_, exec_cpItemDeliver_item hl hrun hopen hleft hscope hi, launchAt_mapLaunch hl' _, ?_, ?_, ?_,
    entryCluster s l r i, fun h => entryCluster_of_hint, ?_⟩
  · rw [mapLaunch_mem, itemSent_rest]
  · rw [mapLaunch_rest, itemSent_rest]
  · rw [mapLaunch_rest, itemSent_rest]
  · rw [mapLaunch_rest]
    exact itemSent_queues ..

/-- A list is what its places give, in order. -/
theorem filterMap_range_getElem? {α : Type} {f : Nat → Option α} {l : List α} (h : ∀ k < l.length, f k = l[k]?) :
    (List.range l.length).filterMap f = l := by
  induction l generalizing f with
  | nil => rfl
  | cons a l ih =>
    have h0 : f 0 = some a := h 0 (Nat.succ_pos _)
    have hrest : (List.range l.length).filterMap (f ∘ Nat.succ) = l := ih fun k hk => h (k + 1) (Nat.succ_lt_succ hk)
    rw [List.length_cons, List.range_succ_eq_map, List.filterMap_cons, h0, List.filterMap_map, hrest]

/-- A group that is formed changes the gangs that wait alone. -/
theorem formGang_rest (s : State) (r : Launch) (l c g n : Nat) (items : List Item) :
    formGang s r l c g n items = { s with work := { s.work with gangs := (formGang s r l c g n items).work.gangs } } := by
  unfold formGang; split <;> rfl

/-- A group that has members stands with its agent (R79). -/
theorem formGang_gangs (s : State) (r : Launch) (l c g n : Nat) (items : List Item) :
    ∃ agent, (formGang s r l c g n items).work.gangs = s.work.gangs ++
      (if items = [] then [] else [⟨l, g, n, items, agent, none, []⟩]) := by
  unfold formGang
  split
  · exact ⟨0, (List.append_nil _).symm⟩
  · exact ⟨_, rfl⟩

/-- The state after the items of a group with a barrier have left: plain ones stand as one group with its agent, ordered ones go
to the Sluices of their clusters (R43, R71). -/
def State.groupSent (s : State) (l : Nat) (r : Launch) (items : List Item) : State :=
  let plain := items.filter (fun i => !i.ordered)
  let t := formGang s r l (groupCluster s r (r.levelAt 0) plain.length) (r.delivered / 65536) 0 plain
  { t with work := { t.work with offered := t.work.offered ++
    (items.filter Item.ordered).map (fun i => (dieOf (entryCluster s l r i), i)) } }

theorem exec_cpItemDeliver_group {s : State} {l : Nat} {r : Launch} {items : List Item} (hl : s.launchAt l = some r)
    (hrun : cpRuns s = true) (hopen : r.complete = false) (hleft : r.delivered < r.nitems)
    (hscope : (r.levelAt 0).bscope ≠ 0) (hlen : items.length = min 65536 (r.nitems - r.delivered))
    (hitems : ∀ k < min 65536 (r.nitems - r.delivered), initialItem s l r (r.delivered + k) = items[k]?) :
    exec (.cpItemDeliver l) s = .next ((s.groupSent l r items).mapLaunch l
      (fun x => { x with delivered := x.delivered + min 65536 (r.nitems - r.delivered) })) := by
  have hgo : ¬ (!cpRuns s || r.complete || decide (r.nitems ≤ r.delivered)) = true := by
    simp [hrun, hopen, hleft]
  have hread : (List.range items.length).filterMap (fun k => initialItem s l r (r.delivered + k)) = items :=
    filterMap_range_getElem? (by rwa [hlen])
  simp only [exec, execCpItemDeliver, hl]
  rw [if_neg hgo, if_pos hscope, ← hlen, hread, if_pos rfl]
  rfl

theorem leads_cpItemDeliver_group {s : State} {l : Nat} {r : Launch} {items : List Item} (hl : s.launchAt l = some r)
    (hrun : cpRuns s = true) (hopen : r.complete = false) (hleft : r.delivered < r.nitems)
    (hscope : (r.levelAt 0).bscope ≠ 0) (hlen : items.length = min 65536 (r.nitems - r.delivered))
    (hitems : ∀ k < min 65536 (r.nitems - r.delivered), initialItem s l r (r.delivered + k) = items[k]?) :
    Leads s (.cpItemDeliver l) (fun t =>
      t.launchAt l = some { r with delivered := r.delivered + min 65536 (r.nitems - r.delivered) } ∧
      t.work.arriving = s.work.arriving ∧ t.work.offered = s.work.offered ++
        (items.filter Item.ordered).map (fun i => (dieOf (entryCluster s l r i), i)) ∧
      (∃ agent, t.work.gangs = s.work.gangs ++ (if items.filter (fun i => !i.ordered) = [] then []
        else [⟨l, r.delivered / 65536, 0, items.filter (fun i => !i.ordered), agent, none, []⟩])) ∧
      t.mem = s.mem ∧ t.others = s.others ∧ t.cur = s.cur) := by
  have hl' : (s.groupSent l r items).launchAt l = some r := by rw [State.groupSent, formGang_rest]; exact hl
  refine ⟨_, exec_cpItemDeliver_group hl hrun hopen hleft hscope hlen hitems, launchAt_mapLaunch hl' _, ?_⟩
  rw [mapLaunch_rest]
  refine ⟨?_, ?_, formGang_gangs .., ?_, ?_, ?_⟩ <;> rw [State.groupSent, formGang_rest]

/-- The next record's launch is acknowledged once it is accepted and delivered (R60). -/
theorem leads_launchAcknowledge {s : State} {f : Fin 17} {idx : Nat} {r : Launch} (hidx : firstUnacked s f.val = some idx)
    (hr : s.launchAt idx = some r) (hrun : cpRuns s = true) (hready : ackReady s idx r = true) :
    Leads s (.launchAcknowledge f) (fun t => t.launchAt idx = some { r with acked := true } ∧
      t.func f.val = (if r.epoch = (s.func f.val).epoch then { s.func f.val with lcack := r.seq } else s.func f.val) ∧
      t.mem = s.mem ∧ t.others = s.others ∧ t.cur = s.cur) := by
  have hfunc : (s.mapLaunch idx (fun l => { l with acked := true })).func f.val = s.func f.val := by
    rw [mapLaunch_rest]; rfl
  refine ⟨_, by simp only [exec, execLaunchAcknowledge, hidx, hr, hrun, hready, Bool.and_self, if_true]; rfl,
    launchAt_mapLaunch hr _, ?_, ?_, ?_, ?_⟩
  · rw [func_mapFunc, hfunc]
    split <;> rfl
  all_goals rw [mapLaunch_rest]; rfl

theorem releaseCore_launches (s : State) (core : Nat) : (releaseCore s core).work.launches = s.work.launches := rfl

theorem releaseCore_holds (s : State) (core : Nat) : (releaseCore s core).work.holds = Tbl.del s.work.holds core := rfl

theorem mem_holds_foldl_releaseCore {ks : List Nat} {s : State} {e : Nat × Nat} :
    e ∈ (ks.foldl releaseCore s).work.holds ↔ e ∈ s.work.holds ∧ e.1 ∉ ks := by
  induction ks generalizing s with
  | nil => simp
  | cons k ks ih => simp [ih, releaseCore_holds, Tbl.del, and_assoc]

/-- A launch that gives up its cores holds none (R66). -/
theorem holds_releaseCores {s : State} {l : Nat} {e : Nat × Nat} (h : e ∈ ((coresOf s l).foldl releaseCore s).work.holds) :
    e.2 ≠ l := by
  obtain ⟨hheld, hgone⟩ := mem_holds_foldl_releaseCore.1 h
  refine fun he => hgone (List.mem_map.2 ⟨e, List.mem_filter.2 ⟨hheld, ?_⟩, rfl⟩)
  simpa using he

theorem retireLeft_holds (s : State) : (retireLeft s).work.holds = s.work.holds :=
  foldl_keeps (fun s : State => s.work.holds) (fun s asid => by simp [retireAsid]) _ _

/-- The state in which a launch whose object has been written is complete, and its cores are free (R53, R66). -/
def State.launchDone (u : State) (l : Nat) : State :=
  retireLeft (((coresOf u l).foldl releaseCore u).mapLaunch l (fun x => { x with complete := true }))

theorem launchDone_launchAt (u : State) (l : Nat) :
    ((u.launchDone l).launchAt l).map Launch.complete = (u.launchAt l).map (fun _ => true) := by
  have hcores : ((coresOf u l).foldl releaseCore u).launchAt l = u.launchAt l :=
    congrArg (·[l]?) (foldl_keeps (fun s : State => s.work.launches) releaseCore_launches _ _)
  have hleft (v : State) : (retireLeft v).launchAt l = v.launchAt l := congrArg (·[l]?) (retireLeft_launches v)
  rw [State.launchDone, hleft, launchAt_mapLaunch_map, hcores, Option.map_map]
  rfl

theorem launchDone_mem (u : State) (l : Nat) : (u.launchDone l).mem = u.mem := by
  rw [State.launchDone, retireLeft_mem, mapLaunch_mem, foldl_mem releaseCore_mem]

theorem launchDone_holds {u : State} {l : Nat} {e : Nat × Nat} (h : e ∈ (u.launchDone l).work.holds) : e.2 ≠ l := by
  rw [State.launchDone, retireLeft_holds, mapLaunch_rest] at h
  exact holds_releaseCores h

/-- A launch with nothing left completes once its object is written, or waits for the object's nodes (R53, R337). -/
theorem exec_launchComplete {s : State} {l : Nat} {r : Launch} (hl : s.launchAt l = some r) (hrun : cpRuns s = true)
    (hack : r.acked = true) (hopen : r.complete = false) (hidle : launchIdle s l r = true) :
    exec (.launchComplete l) s = .next ((writeCompletion s (agentId 6 l) r (r.status.getD 0)).elim
      (completionWaits s (agentId 6 l) r (r.status.getD 0)) (·.launchDone l)) := by
  simp only [exec, execLaunchComplete, hl, hrun, hack, hopen, hidle, Bool.not_false, Bool.and_self, if_true]
  cases writeCompletion s (agentId 6 l) r (r.status.getD 0) <;> rfl

end Sys2Proof.Machine

end

section

/-!
# Lockstep mismatches

What a lockstep mismatch of the command processors does (R61, R419); and what settles O38.
-/

namespace Sys2Proof.Machine

/-- What the records of traps and the bytes of memory stand in. -/
def State.ledger (s : State) : Tbl Tailrace × Links × Memory := (s.tails, s.links, s.mem)

@[simp] theorem mapLaunch_ledger (s : State) (k : Nat) (f : Launch → Launch) : (s.mapLaunch k f).ledger = s.ledger := by
  rw [mapLaunch_rest]; rfl

@[simp] theorem withdraw_ledger (s : State) (idx : Nat) : (withdraw s idx).ledger = s.ledger := by
  unfold withdraw
  split
  · rfl
  · split
    · rfl
    · rw [mapLaunch_ledger]
      exact foldl_keeps State.ledger (f := releaseCore) (fun _ _ => rfl) _ _

/-- Agents that give up their nodes change the Weir alone. -/
theorem foldl_releaseNodes_rest (g : Nat → Nat) (l : List Nat) (s : State) :
    l.foldl (fun s u => releaseNodes s (g u) false) s =
      { s with weir := (l.foldl (fun s u => releaseNodes s (g u) false) s).weir } := by
  induction l generalizing s with
  | nil => rfl
  | cons u l ih => rw [List.foldl_cons, ih]; rfl

/-- The mismatches of the last second, this one among them: three halt the command processors (R419). -/
theorem three_mismatches (s : State) :
    3 ≤ ((s.cycle :: s.boot.lockTimes).filter (fun c => decide (s.cycle - c ≤ s.power.clock * 1000000))).length ↔
      2 ≤ (s.boot.lockTimes.filter (fun c => decide (s.cycle - c ≤ s.power.clock * 1000000))).length := by
  rw [List.filter_cons_of_pos (by simp), List.length_cons]
  omega

/-- A record of the command processors goes to lane H of die 0, behind one that they still hold (R383, R419). -/
theorem handAlone_lock {s v : State} {q : Rec} (hq : q.holder = some 0) (hlane : q.laneH = true)
    (htails : v.tails = s.tails) (hlates : v.links.lates = s.links.lates) :
    if heldBy s 0 then (handAlone v 0 q).links.lates = s.links.lates ++ [(0, q)] ∧
      ((handAlone v 0 q).tail 0).waitH = (s.tail 0).waitH
    else ((handAlone v 0 q).tail 0).waitH = (s.tail 0).waitH ++ [q] ∧ (handAlone v 0 q).links.lates = s.links.lates := by
  have hheld : q.holder.any (heldBy v) = heldBy s 0 := by
    rw [hq, Option.any_some, heldBy, htails]
    rfl
  have htail : v.tail 0 = s.tail 0 := by unfold State.tail; rw [htails]
  unfold handAlone
  rw [hheld]
  split
  · exact ⟨by rw [← hlates], congrArg Tailrace.waitH htail⟩
  · refine ⟨?_, hlates⟩
    simp [handRecord, State.tail, hlane, htails]

theorem handAlone_boot (s : State) (die : Nat) (r : Rec) : (handAlone s die r).boot = s.boot := by
  unfold handAlone; split <;> rfl

/-- The state in which the command processors restart after a mismatch, before its record is handed on (R61, R419). -/
structure Restarting (s v : State) : Prop where
  lock : v.boot.lockRestart = true
  halted : v.boot.halted = true ↔
    2 ≤ (s.boot.lockTimes.filter (fun c => decide (s.cycle - c ≤ s.power.clock * 1000000))).length
  tails : v.tails = s.tails
  lates : v.links.lates = s.links.lates
  mem : v.mem = s.mem

theorem exec_lockstepMismatch {s : State} (h : s.boot.halted = false) : ∃ v, Restarting s v ∧
    exec .lockstepMismatch s = .next (handAlone v 0 (bareRecord v cLOCK true (BitVec.ofNat 64 (s.func 0).lcack) 0)) := by
  have hledger : ((List.range s.work.launches.length).foldl withdraw s).ledger = s.ledger :=
    foldl_keeps State.ledger withdraw_ledger _ _
  simp only [State.ledger, Prod.mk.injEq] at hledger
  obtain ⟨htails, hlinks, hmem⟩ := hledger
  have hlates := congrArg Links.lates hlinks
  simp only [exec, execLockstepMismatch, h, Bool.false_eq_true, if_false]
  refine ⟨_, ?_, rfl⟩
  rw [foldl_releaseNodes_rest (agentId 8), foldl_releaseNodes_rest (agentId 3)]
  exact ⟨rfl, decide_eq_true_iff.trans (three_mismatches s), htails, hlates, hmem⟩

theorem leads_lockstepMismatch {s : State} (h : s.boot.halted = false) :
    Leads s .lockstepMismatch (fun t => t.boot.lockRestart = true ∧
      (t.boot.halted = true ↔
        2 ≤ (s.boot.lockTimes.filter (fun c => decide (s.cycle - c ≤ s.power.clock * 1000000))).length) ∧
      (∃ q : Rec, q.cause = cLOCK ∧ q.nopark = true ∧ q.laneH = true ∧ q.val = BitVec.ofNat 64 (s.func 0).lcack ∧
        if heldBy s 0 then t.links.lates = s.links.lates ++ [(0, q)] ∧ (t.tail 0).waitH = (s.tail 0).waitH
        else (t.tail 0).waitH = (s.tail 0).waitH ++ [q] ∧ t.links.lates = s.links.lates) ∧ t.mem = s.mem) := by
  obtain ⟨v, hv, hexec⟩ := exec_lockstepMismatch h
  refine ⟨_, hexec, ?_, ?_, ⟨_, rfl, rfl, rfl, rfl, handAlone_lock rfl rfl hv.tails hv.lates⟩, ?_⟩
  · rw [handAlone_boot, hv.lock]
  · rw [handAlone_boot, hv.halted]
  · rw [handAlone_mem, hv.mem]

/-- Settles O38: each step of a launch's life leads to the state that its equation names. -/
theorem launchLife : Obligations.LaunchLife := by
  refine ⟨fun s f l r => ⟨fun hready => ?record, ?item, ?group, ?acknowledge, ?complete⟩, fun s hhalt => ?lockstep⟩
  case record =>
    refine ⟨fun ok => leads_recordTake_unread hready, fun bs hread => ⟨leads_recordTake_again hready hread, fun hdone =>
      ⟨leads_recordTake_accepted hready hread hdone, fun hcheck =>
        ⟨leads_recordTake_unowned hready hread hdone rfl hcheck, fun h3 => ⟨fun u hu => ?_, fun hu => ?_⟩⟩⟩⟩⟩
    all_goals
      obtain ⟨t, ht, rfl⟩ := leads_recordTake_refused hready hread hdone rfl hcheck h3
      exact ⟨_, ht, congrArg (Option.getD · _) hu⟩
  case item =>
    exact fun hl hrun hopen hleft hscope i => leads_cpItemDeliver_item hl hrun hopen hleft hscope
  case group =>
    exact fun hl hrun hopen hleft hscope items => leads_cpItemDeliver_group hl hrun hopen hleft hscope
  case acknowledge =>
    exact fun idx => leads_launchAcknowledge
  case complete =>
    intro hl hrun hack hopen hidle
    have hexec := exec_launchComplete hl hrun hack hopen hidle
    refine ⟨fun u hu => ?_, fun hu => ?_⟩ <;> rw [hu] at hexec
    · exact ⟨_, hexec, launchDone_launchAt u l, launchDone_mem u l, fun e => launchDone_holds⟩
    · exact ⟨_, hexec, rfl⟩
  case lockstep =>
    refine ⟨leads_lockstepMismatch hhalt, fun hfirm => ⟨_, ?_, rfl⟩⟩
    simp only [exec, execFirmwareRestartComplete, hhalt, hfirm, Bool.not_true, Bool.or_self, Bool.false_eq_true, if_false]

end Sys2Proof.Machine

end

section

/-!
# Registers of a launch chain

What a write of a register of BAR0 changes: one function's registers or its mailbox, and nothing else (R55 to R58, R339,
R423, R439); and what settles O37.
-/

namespace Sys2Proof.Machine

/-- The step gives a function these registers, and leaves the other functions and every other unit as they are. -/
def SetsFunc (s : State) (f : Nat) (i : Instr) (y : Func) : Prop :=
  Leads s i (fun t => t.func f = y ∧ (∀ h, h ≠ f → t.func h = s.func h) ∧ { t with funcs := s.funcs } = s)

theorem setsFunc_mapFunc {s : State} {f : Nat} {i : Instr} {y : Func} {g : Func → Func}
    (hexec : exec i s = .next (s.mapFunc f g)) (hy : g (s.func f) = y) : SetsFunc s f i y :=
  ⟨_, hexec, by rw [func_mapFunc, hy], fun _ => func_mapFunc_other s g, rfl⟩

theorem setsFunc_self {s : State} {f : Nat} {i : Instr} (hexec : exec i s = .next s) : SetsFunc s f i (s.func f) :=
  ⟨s, hexec, rfl, fun _ _ => rfl, rfl⟩

/-- Two changes of one function in one step. -/
theorem setsFunc_mapFunc_twice {s : State} {f : Nat} {i : Instr} {y : Func} {g k : Func → Func}
    (hexec : exec i s = .next ((s.mapFunc f g).mapFunc f k)) (hy : k (g (s.func f)) = y) : SetsFunc s f i y :=
  ⟨_, hexec, by rw [func_mapFunc, func_mapFunc, hy],
    fun _ hn => by rw [func_mapFunc_other _ _ hn, func_mapFunc_other _ _ hn], rfl⟩

/-- The lsize field of LCCTL is its low five bits (R55). -/
theorem bitsOf_lsize (v : Word) : bitsOf v 0 5 = v.toNat % 32 := bitsOf_zero v 5

section
variable {s : State} {f : Fin 17} {v : BitVec 64}

/-! LCBASE and LCCTL (R55, R56). -/

theorem setsFunc_lcbaseWrite (h : (s.func f.val).en = false) :
    SetsFunc s f.val (.lcbaseWrite f v) { s.func f.val with lcbase := v &&& ~~~0x7E#64 } :=
  setsFunc_mapFunc rfl (if_neg (by simp [h]))

theorem setsFunc_lcbaseWrite_enabled (h : (s.func f.val).en = true) :
    SetsFunc s f.val (.lcbaseWrite f v) (s.func f.val) :=
  setsFunc_mapFunc rfl (if_pos h)

theorem setsFunc_lcctlEnable (hstart : s.boot.started = true) (hbox : ((s.box 0).busy && (s.box 0).code == 3) = false)
    (hv : v.getLsbD 8 = true) (h : (s.func f.val).en = false) :
    SetsFunc s f.val (.lcctlEnable f v) (if 4 ≤ v.toNat % 32 ∧ v.toNat % 32 ≤ 16 then
      { s.func f.val with lcctl := BitVec.ofNat 64 (256 + v.toNat % 32), lchead := 0, lctail := 0, lcseq := 0, lcack := 0,
                          epoch := (s.func f.val).epoch + 1 }
      else { s.func f.val with lcctl := BitVec.ofNat 64 (v.toNat % 32) }) := by
  refine setsFunc_mapFunc (if_pos (by simp only [hstart, hbox, hv]; rfl)) ?_
  rw [if_neg (by simp [h]), bitsOf_lsize]
  by_cases hsize : 4 ≤ v.toNat % 32 ∧ v.toNat % 32 ≤ 16
  · rw [if_pos hsize, if_neg (by omega)]
  · rw [if_neg hsize, if_pos (by omega)]

theorem setsFunc_lcctlDisable (hv : v.getLsbD 8 = false) : SetsFunc s f.val (.lcctlDisable f v)
    { s.func f.val with lcctl := BitVec.ofNat 64 (if (s.func f.val).lcctl.getLsbD 8
        then (s.func f.val).lcctl.toNat % 32 else v.toNat % 32) } := by
  refine setsFunc_mapFunc (if_neg (by rw [hv]; exact Bool.false_ne_true)) ?_
  rw [bitsOf_lsize, bitsOf_lsize]
  rfl

/-! LCTAIL (R57, R58, R339). -/

/-- The number of entries of a chain is a power of two that LCCTL gives (R55). -/
theorem ring_eq (x : Func) : x.ring = 2 ^ (x.lcctl.toNat % 32) := by
  rw [Func.ring, bitsOf_lsize]

/-- The free slots of a chain (R57). -/
def Func.slotsFree (x : Func) : Nat := x.ring - 1 - (x.lctail + x.ring - x.lchead) % x.ring

/-- How many slots a write of LCTAIL moves the tail on (R57). -/
def Func.tailMoves (x : Func) (t : Nat) : Nat := (t + x.ring - x.lctail) % x.ring

/-- Bit 2 of LCSTAT, stopped, stands after flags have been set among which it is (R55). -/
theorem stopped_or (n : Nat) {bits : Nat} (hbits : bits.testBit 2 = true) : ((n ||| bits) / 4 % 2 == 1) = true := by
  have h : (n ||| bits).testBit 2 = true := by rw [Nat.testBit_or, hbits, Bool.or_true]
  rw [Nat.testBit_eq_decide_div_mod_eq] at h
  simpa using h

/-- A bad tail sets badtail and stopped; vector 3 is raised where the chain was not stopped before (R57, R424). -/
theorem setStat_badtail (s : State) (f : Nat) : setStat s f 5 =
    if (s.func f).stopped then s.mapFunc f (fun x => { x with lcstat := x.lcstat ||| 5 })
    else (s.mapFunc f (fun x => { x with lcstat := x.lcstat ||| 5 })).mapFunc f (fun x => x.raise 3) := by
  have hnow : ((s.mapFunc f (fun x => { x with lcstat := x.lcstat ||| 5 })).func f).stopped = true := by
    rw [func_mapFunc]
    exact stopped_or _ rfl
  unfold setStat
  dsimp only
  rw [hnow]
  cases (s.func f).stopped <;> rfl

/-- A write of LCTAIL with nothing of its function before it on the link is done at once (R339). -/
theorem exec_lctailWrite (hfirst : ∀ a ∈ s.links.waiting, a.source ≠ (0, f.val)) :
    exec (.lctailWrite f v) s = .next (writeTail f v s) := by
  have hnone : s.links.waiting.any (fun b => b.source == (Arrival.tail f v).source) = false := by
    simpa [List.any_eq_false, Arrival.source] using hfirst
  show Host.Outcome.next (takeTurn s _ _) = _
  rw [takeTurn, hnone, if_neg Bool.false_ne_true]

/-- It waits behind the function's accesses that precede it (R339). -/
theorem leads_lctailWrite_waits {a : Arrival} (ha : a ∈ s.links.waiting) (hsource : a.source = (0, f.val)) :
    Leads s (.lctailWrite f v) (fun t =>
      t = { s with links := { s.links with waiting := s.links.waiting ++ [.tail f v] } }) := by
  have hany : s.links.waiting.any (fun b => b.source == (Arrival.tail f v).source) = true :=
    List.any_eq_true.2 ⟨a, ha, by rw [hsource]; exact beq_self_eq_true _⟩
  refine ⟨takeTurn s (.tail f v) (writeTail f v), rfl, ?_⟩
  rw [takeTurn, hany, if_pos rfl]

section
variable (hfirst : ∀ a ∈ s.links.waiting, a.source ≠ (0, f.val))
include hfirst

theorem setsFunc_lctailWrite_disabled (h : (s.func f.val).en = false) :
    SetsFunc s f.val (.lctailWrite f v) (s.func f.val) := by
  refine setsFunc_self ((exec_lctailWrite hfirst).trans (congrArg _ ?_))
  exact if_pos (by simp [h])

theorem setsFunc_lctailWrite (h : (s.func f.val).en = true) (hv : v.toNat < (s.func f.val).ring)
    (hroom : (s.func f.val).tailMoves v.toNat ≤ (s.func f.val).slotsFree) : SetsFunc s f.val (.lctailWrite f v)
      { s.func f.val with lctail := v.toNat, tailV := Tbl.at s.weir.sources f.val 0 } := by
  have htail : writeTail f v s = s.mapFunc f.val (fun x =>
      { x with lctail := v.toNat, tailV := Tbl.at s.weir.sources f.val 0 }) :=
    (if_neg (by simp [h])).trans (if_neg (not_or.2 ⟨Nat.not_le.2 hv, Nat.not_lt.2 hroom⟩))
  exact setsFunc_mapFunc ((exec_lctailWrite hfirst).trans (congrArg _ htail)) rfl

theorem setsFunc_lctailWrite_bad (h : (s.func f.val).en = true)
    (hbad : (s.func f.val).ring ≤ v.toNat ∨ (s.func f.val).slotsFree < (s.func f.val).tailMoves v.toNat) :
    SetsFunc s f.val (.lctailWrite f v) (if (s.func f.val).lcstat / 4 % 2 = 1
      then { s.func f.val with lcstat := (s.func f.val).lcstat ||| 5 }
      else Func.raise { s.func f.val with lcstat := (s.func f.val).lcstat ||| 5 } 3) := by
  have htail : writeTail f v s = setStat s f.val 5 := (if_neg (by simp [h])).trans (if_pos hbad)
  have hexec := exec_lctailWrite (v := v) hfirst
  rw [htail, setStat_badtail] at hexec
  by_cases hstopped : (s.func f.val).lcstat / 4 % 2 = 1
  · rw [if_pos (by simpa [Func.stopped] using hstopped)] at hexec
    rw [if_pos hstopped]
    exact setsFunc_mapFunc hexec rfl
  · rw [if_neg (by simpa [Func.stopped] using hstopped)] at hexec
    rw [if_neg hstopped]
    exact setsFunc_mapFunc_twice hexec rfl

end

end

/-! The MSI-X table and the mailbox (R423, R439). -/

/-- Vectors that no mask holds are sent in their order (R423). -/
theorem foldl_raise_unmasked {l : List Nat} {x : Func} (h : ∀ n ∈ l, x.masked n = false) :
    l.foldl Func.raise x = { x with raised := x.raised ++ l } := by
  induction l generalizing x with
  | nil => simp
  | cons n l ih =>
    have hn : x.raise n = { x with raised := x.raised ++ [n] } := if_neg (by simp [h n List.mem_cons_self])
    have hrest : ∀ m ∈ l, (x.raise n).masked m = false := fun m hm => by
      rw [Func.masked, Func.msixWord, raise_msix]
      exact h m (List.mem_cons_of_mem n hm)
    rw [List.foldl_cons, ih hrest, hn, List.append_assoc]
    rfl

/-- A write of the MSI-X table keeps the pending vectors that it leaves masked, and sends the others (R423). -/
theorem writeMsix_eq (x : Func) (k : Nat) (v : Word) :
    let y : Func := { x with msix := Tbl.put x.msix k v }
    x.writeMsix k v = { y with
      pending := x.pending.filter y.masked, raised := x.raised ++ x.pending.filter (fun n => !y.masked n) } := by
  refine foldl_raise_unmasked fun n hn => ?_
  rw [← Bool.not_eq_true']
  exact (List.mem_filter.1 hn).2

section
variable {s : State} {f : Fin 17} {v : BitVec 64} {k : Nat}

theorem exec_registerWrite_msix (hk : k < 8) : exec (.registerWrite f (0x2000 + 8 * k) v) s =
    .next (s.mapFunc f.val (fun x => x.writeMsix k v)) := by
  have hword : (0x2000 + 8 * k - 0x2000) / 8 = k := by omega
  show execRegisterWrite f (0x2000 + 8 * k) v s = _
  unfold execRegisterWrite
  rw [if_neg (by omega), if_neg (by omega), if_neg (by omega), if_pos (by omega), hword]

theorem exec_registerWrite_request (hk : k < 128) : exec (.registerWrite f (0x40 + 8 * k) v) s =
    .next (s.mapBox f.val (fun b => { b with req := Memory.setNum b.req (8 * k) 8 v.toNat })) := by
  have hoff : 0x40 + 8 * k - 0x40 = 8 * k := by omega
  show execRegisterWrite f (0x40 + 8 * k) v s = _
  unfold execRegisterWrite
  rw [if_neg (by omega), if_neg (by omega), if_pos (by omega), hoff]

theorem barRead_msix (hk : k < 8) : barRead s f.val (0x2000 + 8 * k) = (s.func f.val).msixWord k := by
  have hword : (0x2000 + 8 * k - 0x2000) / 8 = k := by omega
  unfold barRead
  dsimp only
  rw [if_neg (by omega), if_neg (by omega), if_neg (by omega), if_pos (by omega), hword]

/-- A step that changes one mailbox leaves the rest of the module. -/
theorem leads_mapBox {i : Instr} {g : Mailbox → Mailbox} (h : exec i s = .next (s.mapBox f.val g)) :
    Leads s i (fun t => { t with boxes := s.boxes } = s ∧ t.box f.val = g (s.box f.val)) :=
  ⟨_, h, rfl, box_mapBox ..⟩

end

/-- Settles O37: each write of a chain's register gives the function the registers that its clause names. -/
theorem chainRegisters : Obligations.ChainRegisters := by
  intro s f v bad fetch k x sets n en free moves
  have hring : x.ring = n := ring_eq x
  have hfree : x.slotsFree = free := by rw [Func.slotsFree, hring]
  have hmoves : x.tailMoves v.toNat = moves := by rw [Func.tailMoves, hring]
  have hoff (h : ¬ en) : x.en = false := Bool.eq_false_iff.2 h
  refine ⟨fun h => setsFunc_lcbaseWrite (hoff h), setsFunc_lcbaseWrite_enabled,
    fun hstart hbox hv h => setsFunc_lcctlEnable hstart hbox hv (hoff h), setsFunc_lcctlDisable, ?tail,
    fun a => leads_lctailWrite_waits, setsFunc_mapFunc rfl rfl, setsFunc_mapFunc rfl rfl, ?msix,
    fun hk => leads_mapBox (exec_registerWrite_request hk), ?reads,
    leads_mapBox (g := fun b => { b with op := v &&& ~~~0xFFFF0000#64 }) rfl⟩
  case tail =>
    intro y hfirst
    refine ⟨fun h => setsFunc_lctailWrite_disabled hfirst (hoff h), fun h hv hroom => ?_, fun h hbad => ?_⟩
    · exact setsFunc_lctailWrite hfirst h (by rwa [hring]) (by rwa [hfree, hmoves])
    · exact setsFunc_lctailWrite_bad hfirst h (by rwa [hring, hfree, hmoves])
  case msix =>
    exact fun hk => setsFunc_mapFunc (exec_registerWrite_msix hk) (writeMsix_eq x k v)
  case reads =>
    exact ⟨rfl, rfl, rfl, rfl, rfl, barRead_msix⟩

end Sys2Proof.Machine

end

section

/-!
# Cores that a launch comes to hold

What a launch makes of the slots of a core that it takes, of the table of holdings and of the tiles' owners (R66, R68, R72).
-/

namespace Sys2Proof.Machine

/-- What one step of a fold brings about and every other keeps, the fold brings about. -/
theorem foldl_of_mem {α β : Type} {P : α → Prop} {f : α → β → α} {x : β} {l : List β} (hx : x ∈ l) (hset : ∀ a, P (f a x))
    (hkeep : ∀ a b, P a → P (f a b)) (a : α) : P (l.foldl f a) := by
  obtain ⟨k, m, rfl⟩ := List.append_of_mem hx
  rw [List.foldl_append, List.foldl_cons]
  exact foldl_inv hkeep m (hset _)

theorem find_del_same {α : Type} (t : Tbl α) (k : Nat) : Tbl.find (Tbl.del t k) k = none := by
  induction t with
  | nil => rfl
  | cons e t ih =>
    by_cases h : e.1 = k
    · simpa [Tbl.del, h] using ih
    · simpa [Tbl.del, Tbl.find, h] using ih

/-! The slots (R72). -/

/-- A slot that is placed stands under its number, be it new to the module or not (R72). -/
theorem thread_placeThread (s : State) (w : Thread) : (s.placeThread w).thread w.tid = some w := by
  unfold State.placeThread
  by_cases h : (s.thread w.tid).isSome
  · rw [if_pos h, thread_setThread h]
  · have hnone : (s.cur :: s.others).find? (fun t => t.tid == w.tid) = none := Option.not_isSome_iff_eq_none.1 h
    rw [if_neg h]
    show ((s.cur :: s.others) ++ [w]).find? (fun t => t.tid == w.tid) = some w
    rw [List.find?_append, hnone, List.find?_singleton, beq_self_eq_true]
    rfl

theorem thread_placeThread_other (s : State) {w : Thread} {tid : Nat} (hne : tid ≠ w.tid) :
    (s.placeThread w).thread tid = s.thread tid := by
  unfold State.placeThread
  split
  · exact thread_setThread_other hne
  · have hw : (w.tid == tid) = false := beq_false_of_ne hne.symm
    show ((s.cur :: s.others) ++ [w]).find? (fun t => t.tid == tid) = _
    rw [List.find?_append, List.find?_singleton, hw, if_neg Bool.false_ne_true, Option.or_none]
    rfl

@[simp] theorem placeThread_work (s : State) (w : Thread) : (s.placeThread w).work = s.work := by
  unfold State.placeThread
  split
  · exact setThread_work s w
  · rfl

/-- The slot of a TID as a launch takes it (R50, R68). -/
def takenSlot (l : Nat) (r : Launch) (s : State) (tid : Nat) : Thread :=
  heldThread l r ((s.thread tid).getD (Thread.fresh tid false))

theorem takenSlot_tid (l : Nat) (r : Launch) (s : State) (tid : Nat) : (takenSlot l r s tid).tid = tid := by
  show ((s.thread tid).getD (Thread.fresh tid false)).tid = tid
  cases h : s.thread tid with
  | none => rfl
  | some t => exact tid_of_thread h

/-- The slot of a TID comes to wait for a launch's work (R66, R72). -/
def holdSlot (l : Nat) (r : Launch) (s : State) (tid : Nat) : State := s.placeThread (takenSlot l r s tid)

/-- A slot waits for a launch's work, in the launch's ASID (R68, R72). -/
def WaitsFor (l : Nat) (r : Launch) (s : State) (tid : Nat) : Prop :=
  BecomesThread s tid (fun u => u.place = .waiting ∧ u.launch = some l ∧ u.asid = r.asid)

theorem waitsFor_congr {l : Nat} {r : Launch} {s t : State} {tid : Nat} (h : t.thread tid = s.thread tid) :
    WaitsFor l r t tid ↔ WaitsFor l r s tid := by
  unfold WaitsFor BecomesThread
  rw [h]

theorem waitsFor_holdSlot (l : Nat) (r : Launch) (s : State) (tid : Nat) : WaitsFor l r (holdSlot l r s tid) tid := by
  have hplaced := thread_placeThread s (takenSlot l r s tid)
  rw [takenSlot_tid] at hplaced
  exact ⟨takenSlot l r s tid, hplaced, rfl, rfl, rfl⟩

theorem waitsFor_holdSlot_of {l : Nat} {r : Launch} {s : State} {n : Nat} (tid : Nat) (h : WaitsFor l r s n) :
    WaitsFor l r (holdSlot l r s tid) n := by
  by_cases hn : n = tid
  · exact hn ▸ waitsFor_holdSlot l r s n
  · exact (waitsFor_congr (thread_placeThread_other s (by rwa [takenSlot_tid]))).2 h

/-! The tiles (R68). -/

/-- A tile has its owner, or is to be zeroed first (R68). -/
def OwnedOrZeroed (asid : Nat) (s : State) (tile : Nat) : Prop :=
  Tbl.find s.work.tileOwner tile = some asid ∨ (Tbl.find s.work.zeroing tile).isSome

theorem ownedOrZeroed_zeroFor (asid : Nat) (s : State) (tile : Nat) : OwnedOrZeroed asid (zeroFor asid s tile) tile := by
  unfold zeroFor
  split
  next h => exact h
  next => exact .inr (by simp [find_put_same])

theorem ownedOrZeroed_zeroFor_of {asid a : Nat} {s : State} {k : Nat} (tile : Nat) (h : OwnedOrZeroed asid s k) :
    OwnedOrZeroed asid (zeroFor a s tile) k := by
  unfold zeroFor
  split
  · exact h
  · refine h.imp_right fun hzero => ?_
    by_cases hk : k = tile
    · simp [hk, find_put_same]
    · rwa [find_put_other _ _ hk]

theorem zeroFor_rest (asid : Nat) (s : State) (tile : Nat) :
    zeroFor asid s tile = { s with work := { s.work with zeroing := (zeroFor asid s tile).work.zeroing } } := by
  unfold zeroFor; split <;> rfl

theorem zeroFor_holds (asid : Nat) (s : State) (tile : Nat) : (zeroFor asid s tile).work.holds = s.work.holds := by
  rw [zeroFor_rest]

theorem zeroFor_tileOwner (asid : Nat) (s : State) (tile : Nat) :
    (zeroFor asid s tile).work.tileOwner = s.work.tileOwner := by
  rw [zeroFor_rest]

theorem zeroFor_thread (asid : Nat) (s : State) (tile n : Nat) : (zeroFor asid s tile).thread n = s.thread n := by
  rw [zeroFor_rest]
  rfl

/-! The cores (R66). -/

theorem holdCore_eq (l : Nat) (r : Launch) (s : State) (core : Nat) :
    holdCore l r s core =
      let u := (coreSlotsOf core r.paired).foldl (holdSlot l r) (zeroFor r.asid s (coreTile core))
      { u with work := { u.work with holds := Tbl.put u.work.holds core l } } := rfl

/-- A core that is taken stands in the table of holdings, and its tile may be one that is to be zeroed (R66, R68). -/
theorem holdCore_work (l : Nat) (r : Launch) (s : State) (core : Nat) :
    (holdCore l r s core).work = { (zeroFor r.asid s (coreTile core)).work with holds := Tbl.put s.work.holds core l } := by
  have hslots (u : State) : ((coreSlotsOf core r.paired).foldl (holdSlot l r) u).work = u.work :=
    foldl_keeps State.work (fun _ _ => placeThread_work ..) _ _
  rw [holdCore_eq]
  dsimp only
  rw [hslots, zeroFor_holds]

theorem holdCore_holds (l : Nat) (r : Launch) (s : State) (core : Nat) :
    (holdCore l r s core).work.holds = Tbl.put s.work.holds core l := by
  rw [holdCore_work]

theorem holdCore_tileOwner (l : Nat) (r : Launch) (s : State) (core : Nat) :
    (holdCore l r s core).work.tileOwner = s.work.tileOwner := by
  rw [holdCore_work]
  exact zeroFor_tileOwner ..

theorem find_holdCore_of {l : Nat} {r : Launch} {s : State} {k : Nat} (core : Nat)
    (h : Tbl.find s.work.holds k = some l) : Tbl.find (holdCore l r s core).work.holds k = some l := by
  rw [holdCore_holds]
  by_cases hk : k = core
  · rw [hk, find_put_same]
  · rw [find_put_other _ _ hk, h]

theorem ownedOrZeroed_holdCore (l : Nat) (r : Launch) (s : State) (core : Nat) :
    OwnedOrZeroed r.asid (holdCore l r s core) (coreTile core) := by
  unfold OwnedOrZeroed
  rw [holdCore_work]
  exact ownedOrZeroed_zeroFor r.asid s (coreTile core)

/-- The slots of a core that is taken are those of the fold over them. -/
theorem holdCore_thread (l : Nat) (r : Launch) (s : State) (core n : Nat) : (holdCore l r s core).thread n =
    ((coreSlotsOf core r.paired).foldl (holdSlot l r) (zeroFor r.asid s (coreTile core))).thread n := rfl

theorem waitsFor_holdCore {l : Nat} {r : Launch} {s : State} {core n : Nat} (hn : n ∈ coreSlotsOf core r.paired) :
    WaitsFor l r (holdCore l r s core) n :=
  (waitsFor_congr (holdCore_thread ..)).2 <|
    foldl_of_mem (P := (WaitsFor l r · n)) hn (waitsFor_holdSlot l r · n) (fun _ tid => waitsFor_holdSlot_of tid) _

theorem waitsFor_holdCore_of {l : Nat} {r : Launch} {s : State} {n : Nat} (core : Nat) (h : WaitsFor l r s n) :
    WaitsFor l r (holdCore l r s core) n :=
  (waitsFor_congr (holdCore_thread ..)).2 <|
    foldl_inv (P := (WaitsFor l r · n)) (fun _ tid => waitsFor_holdSlot_of tid) _
      ((waitsFor_congr (zeroFor_thread ..)).2 h)

/-! The clusters (R66). -/

/-- The cores of a cluster that a launch takes whole: the big one where one of its levels uses it (R66). -/
def takenCores (r : Launch) (c : Nat) : List Nat := (clusterCores c).filter (fun k => k < 8192 || r.usesBig)

theorem little_mem_takenCores (r : Launch) {c k : Nat} (hc : c < 64) (hk : k < 128) : 128 * c + k ∈ takenCores r c := by
  refine List.mem_filter.2 ⟨List.mem_append_left _ (List.mem_map.2 ⟨k, List.mem_range.2 hk, rfl⟩), ?_⟩
  rw [decide_eq_true (by omega), Bool.true_or]

theorem big_mem_takenCores {r : Launch} (c : Nat) (h : r.usesBig = true) : 8192 + c ∈ takenCores r c := by
  refine List.mem_filter.2 ⟨List.mem_append_right _ List.mem_cons_self, ?_⟩
  rw [h, Bool.or_true]

theorem holdCluster_eq (l : Nat) (r : Launch) (s : State) (c : Nat) : holdCluster l r s c =
    (clusterTiles c).foldl (zeroFor r.asid) ((takenCores r c).foldl (holdCore l r) s) := rfl

theorem foldl_zeroFor_holds (asid : Nat) (ts : List Nat) (s : State) :
    (ts.foldl (zeroFor asid) s).work.holds = s.work.holds :=
  foldl_keeps (fun s : State => s.work.holds) (zeroFor_holds asid) ts s

theorem foldl_zeroFor_tileOwner (asid : Nat) (ts : List Nat) (s : State) :
    (ts.foldl (zeroFor asid) s).work.tileOwner = s.work.tileOwner :=
  foldl_keeps (fun s : State => s.work.tileOwner) (zeroFor_tileOwner asid) ts s

theorem foldl_holdCore_tileOwner (l : Nat) (r : Launch) (ks : List Nat) (s : State) :
    (ks.foldl (holdCore l r) s).work.tileOwner = s.work.tileOwner :=
  foldl_keeps (fun s : State => s.work.tileOwner) (holdCore_tileOwner l r) ks s

theorem holdCluster_holds (l : Nat) (r : Launch) (s : State) (c : Nat) :
    (holdCluster l r s c).work.holds = ((takenCores r c).foldl (holdCore l r) s).work.holds := by
  rw [holdCluster_eq, foldl_zeroFor_holds]

theorem holdCluster_thread (l : Nat) (r : Launch) (s : State) (c n : Nat) :
    (holdCluster l r s c).thread n = ((takenCores r c).foldl (holdCore l r) s).thread n :=
  foldl_keeps (fun s : State => s.thread n) (zeroFor_thread r.asid · · n) _ _

theorem find_holdCluster {l : Nat} {r : Launch} {s : State} {c k : Nat} (hk : k ∈ takenCores r c) :
    Tbl.find (holdCluster l r s c).work.holds k = some l := by
  rw [holdCluster_holds]
  exact foldl_of_mem (P := fun u : State => Tbl.find u.work.holds k = some l) hk
    (fun u => by rw [holdCore_holds, find_put_same]) (fun _ core => find_holdCore_of core) s

theorem waitsFor_holdCluster {l : Nat} {r : Launch} {s : State} {c k n : Nat} (hk : k ∈ takenCores r c)
    (hn : n ∈ coreSlotsOf k r.paired) : WaitsFor l r (holdCluster l r s c) n :=
  (waitsFor_congr (holdCluster_thread ..)).2 <|
    foldl_of_mem (P := (WaitsFor l r · n)) hk (fun _ => waitsFor_holdCore hn) (fun _ core => waitsFor_holdCore_of core) s

theorem ownedOrZeroed_holdCluster (l : Nat) (r : Launch) (s : State) {c tile : Nat} (h : tile ∈ clusterTiles c) :
    OwnedOrZeroed r.asid (holdCluster l r s c) tile :=
  foldl_of_mem (P := (OwnedOrZeroed r.asid · tile)) h (ownedOrZeroed_zeroFor r.asid · tile)
    (fun _ k => ownedOrZeroed_zeroFor_of k) _

theorem holdCluster_tileOwner (l : Nat) (r : Launch) (s : State) (c : Nat) :
    (holdCluster l r s c).work.tileOwner = s.work.tileOwner := by
  rw [holdCluster_eq, foldl_zeroFor_tileOwner, foldl_holdCore_tileOwner]

/-- A tile that is owned or to be zeroed, and that had another owner, is to be zeroed (R68). -/
theorem isSome_zeroing {asid : Nat} {s t : State} {tile : Nat} (h : OwnedOrZeroed asid t tile)
    (howner : t.work.tileOwner = s.work.tileOwner) (hother : Tbl.find s.work.tileOwner tile ≠ some asid) :
    (Tbl.find t.work.zeroing tile).isSome :=
  h.resolve_left (by rwa [howner])

/-! The take (R66). -/

section
variable {s : State} {l : Nat} {r : Launch} (hl : s.launchAt l = some r) (hrun : cpRuns s = true)
  (hopen : r.complete = false) (hended : r.ended = false) (hfirst : outranked s l r = false)
include hl hrun hopen hended hfirst

theorem exec_coreTake_noclu (hnoclu : r.noclu = true) {d : Nat × Nat} {k : Nat} (hd : demandOf s l r = some d)
    (hk : nearestCore s l r d.1 d.2 = some k) : exec (.coreTake l) s = .next (holdCore l r s k) := by
  simp only [exec, execCoreTake, hl, hrun, hopen, hended, hfirst, hnoclu, hd, hk, Bool.not_true, Bool.or_self,
    Bool.false_eq_true, if_false, if_true, Option.bind_some]

theorem exec_coreTake_cluster (hwhole : r.noclu = false) (hdemand : coresOf s l = [] ∨ (demandOf s l r).isSome = true)
    {c : Nat} (hc : (wholeClusters s r.fn).find? (clusterFree s) = some c) :
    exec (.coreTake l) s = .next (holdCluster l r s c) := by
  have hasks : (!(coresOf s l).isEmpty && (demandOf s l r).isNone) = false := by
    rcases hdemand with h | h
    · simp [h]
    · simp [Option.isNone_eq_false_iff.2 h]
  simp only [exec, execCoreTake, hl, hrun, hopen, hended, hfirst, hwhole, hasks, hc, Bool.not_true, Bool.or_self,
    Bool.false_eq_true, if_false]

theorem leads_coreTake_noclu (hnoclu : r.noclu = true) {d : Nat × Nat} {k : Nat} (hd : demandOf s l r = some d)
    (hk : nearestCore s l r d.1 d.2 = some k) : Leads s (.coreTake l) (fun t =>
      Tbl.find t.work.holds k = some l ∧ (∀ n ∈ coreSlotsOf k r.paired, WaitsFor l r t n) ∧
      (Tbl.find s.work.tileOwner (coreTile k) ≠ some r.asid → (Tbl.find t.work.zeroing (coreTile k)).isSome) ∧
      (∀ c, c ≠ k → Tbl.find t.work.holds c = Tbl.find s.work.holds c) ∧ t.mem = s.mem) := by
  refine ⟨_, exec_coreTake_noclu hl hrun hopen hended hfirst hnoclu hd hk, ?_, fun n => waitsFor_holdCore,
    isSome_zeroing (ownedOrZeroed_holdCore ..) (holdCore_tileOwner ..), fun c hc => ?_, holdCore_mem ..⟩
  · rw [holdCore_holds, find_put_same]
  · rw [holdCore_holds, find_put_other _ _ hc]

theorem leads_coreTake_cluster (hwhole : r.noclu = false)
    (hdemand : coresOf s l = [] ∨ (demandOf s l r).isSome = true)
    {c : Nat} (hc : (wholeClusters s r.fn).find? (clusterFree s) = some c) : Leads s (.coreTake l) (fun t =>
      (∀ k < 128, Tbl.find t.work.holds (128 * c + k) = some l ∧
        ∀ n ∈ coreSlotsOf (128 * c + k) r.paired, WaitsFor l r t n) ∧
      (r.usesBig = true → Tbl.find t.work.holds (8192 + c) = some l) ∧
      (∀ k ∈ clusterTiles c, Tbl.find s.work.tileOwner k ≠ some r.asid → (Tbl.find t.work.zeroing k).isSome) ∧
      t.mem = s.mem) := by
  have hpresent : c ∈ presentClusters s := by
    have hmem := List.mem_of_find?_eq_some hc
    unfold wholeClusters at hmem
    split at hmem
    · exact absurd hmem List.not_mem_nil
    · exact (List.mem_filter.1 hmem).1
  have hlt : c < 64 := List.mem_range.1 (List.mem_filter.1 hpresent).1
  refine ⟨_, exec_coreTake_cluster hl hrun hopen hended hfirst hwhole hdemand hc, fun k hk => ?_,
    fun hbig => find_holdCluster (big_mem_takenCores c hbig),
    fun k hk => isSome_zeroing (ownedOrZeroed_holdCluster l r s hk) (holdCluster_tileOwner ..), holdCluster_mem ..⟩
  have htaken := little_mem_takenCores r hlt hk
  exact ⟨find_holdCluster htaken, fun n => waitsFor_holdCluster htaken⟩

end

end Sys2Proof.Machine

end

section

/-!
# Cores that are given back, and tiles that are zeroed

What the release of a core and the end of a tile's zeroing leave (R66, R68); and what settles O39.
-/

namespace Sys2Proof.Machine

theorem releaseCore_launch {s : State} {core : Nat} {u : Thread} (hu : u ∈ (releaseCore s core).threads)
    (hcore : coreOf u.tid = core) : u.launch = none := by
  obtain ⟨v, -, rfl⟩ : ∃ v ∈ s.threads,
      (if coreOf v.tid = core ∧ v.launch.isSome then { v.toWaiting with place := .notHeld, launch := none } else v) = u :=
    List.mem_map.1 hu
  split
  · rfl
  next hkept =>
    rw [if_neg hkept] at hcore
    exact Option.not_isSome_iff_eq_none.1 fun hsome => hkept ⟨hcore, hsome⟩

/-- A core whose slots all wait in WAITW is given back (R66). -/
theorem leads_nocluCoreRelease {s : State} {core : Nat} (h : coreIdle s core = true) :
    Leads s (.nocluCoreRelease core) (fun t => Tbl.find t.work.holds core = none ∧
      (∀ u ∈ t.threads, coreOf u.tid = core → u.launch = none) ∧ t.mem = s.mem) :=
  ⟨_, if_pos h, find_del_same .., fun _ => releaseCore_launch, rfl⟩

/-- A byte whose cells are all taken away reads 0. -/
theorem get_filter_gone {m : Memory} {f : Host.Cell → Bool} {a : Nat} (h : ∀ x, f (a, x) = false) :
    Memory.get (m.filter f) a = 0 := by
  induction m with
  | nil => rfl
  | cons e m ih =>
    obtain ⟨k, x⟩ := e
    rw [List.filter_cons]
    split
    next hkept =>
      rw [Memory.get, if_neg fun hk => by rw [hk, h] at hkept; exact Bool.false_ne_true hkept, ih]
    next => exact ih

/-- A byte whose cells all stay reads as before. -/
theorem get_filter_kept {m : Memory} {f : Host.Cell → Bool} {a : Nat} (h : ∀ x, f (a, x) = true) :
    Memory.get (m.filter f) a = Memory.get m a := by
  induction m with
  | nil => rfl
  | cons e m ih =>
    obtain ⟨k, x⟩ := e
    rw [List.filter_cons, Memory.get]
    split
    · rw [Memory.get, ih]
    next hgone => rw [if_neg fun hk => hgone (by rw [hk]; exact h x), ih]

/-- The state with the arrays of a tile and the registers of its free slots zero (R68). -/
def State.tileZeroed (s : State) (tile : Nat) : State := zeroSlots tile (zeroArrays s tile)

theorem tileZeroed_mem (s : State) (tile : Nat) : (s.tileZeroed tile).mem =
    s.mem.filter (fun c => c.1 < (tileKeys tile).1 || (tileKeys tile).2 ≤ c.1) := rfl

/-- A slot of a tile that is zeroed: a free one of a user has its registers zero (R68). -/
def zeroSlot (tile : Nat) (t : Thread) : Thread :=
  if tileOf t.tid = tile ∧ !t.super ∧ t.place = .notHeld then
    { Thread.fresh t.tid false with slots := t.slots, lastV := t.lastV, lastOrder := t.lastOrder }
  else t

theorem tileZeroed_threads (s : State) (tile : Nat) : (s.tileZeroed tile).threads = s.threads.map (zeroSlot tile) := rfl

theorem tileZeroed_arrays (s : State) {tile a : Nat} (hlow : (tileKeys tile).1 ≤ a) (hhigh : a < (tileKeys tile).2) :
    Memory.get (s.tileZeroed tile).mem a = 0 := by
  rw [tileZeroed_mem]
  exact get_filter_gone fun _ => by simp [hlow, hhigh]

theorem tileZeroed_elsewhere (s : State) {tile a : Nat} (h : a < (tileKeys tile).1 ∨ (tileKeys tile).2 ≤ a) :
    Memory.get (s.tileZeroed tile).mem a = Memory.get s.mem a := by
  rw [tileZeroed_mem]
  exact get_filter_kept fun _ => by simpa using h

theorem mem_threads_tileZeroed {s : State} {tile : Nat} {u : Thread} (hu : u ∈ s.threads)
    (h : tileOf u.tid ≠ tile ∨ u.super = true ∨ u.place ≠ .notHeld) : u ∈ (s.tileZeroed tile).threads := by
  rw [tileZeroed_threads]
  refine List.mem_map.2 ⟨u, hu, if_neg ?_⟩
  rintro ⟨htile, huser, hfree⟩
  rcases h with h | h | h
  · exact h htile
  · simp [h] at huser
  · exact h hfree

theorem tileZeroed_slots {s : State} {tile : Nat} {u : Thread} (hu : u ∈ (s.tileZeroed tile).threads)
    (htile : tileOf u.tid = tile) (huser : u.super = false) (hfree : u.place = .notHeld) : u.r = Regs.reset := by
  rw [tileZeroed_threads] at hu
  obtain ⟨v, -, rfl⟩ := List.mem_map.1 hu
  unfold zeroSlot at *
  split
  · rfl
  next hkept =>
    rw [if_neg hkept] at htile huser hfree
    exact absurd ⟨htile, by simp [huser], hfree⟩ hkept

/-- A zeroing whose cycles have passed is done, and the tile has the owner for which it was zeroed (R68). -/
theorem exec_zeroingComplete {s : State} {tile due : Nat} (h : Tbl.find s.work.zeroing tile = some due)
    (hdue : due ≤ s.cycle) : ∃ w : Work, exec (.zeroingComplete tile) s = .next { s.tileZeroed tile with work := w } ∧
      w.zeroing = Tbl.del s.work.zeroing tile ∧
      ∀ L, zeroedFor s tile = some L → Tbl.find w.tileOwner tile = some L.asid := by
  have hpast : ¬ s.cycle < Tbl.at s.work.zeroing tile (s.cycle + 1) := by
    rw [Tbl.at, h]
    exact Nat.not_lt.2 hdue
  have hfor : zeroedFor (zeroSlots tile (zeroArrays s tile)) tile = zeroedFor s tile := rfl
  have hexec : exec (.zeroingComplete tile) s = execZeroingComplete tile s := rfl
  unfold execZeroingComplete at hexec
  rw [if_neg hpast] at hexec
  dsimp only at hexec
  rw [hfor] at hexec
  cases hL : zeroedFor s tile with
  | none =>
    rw [hL] at hexec
    exact ⟨_, hexec, rfl, fun L h => nomatch h⟩
  | some L =>
    rw [hL] at hexec
    refine ⟨_, hexec, rfl, fun M hM => ?_⟩
    rw [find_put_same, Option.some.inj hM]

/-- Settles O39: a launch takes a core or a cluster, a core is given back, and a tile is zeroed as their clauses say. -/
theorem cores : Obligations.Cores := by
  intro s l core tile r waits zeroed
  refine ⟨fun hl hrun hopen hended hfirst => ⟨fun hnoclu d k => ?core, fun hwhole hdemand c => ?cluster⟩,
    leads_nocluCoreRelease, fun due hfind hdue => ?zeroing⟩
  case core => exact leads_coreTake_noclu hl hrun hopen hended hfirst hnoclu
  case cluster => exact leads_coreTake_cluster hl hrun hopen hended hfirst hwhole hdemand
  case zeroing =>
    obtain ⟨w, hexec, hzeroing, howner⟩ := exec_zeroingComplete hfind hdue
    refine ⟨_, hexec, ?_, fun _ => tileZeroed_arrays s, fun _ => tileZeroed_elsewhere s, howner,
      fun _ => mem_threads_tileZeroed, fun _ => tileZeroed_slots⟩
    show Tbl.find w.zeroing tile = none
    rw [hzeroing, find_del_same]

end Sys2Proof.Machine

end

section

/-!
# Points of mapping commands

What a mapping command's point leaves of the mailboxes, of memory and of the mapping state, and what it writes (R280, R281,
R331, R337).
-/

namespace Sys2Proof.Machine

/-- What the homes refuse of a chunk leaves the mailboxes. -/
@[simp] theorem refuseFin_boxes (s : State) (tid : Nat) (c : Chunk) : (refuseFin s tid c).boxes = s.boxes := by
  unfold refuseFin; split <;> simp

@[simp] theorem refuseReds_boxes (lines : List Line) (s : State) (tid : Nat) :
    (refuseReds lines s tid).boxes = s.boxes := by
  have hfins (cs : List Chunk) (u : State) : (cs.foldl (fun s c => refuseFin s tid c) u).boxes = u.boxes :=
    foldl_keeps State.boxes (refuseFin_boxes · tid ·) cs u
  unfold refuseReds
  dsimp only
  (repeat' split) <;> simp [hfins]

/-- A point that covers no line leaves the mapping state. -/
theorem agentPoint_maps (s : State) (g b : Nat) (ns : List Nat) (a : Nat) (cs : List Host.Cell) :
    (agentPoint s g b ns a cs []).1.maps = s.maps := by
  have hnodes (v : Nat) (u : State) : (ns.foldl (fun s k => s.setNode k { s.node k with v := v }) u).maps = u.maps :=
    foldl_keeps State.maps (f := fun s k => s.setNode k { s.node k with v := v }) (fun _ _ => rfl) ns u
  have hcount (u : State) : (countPoint u ns).maps = u.maps :=
    foldl_keeps State.maps (f := fun s d => s.bump d 0 1) (fun _ _ => rfl) _ u
  unfold agentPoint
  dsimp only
  rw [List.isEmpty_nil, if_pos rfl, hcount]
  exact hnodes _ _

/-! The leaf that MAP writes (R274, R280). -/

/-- A node that stands is gone on with. -/
theorem nextNode_valid {s : State} {entry : Nat} (h : Memory.num s.mem entry 8 % 2 = 1) :
    nextNode s entry = (s, Memory.num s.mem entry 8 / 2 ^ 24 * 65536) := by
  unfold nextNode
  dsimp only
  rw [if_pos h]

/-- A node that is missing is a zeroed frame of the device's choice (R280). -/
theorem nextNode_missing {s : State} {entry : Nat} (h : ¬ Memory.num s.mem entry 8 % 2 = 1) :
    nextNode s entry =
      let frame := Config.freeNat s.free % 2 ^ 18
      ({ s with free := s.free + 1
                mem := Memory.setNum (s.mem.filter (fun c => c.1 < frame * 65536 || frame * 65536 + 65536 ≤ c.1)) entry 8
                  (frame * 2 ^ 24 + 1) }, frame * 65536) := by
  unfold nextNode
  dsimp only
  rw [if_neg h]

/-- The walk to a node draws a frame and writes memory, and nothing else. -/
theorem nextNode_rest (s : State) (entry : Nat) :
    (nextNode s entry).1 = { s with free := (nextNode s entry).1.free, mem := (nextNode s entry).1.mem } := by
  by_cases h : Memory.num s.mem entry 8 % 2 = 1
  · rw [nextNode_valid h]
  · rw [nextNode_missing h]

theorem writeLeaf_rest (s : State) (asid va leaf : Nat) (big : Bool) : writeLeaf s asid va leaf big =
    { s with free := (writeLeaf s asid va leaf big).free, mem := (writeLeaf s asid va leaf big).mem } := by
  unfold writeLeaf
  dsimp only
  cases big
  · rw [if_neg Bool.false_ne_true, nextNode_rest, nextNode_rest s]
  · rw [if_pos rfl, nextNode_rest s]

/-! What a doorbell's acceptance does not touch: memory and the tables in it (R440). -/

theorem takes_mem (s : State) (u code : Nat) : (s.takes u code).mem = s.mem := rfl

theorem rootOf_takes (s : State) (u code asid : Nat) : rootOf (s.takes u code) asid = rootOf s asid := rfl

theorem covered_takes (s : State) (u code asid va : Nat) (big : Bool) :
    covered (s.takes u code) asid va big = covered s asid va big := by
  rw [covered, covered, takes_mem, rootOf_takes]

theorem leafEntry_takes (s : State) (u code asid va : Nat) :
    leafEntry (s.takes u code) asid va = leafEntry s asid va := by
  rw [leafEntry, leafEntry, takes_mem, rootOf_takes]

theorem mappedBig_takes (s : State) (u code asid va : Nat) :
    mappedBig (s.takes u code) asid va = mappedBig s asid va := by
  rw [mappedBig, mappedBig, takes_mem, rootOf_takes]

theorem nextNode_takes (s : State) (u code entry : Nat) :
    nextNode (s.takes u code) entry = ((nextNode s entry).1.takes u code, (nextNode s entry).2) := by
  by_cases h : Memory.num s.mem entry 8 % 2 = 1
  · rw [nextNode_valid h, nextNode_valid (s := s.takes u code) h]
    rfl
  · rw [nextNode_missing h, nextNode_missing (s := s.takes u code) h]
    rfl

theorem writeLeaf_takes (s : State) (u code asid va leaf : Nat) (big : Bool) :
    writeLeaf (s.takes u code) asid va leaf big = (writeLeaf s asid va leaf big).takes u code := by
  unfold writeLeaf
  dsimp only
  rw [rootOf_takes, nextNode_takes]
  cases big
  · rw [if_neg Bool.false_ne_true, if_neg Bool.false_ne_true, nextNode_takes]
    generalize nextNode (nextNode s _).1 _ = p
    rfl
  · rw [if_pos rfl, if_pos rfl]
    generalize nextNode s _ = p
    rfl

theorem mapPoint_mem (s : State) (u asid va leaf : Nat) (big : Bool) :
    (mapPoint s u asid va leaf big).mem = (writeLeaf s asid va leaf big).mem := agentPoint_mem ..

theorem mapPoint_boxes (s : State) (u asid va leaf : Nat) (big : Bool) :
    (mapPoint s u asid va leaf big).boxes = s.boxes := by
  refine (agentPoint_boxes ..).trans ?_
  rw [writeLeaf_rest]

theorem mapPoint_maps (s : State) (u asid va leaf : Nat) (big : Bool) :
    (mapPoint s u asid va leaf big).maps = s.maps := by
  refine (agentPoint_maps ..).trans ?_
  rw [writeLeaf_rest]

end Sys2Proof.Machine

end

section

/-!
# ASIDs and MAP

The commands that create and retire an address space, the quota, and MAP with its zero fill (R64, R65, R280, R281).
-/

namespace Sys2Proof.Machine

/-- The command that a mailbox has taken (R440). -/
def State.order (s : State) (u : Nat) : Bool × Nat := ((s.box u).busy, (s.box u).code)

@[simp] theorem order_takes (s : State) (u code : Nat) : (s.takes u code).order u = (true, code) :=
  Prod.ext (box_takes s u code).1 (box_takes s u code).2

/-- An outcome does not change which commands mailboxes have taken. -/
theorem order_reply (s : State) (v st : Nat) (bs : List Byte) (u : Nat) : (s.reply v st bs).order u = s.order u := by
  by_cases h : u = v
  · rw [h, State.order, State.reply, box_mapBox]
    rfl
  · rw [State.order, State.reply, box_mapBox_other _ _ h]
    rfl

/-- A command that leaves its mailbox with the command, and ends in a reply, has replied. -/
theorem replies_of_order {s v : State} {i : Instr} {u : Fin 21} {code st : Nat} {bs : List Byte} {P : State → Prop}
    (hx : exec i s = .next (v.reply u.val st bs)) (hv : v.order u.val = (true, code)) (hp : P (v.reply u.val st bs)) :
    Replies s i u code st bs P := by
  have hreply := (order_reply v u.val st bs u.val).trans hv
  refine ⟨_, hx, congrArg Prod.fst hreply, congrArg Prod.snd hreply, ?_, hp⟩
  rw [State.reply, box_mapBox]

section
variable {s : State} {u : Fin 21} {asid : Fin 1024}

/-! Creation, retirement and quota (R64, R65). -/

theorem replies_ascreate {root : Word} {place : Bool} {f : Fin 17} (h : Accepts s u 0x11) (hu : u.val = f.val)
    (hasid : asid ≠ 0) (hfree : Tbl.find s.work.asids asid.val = none) (halign : root.toNat % 65536 = 0)
    (hback : deviceBacked root.toNat = true) (hquota : asidsOf s u.val < (s.func u.val).quota) :
    Replies s (.ascreate u asid root place f) u 0x11 0 [] (fun t => t.mem = s.mem ∧
      Tbl.find t.work.asids asid.val = some { root := root.toNat, directed := place, owner := u.val }) := by
  refine replies_submit { s.takes u.val 0x11 with work := { s.work with
      asids := Tbl.put s.work.asids asid.val { root := root.toNat, directed := place, owner := u.val }
      retiredAsids := s.work.retiredAsids.filter (fun a => a != asid.val) } } (execAscreate u asid root place f s)
    h rfl rfl (by simp [hu]) (if_neg ?_) rfl ⟨rfl, find_put_same ..⟩
  rintro (h0 | hlive | hroot | hback' | hfull)
  · exact hasid h0
  · have hlive' : (Tbl.find s.work.asids asid.val).isSome = true := hlive
    simp [hfree] at hlive'
  · exact hroot halign
  · simp [hback] at hback'
  · exact Nat.not_le.2 hquota hfull

theorem refuseMaps_order (s : State) (asid u : Nat) : (refuseMaps s asid).order u = s.order u :=
  foldl_keeps (State.order · u) (f := fun s u => (releaseNodes s (agentId 3 u) false).reply u 1 [])
    (fun _ _ => order_reply ..) _ _

theorem replies_asretire (h : Accepts s u 0x12) (hown : ownsAsid s u asid.val = true) (hasid : asid ≠ 0)
    (hidle : s.work.launches.any (fun l => l.asid == asid.val && !l.complete) = false) :
    Replies s (.asretire u asid) u 0x12 0 [] (fun t => t.mem = s.mem ∧ Tbl.find t.work.asids asid.val = none ∧
      (∀ e ∈ t.maps.frameOwner, e.2 ≠ asid.val) ∧ ∀ e ∈ t.work.tileOwner, e.2 ≠ asid.val) := by
  have hexec : exec (.asretire u asid) s = .next ((retireAsid (s.takes u.val 0x12) asid.val).reply u.val 0 []) := by
    show execAsretire u asid s = _
    rw [execAsretire, hown, submit_of_accepts h]
    refine congrArg _ (if_neg ?_)
    rintro (h0 | hbusy)
    · exact hasid h0
    · exact Bool.false_ne_true (hidle.symm.trans hbusy)
  refine replies_of_order hexec ((refuseMaps_order ..).trans (order_takes ..))
    ⟨retireAsid_mem .., ?_, fun e he => ?_, fun e he => ?_⟩
  · show Tbl.find (Tbl.del (refuseMaps (s.takes u.val 0x12) asid.val).work.asids asid.val) asid.val = none
    exact find_del_same ..
  · exact bne_iff_ne.1 (List.mem_filter.1 he).2
  · exact bne_iff_ne.1 (List.mem_filter.1 he).2

theorem replies_quota {f : Fin 17} (h : Accepts s 0 0x13) (n : Nat) : Replies s (.quota 0 f n) 0 0x13 0 []
    (fun t => t.mem = s.mem ∧ t.func f.val = { s.func f.val with quota := n }) :=
  replies_submit ((s.takes 0 0x13).mapFunc f.val (fun x => { x with quota := n })) (execQuota 0 f n s)
    h rfl rfl rfl rfl rfl ⟨rfl, by rw [func_reply, func_mapFunc]; rfl⟩

/-! MAP (R280, R281, R337). -/

variable {va leaf : Word} {big : Bool}

/-- Whether a MAP takes its point at once: no frame needs its zero fill, no other MAP waits, and its nodes are free. -/
def mapsNow (s : State) (u asid va leaf : Nat) (big : Bool) : Bool :=
  (framesToFill s asid leaf big).isEmpty && s.maps.fills.isEmpty && agentFree s (agentId 3 u) (pageHomes s asid va big)

theorem mapsNow_takes (s : State) (u code asid va leaf : Nat) (big : Bool) :
    mapsNow (s.takes u code) u asid va leaf big = mapsNow s u asid va leaf big := by
  have hframes : framesToFill (s.takes u code) asid leaf big = framesToFill s asid leaf big := rfl
  have hhomes : pageHomes (s.takes u code) asid va big = pageHomes s asid va big := rfl
  rw [mapsNow, mapsNow, hframes, hhomes]
  rfl

theorem mapsNow_iff (s : State) (u asid va leaf : Nat) (big : Bool) : mapsNow s u asid va leaf big = true ↔
    framesToFill s asid leaf big = [] ∧ s.maps.fills = [] ∧
      agentFree s (agentId 3 u) (pageHomes s asid va big) = true := by
  rw [mapsNow, Bool.and_eq_true, Bool.and_eq_true, List.isEmpty_iff, List.isEmpty_iff, and_assoc]

section
variable (h : Accepts s u 0x20) (hown : ownsAsid s u asid.val = true) (hleaf : badLeaf leaf.toNat va.toNat big = false)
  (hnew : covered s asid.val va.toNat big = false) (hsize : sizeClash s asid.val va.toNat big = false)
  (hshare : mayShare s u.val asid.val leaf.toNat big = true)
include h hown hleaf hnew hsize hshare

/-- A MAP that passes its checks takes its point at once, or waits for its turn (R280, R281, R337). -/
theorem exec_map : exec (.map u asid va leaf big) s = .next (
    if mapsNow s u.val asid.val va.toNat leaf.toNat big then
      (mapPoint (s.takes u.val 0x20) u.val asid.val va.toNat leaf.toNat big).reply u.val 0 []
    else { s.takes u.val 0x20 with
      maps := { s.maps with fills := s.maps.fills ++ [(u.val, asid.val, va, leaf, big)] } }) := by
  have hsize' : sizeClash (s.takes u.val 0x20) asid.val va.toNat big = false := hsize
  have hshare' : mayShare (s.takes u.val 0x20) u.val asid.val leaf.toNat big = true := hshare
  show execMap u asid va leaf big s = _
  rw [execMap, hown, submit_of_accepts h]
  dsimp only
  rw [hleaf, covered_takes, hnew, hsize', hshare', if_neg (by decide), ← mapsNow_takes s u.val 0x20]
  rfl

theorem replies_map (hnow : mapsNow s u.val asid.val va.toNat leaf.toNat big = true) :
    Replies s (.map u asid va leaf big) u 0x20 0 [] (fun t =>
      t.mem = (writeLeaf s asid.val va.toNat leaf.toNat big).mem) := by
  have hexec := exec_map h hown hleaf hnew hsize hshare
  rw [hnow, if_pos rfl] at hexec
  refine replies_of hexec (mapPoint_boxes ..) ?_
  rw [reply_mem, mapPoint_mem, writeLeaf_takes, takes_mem]

theorem leads_map_waits (hnow : mapsNow s u.val asid.val va.toNat leaf.toNat big = false) :
    Leads s (.map u asid va leaf big) (fun t => t.mem = s.mem ∧
      t.maps.fills = s.maps.fills ++ [(u.val, asid.val, va, leaf, big)] ∧ (t.box u.val).result = none) := by
  have hexec := exec_map h hown hleaf hnew hsize hshare
  rw [hnow, if_neg Bool.false_ne_true] at hexec
  have hbox : ((s.takes u.val 0x20).box u.val).result = none := by rw [State.takes, box_mapBox]
  exact ⟨_, hexec, rfl, rfl, hbox⟩

end

end

/-! The zero fill (R281). -/

theorem reply_maps (s : State) (u st : Nat) (bs : List Byte) : (s.reply u st bs).maps = s.maps := rfl

theorem fillFrame_fills (asid : Nat) (s : State) (pa : Nat) : (fillFrame asid s pa).maps.fills = s.maps.fills := rfl

theorem foldl_fillFrame_fills (asid : Nat) (frames : List Nat) (s : State) :
    (frames.foldl (fillFrame asid) s).maps.fills = s.maps.fills :=
  foldl_keeps (fun s : State => s.maps.fills) (fillFrame_fills asid) frames s

/-- A frame that an ASID owns stays its own while other frames are filled for it (R281). -/
theorem fillFrame_owner_of {asid frame : Nat} {s : State} (pa : Nat) (h : Tbl.find s.maps.frameOwner frame = some asid) :
    Tbl.find (fillFrame asid s pa).maps.frameOwner frame = some asid := by
  show Tbl.find (Tbl.put s.maps.frameOwner (pa / 65536) asid) frame = some asid
  by_cases hf : frame = pa / 65536
  · rw [hf, find_put_same]
  · rw [find_put_other _ _ hf, h]

theorem foldl_fillFrame_owner {asid pa : Nat} {frames : List Nat} (h : pa ∈ frames) (s : State) :
    Tbl.find (frames.foldl (fillFrame asid) s).maps.frameOwner (pa / 65536) = some asid :=
  foldl_of_mem (P := fun s : State => Tbl.find s.maps.frameOwner (pa / 65536) = some asid) h
    (fun _ => find_put_same ..) (fun _ k => fillFrame_owner_of k) s

theorem exec_mapFillComplete {s : State} {u asid : Nat} {va leaf : Word} {big : Bool}
    {rest : List (Nat × Nat × Word × Word × Bool)} (hfills : s.maps.fills = (u, asid, va, leaf, big) :: rest)
    (hfree : agentFree s (agentId 3 u) (pageHomes s asid va.toNat big) = true) :
    exec .mapFillComplete s = .next ((mapPoint ((framesToFill s asid leaf.toNat big).foldl (fillFrame asid)
      { s with maps := { s.maps with fills := rest } }) u asid va.toNat leaf.toNat big).reply u 0 []) := by
  have hframes : framesToFill { s with maps := { s.maps with fills := rest } } asid leaf.toNat big =
    framesToFill s asid leaf.toNat big := rfl
  simp only [exec, execMapFillComplete, hfills, hfree, hframes, Bool.not_true, Bool.false_eq_true, if_false]

/-- The oldest MAP that waits takes its point, and the frames that were filled for it are its ASID's (R281, R337). -/
theorem leads_mapFillComplete {s : State} {u asid : Nat} {va leaf : Word} {big : Bool}
    {rest : List (Nat × Nat × Word × Word × Bool)} (hfills : s.maps.fills = (u, asid, va, leaf, big) :: rest)
    (hfree : agentFree s (agentId 3 u) (pageHomes s asid va.toNat big) = true) : Leads s .mapFillComplete (fun t =>
      t.maps.fills = rest ∧ (t.box u).result = some (0, []) ∧
      ∀ pa ∈ framesToFill s asid leaf.toNat big, Tbl.find t.maps.frameOwner (pa / 65536) = some asid) := by
  refine ⟨_, exec_mapFillComplete hfills hfree, ?_, congrArg Mailbox.result (box_mapBox ..), fun pa hpa => ?_⟩
  · rw [reply_maps, mapPoint_maps, foldl_fillFrame_fills]
  · rw [reply_maps, mapPoint_maps]
    exact foldl_fillFrame_owner hpa _

end Sys2Proof.Machine

end

section

/-!
# Entries that change, and synonyms

UNMAP and PROTECT, AREG and ADEL (R280, R284, R337); and what settles O52.
-/

namespace Sys2Proof.Machine

/-- An arrival takes its turn at once where none waits (R337). -/
theorem takeTurn_alone {s : State} (h : s.links.waiting = []) (a : Arrival) (go : State → State) :
    takeTurn s a go = go s := by
  simp [takeTurn, h]

/-- The entry of a page takes its new value, and its mailbox is answered (R280, R337). -/
theorem remap_done {s : State} {u asid : Nat} {va : Word} {new : Option Word} {entry : Nat} {l : Leaf}
    (hwait : s.links.waiting = []) (hentry : leafEntry s asid va.toNat = some (entry, l))
    (hfree : agentFree s (agentId 3 u) (homesOfLines s (pageLines s asid va.toNat l.big).2) = true)
    (hnew : ¬ (new.isSome = true ∧ ((new.getD 0).toNat / 2 ^ 24 ≠ l.frame ∨
      badLeaf (new.getD 0).toNat (va.toNat / pageSize l.big * pageSize l.big) l.big = true))) :
    ∃ v : State, remap s u asid va new = v.reply u 0 [] ∧ v.boxes = s.boxes ∧
      v.mem = Memory.setNum s.mem entry 8 (new.getD 0).toNat := by
  have hbegun : writesBegun s = false := by rw [writesBegun, hwait]; rfl
  unfold remap
  rw [hentry]
  dsimp only
  rw [hbegun, hfree, if_neg Bool.false_ne_true, if_neg (by decide), if_neg hnew]
  refine ⟨_, rfl, ?_, ?_⟩
  · rw [apply_ite State.boxes, foldl_keeps State.boxes (by simp), agentPoint_boxes, ite_self]
  · rw [ite_mem, foldl_mem (by simp), agentPoint_mem, ite_self]
    rfl

/-- A mapping command that writes no line takes its point where the homes of its page are free (R331, R337). -/
theorem mappingPoint_free {s : State} {u asid va : Nat} {big : Bool}
    (hfree : agentFree s (agentId 3 u) (pageHomes s asid va big) = true) (again : Arrival) (go : State → State) :
    mappingPoint s u asid va big again go =
      (agentPoint (go s) (agentId 3 u) 0 (pageHomes s asid va big) asid [] []).1.reply u 0 [] := by
  unfold mappingPoint
  dsimp only
  rw [hfree, if_neg (by decide)]

/-- The state after the point of a mapping command that has changed the synonyms (R284, R337). -/
def State.aliased (s : State) (u asid va : Nat) (big : Bool) (entries : List (Nat × Nat × Nat × Nat × Nat)) : State :=
  (agentPoint { s with maps := { s.maps with aliases := entries } } (agentId 3 u) 0 (pageHomes s asid va big) asid [] []).1

theorem aliased_boxes (s : State) (u asid va : Nat) (big : Bool) (entries : List (Nat × Nat × Nat × Nat × Nat)) :
    (s.aliased u asid va big entries).boxes = s.boxes := agentPoint_boxes ..

theorem aliased_mem (s : State) (u asid va : Nat) (big : Bool) (entries : List (Nat × Nat × Nat × Nat × Nat)) :
    (s.aliased u asid va big entries).mem = s.mem := agentPoint_mem ..

theorem aliased_maps (s : State) (u asid va : Nat) (big : Bool) (entries : List (Nat × Nat × Nat × Nat × Nat)) :
    (s.aliased u asid va big entries).maps = { s.maps with aliases := entries } := agentPoint_maps ..

/-- A registration that passes its checks is made at its point (R280, R284). -/
theorem register_done {s : State} {u asid casid : Nat} {va cva : Word} {big : Bool}
    (hroom : s.maps.aliases.length < 16384) (hva : va.toNat % pageSize big = 0) (hcva : cva.toNat % pageSize big = 0)
    (hlive : (Tbl.find s.work.asids casid).isSome = true) (hcanon : mappedBig s casid cva.toNat = some big)
    (hother : mappedBig s asid va.toNat ≠ some (!big))
    (hwhole : big = true → mappedBig s asid va.toNat = some true ∨ covered s asid va.toNat true = false)
    (halias : aliasIn s.maps.aliases asid va.toNat = none)
    (hfree : agentFree s (agentId 3 u) (pageHomes s asid va.toNat big) = true) :
    register u asid va casid cva big s = (s.aliased u asid va.toNat big
      (s.maps.aliases ++ [(asid, va.toNat, casid, cva.toNat, if big then 29 else 16)])).reply u 0 [] := by
  have hpart : (big && mappedBig s asid va.toNat != some true && covered s asid va.toNat true) = false := by
    cases hbig : big with
    | false => rfl
    | true => rcases hwhole hbig with h | h <;> simp [h]
  unfold register
  dsimp only
  rw [if_neg ?checks, mappingPoint_free hfree]
  · rfl
  case checks =>
    have hlive' : (Tbl.find s.work.asids casid).isNone = false := Option.isNone_eq_false_iff.2 hlive
    simp [hroom, hva, hcva, hlive', hcanon, hother, hpart, halias]

/-- Whether a registration is of a page of an ASID (R280). -/
def registers (asid va : Nat) (e : Nat × Nat × Nat × Nat × Nat) : Bool := e.1 == asid && e.2.1 == va

/-- The removal of a registration whose page is not mapped is made at its point (R280). -/
theorem unregister_done {s : State} {u asid : Nat} {va : Word} (hunmapped : mappedBig s asid va.toNat = none)
    (hany : s.maps.aliases.any (registers asid va.toNat) = true)
    (hfree : agentFree s (agentId 3 u) (pageHomes s asid va.toNat
      (s.maps.aliases.any (fun e => registers asid va.toNat e && e.2.2.2.2 == 29))) = true) :
    unregister u asid va s = (s.aliased u asid va.toNat
      (s.maps.aliases.any (fun e => registers asid va.toNat e && e.2.2.2.2 == 29))
      (s.maps.aliases.filter (fun e => !registers asid va.toNat e))).reply u 0 [] := by
  have hchecks : (!s.maps.aliases.any (registers asid va.toNat) || (mappedBig s asid va.toNat).isSome) = false := by
    rw [hany, hunmapped]
    rfl
  show (if (!s.maps.aliases.any (registers asid va.toNat) || (mappedBig s asid va.toNat).isSome) = true then _
    else mappingPoint s u asid va.toNat (s.maps.aliases.any (fun e => registers asid va.toNat e && e.2.2.2.2 == 29)) _ _) = _
  rw [hchecks, if_neg Bool.false_ne_true, mappingPoint_free hfree]
  rfl

section
variable {s : State} {u : Fin 21} {asid : Fin 1024} {va leaf : Word} (hwait : s.links.waiting = [])
  (hown : ownsAsid s u asid.val = true)
include hwait hown

section
variable {entry : Nat} {l : Leaf} (hentry : leafEntry s asid.val va.toNat = some (entry, l))
  (hfree : agentFree s (agentId 3 u.val) (homesOfLines s (pageLines s asid.val va.toNat l.big).2) = true)
include hentry hfree

/-- A command that gives an entry a new value has replied once it stands (R280, R337). -/
theorem replies_remap {i : Instr} {code : Nat} {new : Option Word} {again : Arrival} (h : Accepts s u code)
    (hexec : exec i s = submit s u code (ownsAsid s u asid.val)
      (fun s => takeTurn s again (fun s => remap s u.val asid.val va new)))
    (hnew : ¬ (new.isSome = true ∧ ((new.getD 0).toNat / 2 ^ 24 ≠ l.frame ∨
      badLeaf (new.getD 0).toNat (va.toNat / pageSize l.big * pageSize l.big) l.big = true))) :
    Replies s i u code 0 [] (fun t => t.mem = Memory.setNum s.mem entry 8 (new.getD 0).toNat) := by
  have hentry' := (leafEntry_takes s u.val code asid.val va.toNat).trans hentry
  obtain ⟨v, hv, hboxes, hmem⟩ := remap_done (s := s.takes u.val code) (u := u.val) hwait hentry' hfree hnew
  refine replies_submit v _ h hexec rfl hown ?_ hboxes hmem
  exact (takeTurn_alone (s := s.takes u.val code) hwait ..).trans hv

theorem replies_unmap (h : Accepts s u 0x21) :
    Replies s (.unmap u asid va) u 0x21 0 [] (fun t => t.mem = Memory.setNum s.mem entry 8 0) :=
  replies_remap hwait hown hentry hfree h (new := none) rfl (fun ⟨hsome, _⟩ => Bool.false_ne_true hsome)

theorem replies_protect (h : Accepts s u 0x22) (hframe : leaf.toNat / 2 ^ 24 = l.frame)
    (hleaf : badLeaf leaf.toNat (va.toNat / pageSize l.big * pageSize l.big) l.big = false) :
    Replies s (.protect u asid va leaf) u 0x22 0 [] (fun t => t.mem = Memory.setNum s.mem entry 8 leaf.toNat) := by
  refine replies_remap hwait hown hentry hfree h (new := some leaf) rfl ?_
  rintro ⟨-, hne | hbad⟩
  · exact hne hframe
  · exact Bool.false_ne_true (hleaf.symm.trans hbad)

end

theorem replies_areg {casid : Fin 1024} {cva : Word} {big : Bool} (h : Accepts s u 0x23)
    (hroom : s.maps.aliases.length < 16384) (hva : va.toNat % pageSize big = 0) (hcva : cva.toNat % pageSize big = 0)
    (hlive : (Tbl.find s.work.asids casid.val).isSome = true) (hcanon : mappedBig s casid.val cva.toNat = some big)
    (hother : mappedBig s asid.val va.toNat ≠ some (!big))
    (hwhole : big = true → mappedBig s asid.val va.toNat = some true ∨ covered s asid.val va.toNat true = false)
    (halias : aliasIn s.maps.aliases asid.val va.toNat = none)
    (hfree : agentFree s (agentId 3 u.val) (pageHomes s asid.val va.toNat big) = true) :
    Replies s (.areg u asid va casid cva big) u 0x23 0 [] (fun t => t.mem = s.mem ∧ t.maps.aliases =
      s.maps.aliases ++ [(asid.val, va.toNat, casid.val, cva.toNat, if big then 29 else 16)]) := by
  have hmapped := mappedBig_takes s u.val 0x23 asid.val va.toNat
  have hcovered := covered_takes s u.val 0x23 asid.val va.toNat true
  have hdone := register_done (s := s.takes u.val 0x23) (u := u.val) hroom hva hcva hlive
    ((mappedBig_takes ..).trans hcanon) (fun h => hother (hmapped.symm.trans h))
    (fun hbig => (hwhole hbig).imp hmapped.trans hcovered.trans) halias hfree
  refine replies_submit _ (execAreg u asid va casid cva big s) h rfl rfl hown
    ((takeTurn_alone (s := s.takes u.val 0x23) hwait ..).trans hdone) (aliased_boxes ..) ⟨aliased_mem .., ?_⟩
  rw [reply_maps, aliased_maps]
  rfl

theorem replies_adel (h : Accepts s u 0x24) (hunmapped : mappedBig s asid.val va.toNat = none)
    (hany : s.maps.aliases.any (registers asid.val va.toNat) = true)
    (hfree : agentFree s (agentId 3 u.val) (pageHomes s asid.val va.toNat
      (s.maps.aliases.any (fun e => registers asid.val va.toNat e && e.2.2.2.2 == 29))) = true) :
    Replies s (.adel u asid va) u 0x24 0 [] (fun t => t.mem = s.mem ∧
      ∀ e ∈ t.maps.aliases, ¬ (e.1 = asid.val ∧ e.2.1 = va.toNat)) := by
  have hdone := unregister_done (s := s.takes u.val 0x24) (u := u.val)
    ((mappedBig_takes ..).trans hunmapped) hany hfree
  refine replies_submit _ (execAdel u asid va s) h rfl rfl hown
    ((takeTurn_alone (s := s.takes u.val 0x24) hwait ..).trans hdone) (aliased_boxes ..) ⟨aliased_mem .., fun e he => ?_⟩
  rw [reply_maps, aliased_maps] at he
  rintro ⟨hasid, hva⟩
  have hkept : (!registers asid.val va.toNat e) = true := (List.mem_filter.1 he).2
  simp [registers, hasid, hva] at hkept

end

/-- Settles O52: each command on address spaces replies, or waits, with the effect that its clause names. -/
theorem mappingCommands : Obligations.MappingCommands := by
  intro s u asid casid va cva leaf root big place f n
  refine ⟨replies_ascreate, replies_asretire, (replies_quota · n), ?map, fun rest => leads_mapFillComplete,
    fun entry l hwait hown hentry hfree =>
      ⟨replies_unmap hwait hown hentry hfree, replies_protect hwait hown hentry hfree⟩,
    fun h hown hroom hva hcva hlive hcanon hother hwhole halias hwait hfree =>
      replies_areg hwait hown h hroom hva hcva hlive hcanon hother hwhole halias hfree,
    fun h hown hunmapped hany hwait hfree => replies_adel hwait hown h hunmapped hany hfree⟩
  case map =>
    intro h hown hleaf hnew hsize hshare
    refine ⟨fun hnow => replies_map h hown hleaf hnew hsize hshare ((mapsNow_iff ..).2 hnow), fun hnow => ?_⟩
    exact leads_map_waits h hown hleaf hnew hsize hshare (Bool.eq_false_iff.2 (mt (mapsNow_iff ..).1 hnow))

end Sys2Proof.Machine

end

section

/-!
# CSRs as read

What each CSR number reads as (R105, R106, R108, R113), and CSRR, which gives that value (R392); and what settles O31.
-/

namespace Sys2Proof.Machine

/-- CSRR gives the CSR's value: the supervisor's CSRs to the supervisor alone, and FFLAGS once no shipped instruction that
may still raise a flag is outstanding (R110, R244, R392). -/
theorem givesG_csrr {s : State} {n : BitVec 10} {x : Word} (d : Fin 32) (z : Fin 8)
    (hsuper : csrSuper n = true → s.cur.super = true) (hflags : n = 0x010 → shipsOut s = false)
    (hread : csrRead s n = x) : GivesG s (.csrr n d z) 4 d x := by
  refine givesG_put (lat := 2) (z := z) ?_ hread
  have hprivileged : ¬ (csrSuper n && !s.cur.super) = true := by simpa using hsuper
  have hsettled : ¬ ((decide (n = 0x010) && shipsOut s) = true) := by simpa using hflags
  show csrOp (.csrr n d z) n d [] none z s = _
  simp only [csrOp, Option.map_none, Option.getD_none, Bool.and_false, if_neg hprivileged, if_neg hsettled]
  exact check_of_readable (srcs := []) (.inr rfl) _

theorem ofNat_bitOf (b : Bool) : BitVec.ofNat 64 (bitOf b) = if b then 1 else 0 := by cases b <;> rfl

/-- SBCHK reads as its one bit (R105). -/
theorem csrRead_sbchk (s : State) : csrRead s 0x030 = if s.cur.r.sbchk then 1 else 0 := ofNat_bitOf _

/-- PARKSEL reads as the tid written to it, with ok where a parked thread has that tid (R105, R113). -/
theorem csrRead_parksel (s : State) : csrRead s 0x060 =
    BitVec.ofNat 64 (s.cur.parksel.toNat + if (selected s).isSome then 2 ^ 17 else 0) := by
  cases h : (selected s).isSome <;> simp [csrRead, bitOf, h]

/-- Without a selected thread the CSRs of its trap read 0 (R113). -/
theorem csrRead_unselected {s : State} (h : selected s = none) :
    ∀ n ∈ [(0x040 : BitVec 10), 0x041, 0x042, 0x043, 0x044], csrRead s n = 0 := by
  simp [csrRead, h, bitOf]

section
variable {s : State} {u : Thread} (hsel : selected s = some u)
include hsel

/-- TRPC and STEP read those of the selected thread (R105, R113). -/
theorem csrRead_trpc : csrRead s 0x041 = u.trpc := by simp [csrRead, hsel]

theorem csrRead_step : csrRead s 0x044 = if u.stepFlag then 1 else 0 := by simp [csrRead, hsel, ofNat_bitOf]

/-- TRCAUSE, TRVAL and TRVAL2 read the selected thread's record (R105, R113). -/
theorem csrRead_trcause {r : Rec} (htrap : u.trap = some r) : csrRead s 0x040 = recWord0 r := by
  simp [csrRead, hsel, htrap]

theorem csrRead_trval {r : Rec} (htrap : u.trap = some r) : csrRead s 0x042 = r.val := by
  simp [csrRead, hsel, htrap]

theorem csrRead_trval2 {r : Rec} (htrap : u.trap = some r) : csrRead s 0x043 = r.val2 := by
  simp [csrRead, hsel, htrap]

end

/-- Settles O31: CSRR gives what `csrRead` holds, and each number of R105 reads as its row says. -/
theorem csrReads : Obligations.CsrReads := by
  intro s d z c user
  have huser : ∀ e ∈ user, csrSuper e.1 = false ∧ e.1 ≠ 0x010 ∧ csrRead s e.1 = e.2 := by
    simp only [user, List.forall_mem_cons]
    refine ⟨?tid, ?asid, ?level, ?item, ?fmode, ?srseed, ?scxg, ?waitto, ?chseq, ?chctl, ?chstat, ?sbchk, ?cycle,
      ?instret, ?commits, ?squashes, List.forall_mem_nil _⟩
    case sbchk => exact ⟨rfl, by decide, csrRead_sbchk s⟩
    all_goals exact ⟨rfl, by decide, rfl⟩
  refine ⟨fun e he => ?_, fun hships => givesG_csrr d z nofun (fun _ => hships) rfl, fun hsuper => ?_⟩
  · obtain ⟨hopen, hflags, hread⟩ := huser e he
    exact givesG_csrr d z (by simp [hopen]) (absurd · hflags) hread
  · have hgives {n : BitVec 10} {x : Word} (hn : n ≠ 0x010) : csrRead s n = x → GivesG s (.csrr n d z) 4 d x :=
      givesG_csrr d z (fun _ => hsuper) (absurd · hn)
    refine ⟨hgives (by decide) rfl, fun hnone => ⟨fun n hn => ?_, ?_⟩, fun u r hsel htrap => ?_⟩
    · exact hgives (by rintro rfl; simp at hn) (csrRead_unselected hnone n hn)
    · exact hgives (by decide) ((csrRead_parksel s).trans (by simp [hnone, c]))
    · exact ⟨hgives (by decide) (csrRead_trcause hsel htrap), hgives (by decide) (csrRead_trpc hsel),
        hgives (by decide) (csrRead_trval hsel htrap), hgives (by decide) (csrRead_trval2 hsel htrap),
        hgives (by decide) (csrRead_step hsel), hgives (by decide) ((csrRead_parksel s).trans (by simp [hsel, c]))⟩

end Sys2Proof.Machine

end
